-- ==== Sys2Proof/Word.lean ====
section
/-! DEFINITION. The word types of the drive and their plainest arithmetic (00_scope, R10, R11). -/

namespace Sys2Proof

/-- One byte. -/
abbrev Byte := BitVec 8

/-- A byte string, lowest address first (R11). -/
abbrev Bytes := List Byte

/-- A 64-bit register or time-counter value. -/
abbrev Word := BitVec 64

/-- A context number, 0 to 63 (R38). -/
abbrev CtxId := Fin 64

/-- A partition number, 0 to 7 (R297). -/
abbrev PartId := Fin 8

/-- A program slot, 0 to 31 (R77). -/
abbrev SlotId := Fin 32

/-- An index number, 0 to 63 (R222). -/
abbrev IdxId := Fin 64

/-- A forager or flash channel, 0 to 31 (R18). -/
abbrev ChanId := Fin 32

/-- An active array, 0 to 191 (R19). -/
abbrev ArrId := Fin 192

/-- Bits [hi:lo] of a bit vector as a number (R10). -/
def bitsOf {w : Nat} (v : BitVec w) (hi lo : Nat) : Nat :=
  (v.toNat >>> lo) % 2 ^ (hi + 1 - lo)

/-- One bit of a bit vector (R10). -/
def bitOf {w : Nat} (v : BitVec w) (i : Nat) : Bool :=
  v.getLsbD i

/-- `1` for true, `0` for false. -/
def b2n (b : Bool) : Nat := if b then 1 else 0

/-- ⌈a / b⌉ for positive `b`. -/
def ceilDiv (a b : Nat) : Nat := (a + b - 1) / b

/-- The next multiple of `b` at or above `a`. -/
def roundUp (a b : Nat) : Nat := ceilDiv a b * b

/-- The vector whose entry at `i` is `f i`; it evaluates in the kernel. -/
def vgen {α : Type} (n : Nat) (f : Nat → α) : Vector α n :=
  ⟨((List.range n).map f).toArray, by simp⟩

/-- A function applied to every entry of a vector; it evaluates in the kernel. -/
def vmap {α β : Type} {n : Nat} (f : α → β) (v : Vector α n) : Vector β n :=
  ⟨(v.toArray.toList.map f).toArray, by simp⟩

end Sys2Proof
end

