-- ==== Sys2Proof/Syntax.lean ====
section
/-! DEFINITION. The commands of the block: one constructor for each row of spec/opcode_table.json, with
the row's operands (95_what_each_step_holds: each step is whole and indivisible). -/

namespace Sys2Proof

/-- Where a command or a register access comes from (R430, R501). A supervisor's write carries its number
and the epoch it believes current (R478). -/
inductive Port where
  | host
  | management
  | fabric
  | debug
  | supervisor (n : Fin 2) (epoch : BitVec 16)
deriving DecidableEq, Repr

/-- The fields of a Colord instruction word below its opcode (R85): the opcode is the constructor's. -/
structure Insn where
  cls  : BitVec 4
  pred : BitVec 3
  pinv : Bool
  mod  : BitVec 16
  opr  : BitVec 96
deriving DecidableEq, Repr

/-- How an NVMe command reached the drive: its port, submission queue (0 is the admin queue), command
identifier and PSDT field (R399). `rsv` says that some field of the command beside the operands that its constructor
shows is not zero where the drive reserves it, or asks for an option that the drive does not support: a fused operation, a
directive, protection information, a command set or feature of another kind (R4, R14, R399, R400). -/
structure Hdr where
  port : Port
  sq   : BitVec 16
  cid  : BitVec 16
  psdt : BitVec 2
  rsv  : Bool
deriving DecidableEq, Repr

/-- Command dwords 10 to 15 of an NVMe command. -/
structure Dw where
  d10 : BitVec 32
  d11 : BitVec 32
  d12 : BitVec 32
  d13 : BitVec 32
  d14 : BitVec 32
  d15 : BitVec 32
deriving DecidableEq, Repr

/-- The options of an NVM data command: force unit access (R417) and the vendor ordering bit (R421). -/
structure NvmOpt where
  fua : Bool
  ord : Bool
deriving DecidableEq, Repr

/-- A logical block of a namespace. -/
structure BlkKey where
  nsid : BitVec 32
  lba  : BitVec 64
deriving DecidableEq, Repr

/-- A flash block: a die (channel × 48 + die position, R494) and its block number (R363). -/
structure FlashBlk where
  die   : Fin 1536
  block : Fin 9375
deriving DecidableEq, Repr

/-- A range of a memory namespace (R414). -/
structure MemRange where
  nsid  : BitVec 32
  start : BitVec 64
  len   : BitVec 64
deriving DecidableEq, Repr

/-- What flash holds after R386 at the moment the drive loses power or is reset: the blocks of the write
cache that a started program carried, and for each index the highest brood sequence number that survives
(R253, R386, R449). The spec leaves both to the moment; the environment names them (assumption 10). -/
structure Survivors where
  blocks : List BlkKey
  brood  : List (IdxId × BitVec 64)
deriving DecidableEq, Repr

/-- What a scrub or a repair works on: a code page of Tier N or Tier F, or a 64-bit SRAM word of a comb
array (physical number) or of a forager (R281, R282, R295). -/
inductive EccPlace where
  | tier (page : Nat)
  | comb (phys : Fin 200) (off : Nat)
  | forager (n : ChanId) (off : Nat)
deriving DecidableEq, Repr

/-- What the two codes find (R281 to R287): no error, one SECDED-corrected bit, a page-code correction of
`n` symbols, or an error neither code corrects. -/
inductive EccResult where
  | clean
  | secded (bit : Fin 72)
  | pageCode (n : Fin 15)
  | uncorrectable
deriving DecidableEq, Repr

/-- A received frame: the 48-byte Hornak header but for TYPE, which the constructor names, with the two MAC addresses and
the EtherType (R323, R324, R333, R338). -/
structure FrameHdr where
  ver     : BitVec 8
  hive    : BitVec 16
  src     : BitVec 16
  dst     : BitVec 16
  epoch   : BitVec 16
  seq     : BitVec 16
  stamp   : BitVec 48
  rsvA    : BitVec 16
  round   : BitVec 32
  sgen    : BitVec 32
  msg     : BitVec 32
  msglen  : BitVec 32
  segno   : BitVec 16
  segcnt  : BitVec 16
  plen    : BitVec 16
  rsvB    : BitVec 48
  srcMac  : BitVec 48
  dstMac  : BitVec 48
  etype   : BitVec 16
deriving DecidableEq, Repr

/-- The commands of the OX4915, one constructor for each row of the table of operations and events. -/
inductive Instr where
  -- Colord control, 03
  | loop (c : CtxId) (w : Insn)
  | br (c : CtxId) (w : Insn)
  | call (c : CtxId) (w : Insn)
  | ret (c : CtxId) (w : Insn)
  | waitt (c : CtxId) (w : Insn)
  | waittExpiry (c : CtxId)
  | bar (c : CtxId) (w : Insn)
  | barRelease (c : CtxId)
  | fence (c : CtxId) (w : Insn)
  -- Colord scalar, 03
  | add (c : CtxId) (w : Insn)
  | sub (c : CtxId) (w : Insn)
  | mul (c : CtxId) (w : Insn)
  | and (c : CtxId) (w : Insn)
  | or (c : CtxId) (w : Insn)
  | xor (c : CtxId) (w : Insn)
  | shl (c : CtxId) (w : Insn)
  | shr (c : CtxId) (w : Insn)
  | sra (c : CtxId) (w : Insn)
  | minu (c : CtxId) (w : Insn)
  | maxu (c : CtxId) (w : Insn)
  | cmp (c : CtxId) (w : Insn)
  | ldi (c : CtxId) (w : Insn)
  | pmov (c : CtxId) (w : Insn)
  | lds (c : CtxId) (w : Insn)
  | sts (c : CtxId) (w : Insn)
  -- Colord tensor, 03
  | mma (c : CtxId) (w : Insn)
  | dist (c : CtxId) (w : Insn)
  | cmpk (c : CtxId) (w : Insn)
  | topk (c : CtxId) (w : Insn)
  | req (c : CtxId) (w : Insn)
  | srnd (c : CtxId) (w : Insn)
  | updw (c : CtxId) (w : Insn)
  -- Colord movement, 03 and 08
  | ldt (c : CtxId) (w : Insn)
  | stt (c : CtxId) (w : Insn)
  | gath (c : CtxId) (w : Insn)
  | pref (c : CtxId) (w : Insn)
  | prefMoveComplete (c : CtxId) (i : Nat)
  | prefFallback (c : CtxId)
  -- Colord storage, 03 and 07
  | scan (c : CtxId) (w : Insn)
  | foragerReturn (c : CtxId)
  | pgrdLba (c : CtxId) (w : Insn)
  | pgrdVectors (c : CtxId) (w : Insn)
  | pgrdBrood (c : CtxId) (w : Insn)
  | apnd (c : CtxId) (w : Insn)
  | apndResume (c : CtxId)
  -- Colord fabric and system, 03
  | send (c : CtxId) (w : Insn)
  | recv (c : CtxId) (w : Insn)
  | lease (c : CtxId) (w : Insn)
  | leaseRelease (c : CtxId) (w : Insn)
  | setpTrapMask (c : CtxId) (w : Insn)
  | setpRatioBand (c : CtxId) (w : Insn)
  | setpRatioBandRemoval (c : CtxId) (w : Insn)
  | setpDefaultDeadline (c : CtxId) (w : Insn)
  | evt (c : CtxId) (w : Insn)
  | reservedOpcode (c : CtxId) (opc : BitVec 8) (w : Insn)
  | stepLimit (c : CtxId)
  -- scheduler events, 09
  | sliceEnd (p : PartId)
  | arrayClearComplete (p : PartId)
  | saveComplete (p : PartId)
  | restoreComplete (p : PartId)
  | evictionComplete (c : CtxId)
  | starvationTimeout (c : CtxId)
  -- programs, contexts, partitions, 02, 09, 12
  | loadProgram (h : Hdr) (ptype : BitVec 8) (slot : SlotId) (off total : BitVec 32) (piece : Bytes)
  | programActivate (h : Hdr) (slot : SlotId)
  | programDeactivate (h : Hdr) (slot : SlotId)
  | executeProgram (h : Hdr) (d : Dw) (input : Bytes)
  | contextCreate (h : Hdr) (d : Dw)
  | contextDelete (h : Hdr) (d : Dw)
  | partitionDefine (h : Hdr) (d : Dw) (desc : Bytes)
  | partitionChange (h : Hdr) (d : Dw) (desc : Bytes)
  | partitionDelete (h : Hdr) (d : Dw) (desc : Bytes)
  | partitionReset (h : Hdr) (d : Dw) (desc : Bytes)
  -- indexes, 07, 12
  | indexCreate (h : Hdr) (d : Dw) (desc : Bytes)
  | indexDelete (h : Hdr) (d : Dw) (desc : Bytes)
  | indexStageCentroids (h : Hdr) (d : Dw) (desc : Bytes)
  | indexStageAttributes (h : Hdr) (d : Dw) (desc : Bytes)
  | indexMerge (h : Hdr) (d : Dw) (desc : Bytes)
  | indexSetShare (h : Hdr) (d : Dw) (desc : Bytes)
  | broodMergeStart
  | generationChange
  | broodMirrorDurable (i : IdxId) (upto : BitVec 64)
  -- fabric management, 10, 12
  | setNodeId (h : Hdr) (d : Dw)
  | fabNodeWrite (p : Port) (v : BitVec 64) (be : BitVec 8)
  | joinHive (h : Hdr) (d : Dw)
  | leaveHive (h : Hdr) (d : Dw)
  | schedulePiece (h : Hdr) (d : Dw) (data : Bytes)
  | routeEntry (h : Hdr) (d : Dw) (data : Bytes)
  | fabricSettings (h : Hdr) (d : Dw)
  -- NVM commands, 12
  | read (h : Hdr) (nsid : BitVec 32) (lba : BitVec 64) (nlb : BitVec 16) (o : NvmOpt)
  | write (h : Hdr) (nsid : BitVec 32) (lba : BitVec 64) (nlb : BitVec 16) (o : NvmOpt) (data : Bytes)
  | writeZeroes (h : Hdr) (nsid : BitVec 32) (lba : BitVec 64) (nlb : BitVec 16) (o : NvmOpt)
  | writeUncorrectable (h : Hdr) (nsid : BitVec 32) (lba : BitVec 64) (nlb : BitVec 16) (o : NvmOpt)
  | compare (h : Hdr) (nsid : BitVec 32) (lba : BitVec 64) (nlb : BitVec 16) (o : NvmOpt) (data : Bytes)
  | datasetManagement (h : Hdr) (nsid : BitVec 32) (d : Dw) (ranges : List (BitVec 64 × BitVec 32))
  | flush (h : Hdr) (nsid : BitVec 32) (d : Dw)
  | writeCacheProgramComplete (dseq : BitVec 64)
  | rangeLockRelease
  -- admin commands, 12
  | identify (h : Hdr) (nsid : BitVec 32) (cns : BitVec 8)
  | getLogPage (h : Hdr) (lid : BitVec 8) (lsi : BitVec 16) (rae : Bool) (off : BitVec 64) (len : BitVec 32)
  | getFeatures (h : Hdr) (d : Dw)
  | setFeaturesPowerManagement (h : Hdr) (d : Dw)
  | setFeaturesPowerLimit (h : Hdr) (d : Dw)
  | setFeaturesIdleFallback (h : Hdr) (d : Dw)
  | setFeaturesAutonomousPst (h : Hdr) (d : Dw) (table : Bytes)
  | setFeaturesVolatileWriteCache (h : Hdr) (d : Dw)
  | setFeaturesTemperatureThreshold (h : Hdr) (d : Dw)
  | namespaceManagement (h : Hdr) (nsid : BitVec 32) (d : Dw) (data : Bytes)
  | namespaceAttachment (h : Hdr) (nsid : BitVec 32) (d : Dw)
  | formatNvm (h : Hdr) (nsid : BitVec 32) (d : Dw)
  | firmwareImageDownload (h : Hdr) (d : Dw) (data : Bytes)
  | firmwareCommit (h : Hdr) (d : Dw)
  | firmwareCommitActivate (h : Hdr) (d : Dw)
  | abort (h : Hdr) (d : Dw)
  | asynchronousEventRequest (h : Hdr)
  | createIoSubmissionQueue (h : Hdr) (d : Dw)
  | deleteIoSubmissionQueue (h : Hdr) (d : Dw)
  | createIoCompletionQueue (h : Hdr) (d : Dw)
  | deleteIoCompletionQueue (h : Hdr) (d : Dw)
  | nvmeMiSend (h : Hdr) (d : Dw) (data : Bytes)
  | nvmeMiReceive (h : Hdr) (d : Dw)
  | unsupportedOpcode (h : Hdr) (opc : BitVec 8)
  -- subsystem local memory, 08, 12
  | memoryRangeSetManagement (h : Hdr) (d : Dw) (ranges : List MemRange)
  | memoryRead (h : Hdr) (nsid : BitVec 32) (addr : BitVec 64) (len : BitVec 32)
  | memoryWrite (h : Hdr) (nsid : BitVec 32) (addr : BitVec 64) (data : Bytes)
  -- management port, 12
  | readNvmeMiDataStructure (tag : BitVec 16) (dtyp : BitVec 8)
  | subsystemHealthStatusPoll (tag : BitVec 16)
  | controllerHealthStatusPoll (tag : BitVec 16)
  | configurationGet (tag : BitVec 16) (cfg : BitVec 8)
  | configurationSet (tag : BitVec 16) (cfg : BitVec 8) (v : BitVec 32)
  | vpdRead (tag : BitVec 16) (off len : BitVec 16)
  | managementReset (tag : BitVec 16) (k : Survivors)
  | tunnelledAdminCommand (tag : BitVec 16) (opc : BitVec 8) (nsid : BitVec 32) (d : Dw) (data : Bytes)
  | registerRead (tag : BitVec 16) (off : BitVec 32)
  | registerWrite (tag : BitVec 16) (off : BitVec 32) (v : BitVec 64)
  -- BAR2 registers, 16
  | bar2RegisterWrite (p : Port) (off : BitVec 32) (v : BitVec 64) (be : BitVec 8)
  | rcRegisterRead (p : Port) (off : BitVec 32) (n : BitVec 4)
  | telLimitWrite (p : Port) (v : BitVec 64) (be : BitVec 8)
  | supClaim (n : Fin 2) (v : BitVec 64) (be : BitVec 8)
  | rstBlkGo (p : Port) (blk : BitVec 8)
  | blockIdle
  | blockResetTimeout
  | blockResetDone
  -- boot store, 14
  | bstRead (p : Port)
  | bstProgram (p : Port)
  | bstErase (p : Port)
  | bstSuspend (p : Port)
  | bstResume (p : Port)
  | bstProtect (p : Port)
  | bstClearProtection (p : Port)
  | bstStorePassword (p : Port)
  | bstLock (p : Port)
  | bstUnlock (p : Port)
  | bstReservedOp (p : Port) (op : BitVec 4)
  | bstOperationComplete (ok : Bool)
  -- resets and boot, 14
  | nvmeControllerReset
  | normalShutdown
  | nvmSubsystemReset (k : Survivors)
  | powerOn
  | perstAssert (k : Survivors)
  | perstDeassert
  | pcieHotReset (k : Survivors)
  | watchdogExpiry (k : Survivors)
  | trimLoadPass (ok : Bool)
  | bootImageLoaded
  | primacyClaimTimeout (n : Fin 2)
  | mapReplay
  | supervisorHeartbeat (n : Fin 2)
  | heartbeatTimeout (n : Fin 2)
  | takeoverComplete
  | supervisorReturnTimeout (n : Fin 2)
  -- telemetry and power, 13, 17
  | samplePeriod (raw : List Int)
  | excursionLimit
  | guardExpiry
  | overpowerComparator
  | thermalThrottleStep (g : Fin 6) (i : Fin 32)
  | sensorFailure (i : Fin 96)
  | deratingUpdate
  | temphistUpdate
  | readLevelTracking (die : Fin 1536) (best : List Int)
  | powerFail (k : Survivors)
  | powerReturn
  | holdupTest (pass : Bool)
  | holdupCharged (pass : Bool)
  | cageModulePresent (p : Fin 2) (present : Bool)
  -- flash media, 11
  | flashProgramFail (b : FlashBlk)
  | flashEraseFail (b : FlashBlk)
  | dieFailure (die : Fin 1536)
  | dieRebuildComplete (die : Fin 1536)
  | eraseSuspend (die : Fin 1536)
  | eraseResume (die : Fin 1536)
  | patrolRead (b : FlashBlk) (level : Fin 5)
  | relocation (b : FlashBlk)
  | racking
  | hostWriteIdle
  | garbageCollection
  | checkpoint
  -- memory upkeep, 08
  | scrubPage (pl : EccPlace) (r : EccResult)
  | sramRowRepair (pl : EccPlace)
  | dramRowRepair (frames : List Nat) (site : BitVec 8) (spare : Bool)
  | demotionResume
  -- failures, 15
  | tierFPackageFailure (p : Fin 14) (lost : List Nat)
  | tierNStackFailure (st : Fin 4)
  | arrayFailure (phys : Fin 200)
  | foragerFailure (n : ChanId)
  -- Hornak messages, 10
  | announce (p : Fin 2) (f : FrameHdr) (pl : Bytes)
  | schedule (p : Fin 2) (f : FrameHdr) (pl : Bytes)
  | query (p : Fin 2) (f : FrameHdr) (pl : Bytes)
  | answer (p : Fin 2) (f : FrameHdr) (pl : Bytes)
  | absent (p : Fin 2) (f : FrameHdr) (pl : Bytes)
  | final (p : Fin 2) (f : FrameHdr) (pl : Bytes)
  | resync (p : Fin 2) (f : FrameHdr) (pl : Bytes)
  | resyncAck (p : Fin 2) (f : FrameHdr) (pl : Bytes)
  | leaseReq (p : Fin 2) (f : FrameHdr) (pl : Bytes)
  | leaseGrant (p : Fin 2) (f : FrameHdr) (pl : Bytes)
  | leaseRel (p : Fin 2) (f : FrameHdr) (pl : Bytes)
  | xacc (p : Fin 2) (f : FrameHdr) (pl : Bytes)
  | xdata (p : Fin 2) (f : FrameHdr) (pl : Bytes)
  | power (p : Fin 2) (f : FrameHdr) (pl : Bytes)
  | budget (p : Fin 2) (f : FrameHdr) (pl : Bytes)
  | reservedFrame (p : Fin 2) (typ : BitVec 8) (f : FrameHdr) (pl : Bytes)
  | messageTimeout
  | routeEntryExpiry (node : BitVec 12) (p : Fin 2)
  | announceTimer
  | scheduleResend
  | electionTimeout
  | roundStart
  | intakeWindow
  | computeWindowEnd
  | slotStart
  | acceptanceLimit (child : Fin 512)
  | bulkWindow
  | hiveAnswerTimeout
  | leaseReplyTimeout (req : BitVec 32)
  | leaseLossTimeout (lender : BitVec 12)
  -- time and ports, 10
  | gptpSync (gm : BitVec 64)
  | holdoverTimeout
  | laneFailure (lane : Fin 8)
  | degradedTrainingTimeout (p : Fin 2)
  | portDown (p : Fin 2)
  -- power states, controller, late rows, 12
  | psEntryComplete
  | psExitComplete
  | idleFallbackTimer
  | controllerEnable
  | linkUp (p : Fin 2) (lanes : Fin 5)
  | syncMessagesStop
  | eraseComplete (die : Fin 1536)
  | mctpControlMessage (tag : BitVec 16) (code : BitVec 8)
deriving DecidableEq, Repr

end Sys2Proof
end

