-- ==== Sys2Proof/Decode.lean ====
section
/-! DEFINITION. The decoder of Colord instruction words (03, R85, R86, R96), its encoder, and the host's
view of the table of operations and events, whose rows give no bits. -/

namespace Sys2Proof

/-- The fields below the opcode of an instruction word (R85). -/
def insnOf (v : BitVec 128) : Insn :=
  { cls := v.extractLsb' 116 4, pred := v.extractLsb' 113 3, pinv := v.getLsbD 112,
    mod := v.extractLsb' 96 16, opr := v.extractLsb' 0 96 }

/-- `SRC` of PGRD, `MOD`[105:104] (R129). -/
def pgrdSrc (w : Insn) : Nat := bitsOf w.mod 9 8

/-- `REL` of LEASE, `MOD`[104] (R135). -/
def leaseRel (w : Insn) : Bool := bitOf w.mod 8

/-- The command that issuing an instruction word on context `c` stands for (R96). PGRD, LEASE and SETP
have a row for each of their forms; a reserved code of PGRD's `SRC` goes to the row of `SRC` 0 and a
reserved parameter of SETP to the row of the trap mask, whose meanings fault on it (R129, R136). -/
def decodeColord (c : CtxId) (v : BitVec 128) : Instr :=
  let w := insnOf v
  match (v.extractLsb' 120 8).toNat with
  | 0x01 => .loop c w
  | 0x02 => .br c w
  | 0x03 => .call c w
  | 0x04 => .ret c w
  | 0x05 => .waitt c w
  | 0x06 => .bar c w
  | 0x07 => .fence c w
  | 0x10 => .add c w
  | 0x11 => .sub c w
  | 0x12 => .mul c w
  | 0x13 => .and c w
  | 0x14 => .or c w
  | 0x15 => .xor c w
  | 0x16 => .shl c w
  | 0x17 => .shr c w
  | 0x18 => .sra c w
  | 0x19 => .minu c w
  | 0x1A => .maxu c w
  | 0x1B => .cmp c w
  | 0x1C => .ldi c w
  | 0x1D => .pmov c w
  | 0x1E => .lds c w
  | 0x1F => .sts c w
  | 0x20 => .mma c w
  | 0x21 => .dist c w
  | 0x22 => .cmpk c w
  | 0x23 => .topk c w
  | 0x24 => .req c w
  | 0x25 => .srnd c w
  | 0x26 => .updw c w
  | 0x30 => .ldt c w
  | 0x31 => .stt c w
  | 0x32 => .gath c w
  | 0x33 => .pref c w
  | 0x40 => .scan c w
  | 0x41 =>
    if pgrdSrc w = 1 then .pgrdVectors c w else if pgrdSrc w = 2 then .pgrdBrood c w else .pgrdLba c w
  | 0x42 => .apnd c w
  | 0x50 => .send c w
  | 0x51 => .recv c w
  | 0x52 => if leaseRel w then .leaseRelease c w else .lease c w
  | 0x60 =>
    if w.mod = 1 then .setpRatioBand c w else if w.mod = 2 then .setpRatioBandRemoval c w
    else if w.mod = 3 then .setpDefaultDeadline c w else .setpTrapMask c w
  | 0x61 => .evt c w
  | _ => .reservedOpcode c (v.extractLsb' 120 8) w

/-- Whether an opcode is reserved (R96). -/
def opcReserved (o : BitVec 8) : Bool :=
  let n := o.toNat
  !(decide (1 ≤ n ∧ n ≤ 7) || decide (0x10 ≤ n ∧ n ≤ 0x1F) || decide (0x20 ≤ n ∧ n ≤ 0x26) ||
    decide (0x30 ≤ n ∧ n ≤ 0x33) || decide (0x40 ≤ n ∧ n ≤ 0x42) || decide (0x50 ≤ n ∧ n ≤ 0x52) ||
    decide (n = 0x60 ∨ n = 0x61))

/-- The context, opcode and fields of a command that issues an instruction; none for any other command. -/
def colordParts : Instr → Option (CtxId × BitVec 8 × Insn)
  | .loop c w => some (c, 0x01, w)
  | .br c w => some (c, 0x02, w)
  | .call c w => some (c, 0x03, w)
  | .ret c w => some (c, 0x04, w)
  | .waitt c w => some (c, 0x05, w)
  | .bar c w => some (c, 0x06, w)
  | .fence c w => some (c, 0x07, w)
  | .add c w => some (c, 0x10, w)
  | .sub c w => some (c, 0x11, w)
  | .mul c w => some (c, 0x12, w)
  | .and c w => some (c, 0x13, w)
  | .or c w => some (c, 0x14, w)
  | .xor c w => some (c, 0x15, w)
  | .shl c w => some (c, 0x16, w)
  | .shr c w => some (c, 0x17, w)
  | .sra c w => some (c, 0x18, w)
  | .minu c w => some (c, 0x19, w)
  | .maxu c w => some (c, 0x1A, w)
  | .cmp c w => some (c, 0x1B, w)
  | .ldi c w => some (c, 0x1C, w)
  | .pmov c w => some (c, 0x1D, w)
  | .lds c w => some (c, 0x1E, w)
  | .sts c w => some (c, 0x1F, w)
  | .mma c w => some (c, 0x20, w)
  | .dist c w => some (c, 0x21, w)
  | .cmpk c w => some (c, 0x22, w)
  | .topk c w => some (c, 0x23, w)
  | .req c w => some (c, 0x24, w)
  | .srnd c w => some (c, 0x25, w)
  | .updw c w => some (c, 0x26, w)
  | .ldt c w => some (c, 0x30, w)
  | .stt c w => some (c, 0x31, w)
  | .gath c w => some (c, 0x32, w)
  | .pref c w => some (c, 0x33, w)
  | .scan c w => some (c, 0x40, w)
  | .pgrdLba c w => some (c, 0x41, w)
  | .pgrdVectors c w => some (c, 0x41, w)
  | .pgrdBrood c w => some (c, 0x41, w)
  | .apnd c w => some (c, 0x42, w)
  | .send c w => some (c, 0x50, w)
  | .recv c w => some (c, 0x51, w)
  | .lease c w => some (c, 0x52, w)
  | .leaseRelease c w => some (c, 0x52, w)
  | .setpTrapMask c w => some (c, 0x60, w)
  | .setpRatioBand c w => some (c, 0x60, w)
  | .setpRatioBandRemoval c w => some (c, 0x60, w)
  | .setpDefaultDeadline c w => some (c, 0x60, w)
  | .evt c w => some (c, 0x61, w)
  | .reservedOpcode c o w => some (c, o, w)
  | _ => none

/-- The 128-bit word of an opcode and its fields (R85). -/
def insnWord (o : BitVec 8) (w : Insn) : BitVec 128 :=
  o ++ (w.cls ++ (w.pred ++ (BitVec.ofBool w.pinv ++ (w.mod ++ w.opr))))

/-- The instruction word that a command issues; none for a command that issues none. -/
def encodeColord (i : Instr) : Option (BitVec 128) :=
  match colordParts i with
  | some (_, o, w) => some (insnWord o w)
  | none => none

/-- The command a word of the table spells: the table gives no row any bits, so no word spells one. -/
def decodeTableWord (_nbits _w : Nat) : Option Instr := none

end Sys2Proof
end

