-- ==== Sys2Proof/Config.lean ====
section
/-! DEFINITION. The values the spec leaves open: opaque constants that nothing in Lean can evaluate
(assumption 2), and the constants of the part that the spec states. -/

namespace Sys2Proof

/-- A byte the spec calls unspecified (R12, R81, R99, R130, R205, R464, R467). FREE VALUE, assumption 2. -/
opaque Config.freeByte : Nat → BitVec 8

/-- A 64-bit value the spec calls unspecified. FREE VALUE, assumption 2. -/
opaque Config.freeWord : Nat → BitVec 64

/-- A level or a choice that the spec does not state (R457, R369). FREE VALUE, assumption 2. -/
opaque Config.freeBit : Nat → Bool

/-- Whether a tensor instruction with K zero keeps the sign of a C of −0 (R219) or adds it to zero (R110): the spec orders neither, and
R65 makes it the same at every use. FREE VALUE, assumption 29. -/
opaque Config.zeroKKeeps : Bool

/-- The decode level that a codeword's cells need, given the 15 read levels that decoding starts from (R368, R441). FREE
VALUE, assumption 2. -/
opaque Config.cellLevel : Nat → List Int → Nat

/-- Which of the stacks that a page may use gives its frame (R267, R318). FREE VALUE, assumption 21. -/
opaque Config.stackOf : Nat → Nat

/-- What a byte of an erased boot store sector reads as: the spec names no value (R465). FREE VALUE, assumption 6. -/
opaque Config.erasedByte : Nat → BitVec 8

/-- The cut points and the order that STATISTICAL mode chooses for one reduction (R67, R109): a list of
raw numbers that the instruction turns into a permitted cut and order. FREE VALUE, assumption 8. -/
opaque Config.statChoice : Nat → List Nat

/-- Bytes of a structure that another standard defines and the spec does not lay out (NVMe-MI data
structures, standard Identify fields). FREE VALUE, assumption 9. -/
opaque Config.standardByte : Nat → Nat → BitVec 8

/-- The response data of an NVMe-MI or MCTP message whose layout is the standard's. FREE VALUE, assumption 9. -/
opaque Config.miByte : Nat → Nat → BitVec 8

/-- The LDPC check bytes of a codeword: the spec gives no code (R367). FREE VALUE, assumption 15. -/
opaque Config.ldpcByte : List (BitVec 8) → Nat → BitVec 8

/-- The row of its array's comb SRAM that a word lies in; a bank is 512 rows (R292). FREE VALUE, assumption 2. -/
opaque Config.rowOf : Nat → Nat

namespace Config

/-- User capacity in logical blocks (R2). -/
def userBlocks : Nat := 120000000000

/-- Bytes of the buffer of one array (R57). -/
def bufBytes : Nat := 1310720

/-- Bytes of the accumulator memory of one array (R57). -/
def accBytes : Nat := 131072

/-- A pool page, 2 MiB (08). -/
def pageBytes : Nat := 2097152

/-- A code page, 2 KiB (08). -/
def codePageBytes : Nat := 2048

/-- First device address of Tier F (R259). -/
def tierFBase : Nat := 0x002000000000

/-- First device address of the drive-reserved region (R259). -/
def reservedBase : Nat := 0x001FC0000000

/-- First device address of the lease windows (R259). -/
def tierXBase : Nat := 0x010000000000

/-- First reserved device address above Tier X (R259). -/
def tierXEnd : Nat := 0x410000000000

/-- First device address of the index header table (R222). -/
def indexTableBase : Nat := 0x001FFFFFC000

/-- First device address of the cluster save areas (R260). -/
def saveBase : Nat := 0x001FC0000000

/-- Admission limit at manufacture, in pages (R264). -/
def admission0 : Nat := 1015296

/-- Data bytes of one flash block in SLC mode (R363). -/
def slcBlockBytes : Nat := 10240000

/-- Bytes of spare at manufacture (R366). -/
def spare0 : Nat := 71256678400000

/-- Data bytes of one flash die in QLC mode (R363). -/
def dieBytes : Nat := 384000000000

/-- Data bytes of one QLC block (R363). -/
def qlcBlockBytes : Nat := 40960000

end Config

end Sys2Proof
end

