-- ==== Sys2Proof/Machine/Numeric.lean ====
section
/-! DEFINITION. The stored formats, exact values and every rounding rule of the drive
(04_number_formats R138 to R161; 05_quantisation_and_training R178, R183, R184, R186, R188, R191). -/

namespace Sys2Proof.Machine

/-- Element formats (R58). -/
inductive Fmt where
  | int4 | uint4 | int8 | uint8 | e2m1 | e4m3 | e5m2 | bf16 | fp16 | dist | vid
deriving DecidableEq, Repr

/-- The format a code of R58 names; 0xB to 0xF are reserved. -/
def fmtOf : Nat → Option Fmt
  | 0 => some .int4 | 1 => some .uint4 | 2 => some .int8 | 3 => some .uint8 | 4 => some .e2m1
  | 5 => some .e4m3 | 6 => some .e5m2 | 7 => some .bf16 | 8 => some .fp16 | 9 => some .dist
  | 10 => some .vid | _ => none

/-- Bits of one element (R58, R138, R140). -/
def fmtBits : Fmt → Nat
  | .int4 | .uint4 | .e2m1 => 4
  | .int8 | .uint8 | .e4m3 | .e5m2 => 8
  | .bf16 | .fp16 => 16
  | .dist => 32
  | .vid => 64

/-- Integer element formats (R138). -/
def fmtIsInt : Fmt → Bool
  | .int4 | .uint4 | .int8 | .uint8 => true
  | _ => false

/-- Floating-point element formats (R140). -/
def fmtIsFloat : Fmt → Bool
  | .e2m1 | .e4m3 | .e5m2 | .bf16 | .fp16 => true
  | _ => false

/-- Formats arithmetic accepts (R58). -/
def fmtArith (f : Fmt) : Bool := fmtIsInt f || fmtIsFloat f

/-- Range of an integer format (R138). -/
def intRange : Fmt → Int × Int
  | .int4 => (-8, 7)
  | .uint4 => (0, 15)
  | .int8 => (-128, 127)
  | .uint8 => (0, 255)
  | _ => (0, 0)

/-! ## Flags -/

/-- Numeric flags by flag code (R164): bit 0 INV, 1 OVF, 2 UNF, 3 NANIN. -/
abbrev Fl := BitVec 4

/-- No flag. -/
def flNone : Fl := 0#4
/-- `INV` (R162). -/
def flInv : Fl := 1#4
/-- `OVF` (R162). -/
def flOvf : Fl := 2#4
/-- `UNF` (R162). -/
def flUnf : Fl := 4#4
/-- `NANIN` (R162). -/
def flNan : Fl := 8#4

/-! ## Exact values -/

/-- An exact value: a NaN, an infinity, or ±num/den with a sign even for zero (R141, R152). -/
inductive XVal where
  | nan
  | inf (neg : Bool)
  | fin (neg : Bool) (num den : Nat)
deriving DecidableEq, Repr

/-- The exact value (−1)^neg · m · 2^e. -/
def xdyadic (neg : Bool) (m : Nat) (e : Int) : XVal :=
  if 0 ≤ e then .fin neg (m <<< e.toNat) 1 else .fin neg m (1 <<< (-e).toNat)

/-- +0. -/
def xzero : XVal := .fin false 0 1

/-- The exact value of an integer. -/
def xint (i : Int) : XVal := .fin (decide (i < 0)) i.natAbs 1

/-- Sign change. -/
def xneg : XVal → XVal
  | .nan => .nan
  | .inf s => .inf (!s)
  | .fin s a b => .fin (!s) a b

/-- Magnitude. -/
def xabs : XVal → XVal
  | .nan => .nan
  | .inf _ => .inf false
  | .fin _ a b => .fin false a b

/-- Exact product; zero times an infinity is a NaN and raises `INV` (R152, R162). -/
def xmul : XVal → XVal → XVal × Fl
  | .nan, _ => (.nan, flNone)
  | _, .nan => (.nan, flNone)
  | .inf s, .inf t => (.inf (s != t), flNone)
  | .inf s, .fin t a _ => if a = 0 then (.nan, flInv) else (.inf (s != t), flNone)
  | .fin t a _, .inf s => if a = 0 then (.nan, flInv) else (.inf (s != t), flNone)
  | .fin s a b, .fin t c d => (.fin (s != t) (a * c) (b * d), flNone)

/-- Exact sum; infinities of opposite sign give a NaN and raise `INV` (R152, R162). -/
def xadd : XVal → XVal → XVal × Fl
  | .nan, _ => (.nan, flNone)
  | _, .nan => (.nan, flNone)
  | .inf s, .inf t => if s = t then (.inf s, flNone) else (.nan, flInv)
  | .inf s, .fin _ _ _ => (.inf s, flNone)
  | .fin _ _ _, .inf s => (.inf s, flNone)
  | .fin s a b, .fin t c d =>
    if s = t then (.fin s (a * d + c * b) (b * d), flNone)
    else if a * d = c * b then (.fin false 0 1, flNone)
    else if c * b < a * d then (.fin s (a * d - c * b) (b * d), flNone)
    else (.fin t (c * b - a * d) (b * d), flNone)

/-- Exact difference (R157, R162). -/
def xsub (x y : XVal) : XVal × Fl := xadd x (xneg y)

/-- The exact value as a signed fraction, zero for a NaN or an infinity. -/
def xsigned : XVal → Int × Nat
  | .fin s a b => (if s then -(a : Int) else a, b)
  | _ => (0, 1)

/-- `x < y` by value; false when either is a NaN (R114, R245). -/
def xlt : XVal → XVal → Bool
  | .nan, _ => false
  | _, .nan => false
  | .inf s, .inf t => s && !t
  | .inf s, .fin _ _ _ => s
  | .fin _ _ _, .inf t => !t
  | x, y => decide ((xsigned x).1 * (xsigned y).2 < (xsigned y).1 * (xsigned x).2)

/-- `x = y` by value; false when either is a NaN (R114, R245). -/
def xeq : XVal → XVal → Bool
  | .nan, _ => false
  | _, .nan => false
  | .inf s, .inf t => s == t
  | .inf _, .fin _ _ _ => false
  | .fin _ _ _, .inf _ => false
  | x, y => decide ((xsigned x).1 * (xsigned y).2 = (xsigned y).1 * (xsigned x).2)

/-- True for a NaN. -/
def xisNan : XVal → Bool
  | .nan => true
  | _ => false

/-- True for a finite zero of either sign. -/
def xisZero : XVal → Bool
  | .fin _ a _ => a == 0
  | _ => false

/-- True for a finite value. -/
def xisFin : XVal → Bool
  | .fin _ _ _ => true
  | _ => false

/-! ## Floating-point formats -/

/-- A floating-point format: exponent width, mantissa width, bias, whether it has infinities (R140). -/
structure FF where
  ew   : Nat
  mw   : Nat
  bias : Nat
  inf  : Bool
deriving DecidableEq, Repr

/-- E2M1 (R140). -/
def ffE2M1 : FF := ⟨2, 1, 1, false⟩
/-- E4M3 (R140). -/
def ffE4M3 : FF := ⟨4, 3, 7, false⟩
/-- E5M2 (R140). -/
def ffE5M2 : FF := ⟨5, 2, 15, true⟩
/-- BF16 (R140). -/
def ffBF16 : FF := ⟨8, 7, 127, true⟩
/-- FP16 (R140). -/
def ffFP16 : FF := ⟨5, 10, 15, true⟩
/-- binary32, the internal form (R140). -/
def ffB32 : FF := ⟨8, 23, 127, true⟩

/-- The floating-point layout of a format; binary32 for the others, which never ask. -/
def ffOf : Fmt → FF
  | .e2m1 => ffE2M1
  | .e4m3 => ffE4M3
  | .e5m2 => ffE5M2
  | .bf16 => ffBF16
  | .fp16 => ffFP16
  | _ => ffB32

/-- Largest finite code, sign clear (R140). -/
def ffMaxCode (f : FF) : Nat :=
  if f.inf then (2 ^ f.ew - 1) * 2 ^ f.mw - 1
  else if f.ew = 4 then 0x7E else 2 ^ (f.ew + f.mw) - 1

/-- The canonical NaN of a format (R143); E2M1 has none and writes +0 (R153). -/
def ffNan (f : FF) : Nat :=
  if f.inf then (2 ^ f.ew - 1) * 2 ^ f.mw + 2 ^ (f.mw - 1)
  else if f.ew = 4 then 0x7F else 0

/-- The value of a code (R140, R141, R142). -/
def ffDecode (f : FF) (c : Nat) : XVal :=
  let neg := (c >>> (f.ew + f.mw)) % 2 == 1
  let e := (c >>> f.mw) % 2 ^ f.ew
  let m := c % 2 ^ f.mw
  let top := 2 ^ f.ew - 1
  if f.inf && e == top then (if m = 0 then .inf neg else .nan)
  else if !f.inf && f.ew == 4 && e == top && m == 2 ^ f.mw - 1 then .nan
  else if e = 0 then xdyadic neg m (1 - (f.bias : Int) - f.mw)
  else xdyadic neg (2 ^ f.mw + m) ((e : Int) - f.bias - f.mw)

/-- How a conversion rounds: to nearest-even (R150) or stochastically with the 24 hash bits u (R183). -/
inductive Mode where
  | rne
  | sto (u : Nat)
deriving DecidableEq, Repr

/-- ⌊log2 (num/den)⌋ of a positive fraction. -/
def qlog2 (num den : Nat) : Int :=
  let d : Int := (num.log2 : Int) - den.log2
  let ge := if 0 ≤ d then decide (den <<< d.toNat ≤ num) else decide (den ≤ num <<< (-d).toNat)
  if ge then d else d - 1

/-- `num/den` divided by 2^q, as a fraction. -/
def qscale (num den : Nat) (q : Int) : Nat × Nat :=
  if 0 ≤ q then (num, den <<< q.toNat) else (num <<< (-q).toNat, den)

/-- Whether the neighbour of larger magnitude is taken, for the fraction r/d (0 < r < d) between two
neighbours whose lower magnitude is `lo` (R150, R183). -/
def takeUp (md : Mode) (neg : Bool) (lo r d : Nat) : Bool :=
  match md with
  | .rne => decide (d < 2 * r) || (decide (2 * r = d) && lo % 2 == 1)
  | .sto u =>
    if neg then !decide (u < (d - r) * 2 ^ 24 / d) else decide (u < r * 2 ^ 24 / d)

/-- The code of magnitude n · 2^q in the format, with q the exponent of its last mantissa bit. -/
def ffPack (f : FF) (neg : Bool) (n : Nat) (q : Int) : Nat :=
  let s := b2n neg * 2 ^ (f.ew + f.mw)
  if n < 2 ^ f.mw then s + n
  else
    let n' := if n = 2 ^ (f.mw + 1) then 2 ^ f.mw else n
    let q' := if n = 2 ^ (f.mw + 1) then q + 1 else q
    s + ((q' + f.mw + f.bias).toNat) * 2 ^ f.mw + (n' - 2 ^ f.mw)

/-- Rounds an exact value into a floating-point format, with its flags (R150 to R153, R183, R184). -/
def ffRound (f : FF) (md : Mode) (x : XVal) : Nat × Fl :=
  match x with
  | .nan => (ffNan f, if f.ew = 2 then flInv else flNone)
  | .inf neg =>
    let s := b2n neg * 2 ^ (f.ew + f.mw)
    if f.inf then (s + (2 ^ f.ew - 1) * 2 ^ f.mw, flNone) else (s + ffMaxCode f, flOvf)
  | .fin neg num den =>
    if num = 0 then (b2n neg * 2 ^ (f.ew + f.mw), flNone)
    else
      let emin : Int := 1 - f.bias
      let l := qlog2 num den
      let q := (if l < emin then emin else l) - f.mw
      let nd := qscale num den q
      let lo := nd.1 / nd.2
      let r := nd.1 % nd.2
      let n := if r = 0 then lo else if takeUp md neg lo r nd.2 then lo + 1 else lo
      let code := ffPack f neg n q
      let s := b2n neg * 2 ^ (f.ew + f.mw)
      if ffMaxCode f < code - s then
        (if f.inf then s + (2 ^ f.ew - 1) * 2 ^ f.mw else s + ffMaxCode f, flOvf)
      else (code, if l < emin && r != 0 then flUnf else flNone)

/-! ## Integers -/

/-- rnda: to nearest, ties away from zero (R178). -/
def rnda (neg : Bool) (num den : Nat) : Int :=
  let m : Int := ((2 * num + den) / (2 * den) : Nat)
  if neg then -m else m

/-- An exact fraction rounded to an integer to nearest, ties to even (R150, R189). -/
def rneInt (neg : Bool) (num den : Nat) : Int :=
  let lo := num / den
  let r := num % den
  let m : Int := ((if r != 0 && takeUp .rne neg lo r den then lo + 1 else lo) : Nat)
  if neg then -m else m

/-- An exact fraction rounded to an integer stochastically (R184). -/
def stoInt (u : Nat) (neg : Bool) (num den : Nat) : Int :=
  let lo := num / den
  let r := num % den
  let m : Int := ((if r != 0 && takeUp (.sto u) neg lo r den then lo + 1 else lo) : Nat)
  if neg then -m else m

/-- Saturation to a range; saturating raises `OVF` (R153, R154). -/
def satTo (lo hi v : Int) : Int × Fl :=
  if v < lo then (lo, flOvf) else if hi < v then (hi, flOvf) else (v, flNone)

/-- An exact value into an integer format by the given rounding of finite values (R153). -/
def intConv (fmt : Fmt) (rnd : Bool → Nat → Nat → Int) (x : XVal) : Int × Fl :=
  let r := intRange fmt
  match x with
  | .nan => (0, flInv)
  | .inf neg => (if neg then r.1 else r.2, flOvf)
  | .fin neg a b => satTo r.1 r.2 (rnd neg a b)

/-- The code of an integer in `bits` bits, two's complement (R138). -/
def intCode (bits : Nat) (v : Int) : Nat := (v % (2 ^ bits : Nat)).toNat

/-- The integer that a code of an integer format stands for (R138). -/
def intVal (fmt : Fmt) (c : Nat) : Int :=
  match fmt with
  | .int4 => if c < 8 then (c : Int) else (c : Int) - 16
  | .int8 => if c < 128 then (c : Int) else (c : Int) - 256
  | _ => c

/-- 32-bit two's complement saturation of an integer accumulator (R154). -/
def sat32 (v : Int) : Int × Fl := satTo (-2147483648) 2147483647 v

/-! ## Elements -/

/-- The exact value of an element code of an arithmetic format (R138, R141). -/
def elemVal (fmt : Fmt) (c : Nat) : XVal :=
  if fmtIsInt fmt then xint (intVal fmt c) else ffDecode (ffOf fmt) c

/-- Conversion of an exact value into a format without a block scale, by R150 to R153. -/
def conv (fmt : Fmt) (x : XVal) : Nat × Fl :=
  if fmtIsInt fmt then
    let r := intConv fmt rneInt x
    (intCode (fmtBits fmt) r.1, r.2)
  else ffRound (ffOf fmt) .rne x

/-- The value of a float block scale code, 2^(c − 127); 0xFF marks a NaN block (R146). -/
def fscaleVal (c : Nat) : XVal :=
  if c = 0xFF then .nan else xdyadic false 1 ((c : Int) - 127)

/-- Mantissa, shift and reserved-bit test of an integer block scale word (R147). -/
def iscaleParts (w : Nat) : Nat × Nat × Bool :=
  if w / 2 ^ 22 % 1024 != 0 then (0, 0, true) else (w % 65536, w / 65536 % 64, false)

/-- Conversion into a format through the destination's existing block scale `sc`, the stored code of a
float scale or word of an integer scale (R174, R184). `smode` is the destination's. -/
def convScaled (fmt : Fmt) (smode sc : Nat) (md : Mode) (ties : Bool) (x : XVal) : Nat × Fl :=
  if fmtIsInt fmt then
    let rnd : Bool → Nat → Nat → Int := match md with
      | .sto u => stoInt u
      | .rne => if ties then rnda else rneInt
    if smode = 2 then
      let p := iscaleParts sc
      if p.1 = 0 then (0, flInv)
      else
        match x with
        | .fin neg a b =>
          let r := intConv fmt rnd (.fin neg (a <<< p.2.1) (b * p.1))
          (intCode (fmtBits fmt) r.1, r.2)
        | _ =>
          let r := intConv fmt rnd x
          (intCode (fmtBits fmt) r.1, r.2)
    else
      let r := intConv fmt rnd x
      (intCode (fmtBits fmt) r.1, r.2)
  else
    let f := ffOf fmt
    if smode = 1 then
      if sc = 0xFF then (ffNan f, flNan)
      else
        match x with
        | .fin neg a b =>
          let nd := qscale a b ((sc : Int) - 127)
          ffRound f md (.fin neg nd.1 nd.2)
        | _ => ffRound f md x
    else ffRound f md x

/-! ## binary32 -/

/-- An exact value rounded to binary32 (R150, R151). -/
def rne32 (x : XVal) : BitVec 32 × Fl :=
  let r := ffRound ffB32 .rne x
  (BitVec.ofNat 32 r.1, r.2)

/-- The value of a binary32 code. -/
def val32 (c : BitVec 32) : XVal := ffDecode ffB32 c.toNat

/-- Exact value and flags rounded to binary32 with the flags of both. -/
def rne32f (p : XVal × Fl) : BitVec 32 × Fl :=
  let r := rne32 p.1
  (r.1, p.2 ||| r.2)

/-- binary32 addition (R155). -/
def fadd (a b : BitVec 32) : BitVec 32 × Fl := rne32f (xadd (val32 a) (val32 b))

/-- The largest finite value of D's format, or of binary32 for none, as a binary32 code with a sign (R168). -/
def maxfin32 (fmt : Option Fmt) (neg : Bool) : BitVec 32 :=
  let v := match fmt with
    | some g =>
      if fmtIsInt g then xint (intRange g).2
      else if fmtIsFloat g then ffDecode (ffOf g) (ffMaxCode (ffOf g))
      else ffDecode ffB32 (ffMaxCode ffB32)
    | none => ffDecode ffB32 (ffMaxCode ffB32)
  (rne32 (if neg then xneg v else v)).1

/-- Block scales applied to a block sum (R168). `fmt` is D's format, none in `ACC` or for distance codes. -/
def bscale (fmt : Option Fmt) (s : BitVec 32) (ca cb : Nat) : BitVec 32 × Fl :=
  if ca = 0xFF ∨ cb = 0xFF then (0x7FC00000#32, flNan)
  else
    match val32 s with
    | .nan => (s, flNone)
    | .inf _ => (s, flNone)
    | .fin neg a b =>
      if a = 0 then (s, flNone)
      else
        let e : Int := ((ca : Int) - 127) + ((cb : Int) - 127)
        if 127 < e then (maxfin32 fmt neg, flOvf)
        else if e < -126 then (if neg then 0x80000000#32 else 0#32, flUnf)
        else
          let nd := qscale a b (-e)
          rne32 (.fin neg nd.1 nd.2)

/-! ## Distance codes -/

/-- The order-preserving code of a binary32 value that is no NaN; −0 as +0 (R159). -/
def distCode (c : BitVec 32) : BitVec 32 :=
  if c = 0x80000000#32 then 0x80000000#32
  else if c.getLsbD 31 then c ^^^ 0xFFFFFFFF#32 else c ^^^ 0x80000000#32

/-- The +∞ distance code (R159). -/
def distInf : BitVec 32 := 0xFF800000#32

/-- A NaN result takes the +∞ code (R113, R160). -/
def distOf (c : BitVec 32) : BitVec 32 :=
  if xisNan (val32 c) then distInf else distCode c

/-! ## Counter hash -/

/-- The mixer of the counter hash (R186). -/
def mix64 (x : BitVec 64) : BitVec 64 :=
  let x := x ^^^ (x >>> 30)
  let x := x * 0xBF58476D1CE4E5B9#64
  let x := x ^^^ (x >>> 27)
  let x := x * 0x94D049BB133111EB#64
  x ^^^ (x >>> 31)

/-- The counter hash (R186). -/
def counterHash (seed : BitVec 64) (tid step : BitVec 32) (idx : BitVec 64) : BitVec 64 :=
  let h := mix64 (seed + 0x9E3779B97F4A7C15#64)
  let h := mix64 (h ^^^ ((tid.zeroExtend 64 <<< 32) ||| step.zeroExtend 64))
  mix64 (h ^^^ idx)

/-- Bits [63:40] of the counter hash, the u of R183. -/
def hashU (seed : BitVec 64) (tid step : BitVec 32) (idx : Nat) : Nat :=
  bitsOf (counterHash seed tid step (BitVec.ofNat 64 idx)) 63 40

/-! ## Weight updates and the ratio monitor -/

/-- ulp of a finite code of a format (R188). -/
def ulpOf (f : FF) (c : Nat) : XVal :=
  let e := (c >>> f.mw) % 2 ^ f.ew
  xdyadic false 1 (((if e = 0 then 1 else e) : Nat) - (f.bias : Int) - f.mw)

/-- Integer square root by bits; `n` bounds the bits still to try. -/
def isqrtGo (t : Nat) : Nat → Nat → Nat
  | 0, r => r
  | n + 1, r =>
    let r' := r + 2 ^ n
    isqrtGo t n (if r' * r' ≤ t then r' else r)

/-- rne32 of the square root of a non-negative binary32 value (R191). -/
def sqrt32 (c : BitVec 32) : BitVec 32 :=
  match val32 c with
  | .nan => 0x7FC00000#32
  | .inf _ => 0x7F800000#32
  | .fin _ a b =>
    if a = 0 then 0#32
    else
      let k := 160
      let t := (a <<< (2 * k)) / b
      let s := isqrtGo t 240 0
      let inexact := s * s * b != a <<< (2 * k)
      (rne32 (.fin false (2 * s + b2n inexact) (2 ^ (k + 1)))).1

/-- rne32 of a quotient with the special cases of R191: `dd` over `ww`. -/
def ratio32 (dd ww : BitVec 32) : BitVec 32 :=
  match val32 dd, val32 ww with
  | .nan, _ => 0x7FC00000#32
  | _, .nan => 0x7FC00000#32
  | .inf _, .inf _ => 0x7FC00000#32
  | .fin _ _ _, .inf _ => 0#32
  | .inf _, .fin _ _ _ => 0x7F800000#32
  | .fin _ a b, .fin _ p q =>
    if p = 0 then (if a = 0 then 0#32 else 0x7F800000#32)
    else (rne32 (.fin false (a * q) (b * p))).1

/-- The closed ratio r of one tensor, a BF16 code (R191). -/
def closeRatio (dd ww : BitVec 32) : BitVec 16 :=
  BitVec.ofNat 16 (ffRound ffBF16 .rne (val32 (sqrt32 (ratio32 dd ww)))).1

/-- A square added exactly to a binary32 sum with one rounding (R191). -/
def addSquare (acc : BitVec 32) (x : XVal) : BitVec 32 :=
  (rne32 (xadd (val32 acc) (xmul x x).1).1).1

end Sys2Proof.Machine
end

