-- ==== Sys2Proof/Machine/State.lean ====
section
/-! DEFINITION. The state of the drive: every register, memory, queue, buffer, counter, mode and pin that
spec/ gives it, as plain data, and its value right after a power-on reset (INVENTORY.md, State). -/

namespace Sys2Proof.Machine

/-- Byte memory in canonical form: addresses strictly rising, no entry equal to zero, which is what an
unlisted byte reads as (R266, R301, R453 step 4). -/
abbrev Mem := List Host.Cell

/-- The reasons a step can stop with a fault. The spec gives every command of the table an effect in every
state, so no meaning raises one: context faults (R73) and drive faults (R482) are effects on the state.
Safe: a machine that never stops here can only allow what the effects say. -/
inductive Fault where
  /-- Raised by no command: the spec names no behaviour that stops the whole drive without an effect. Safe. -/
  | unreachable
deriving DecidableEq, Repr

/-- The reasons a step can refuse a command. -/
inductive Refusal where
  /-- Raised by Machine/Dispatch.lean alone, for a row that has no meaning yet. Safe. -/
  | notModelled (mnemonic : String)
deriving DecidableEq, Repr

/-! ## Contexts -/

/-- Fault causes of a context (R73). -/
inductive Cause where
  | none | rsvdOpcode | rsvdField | pcRange | stackOver | stackMismatch | shapeOver | accOver | bufOver
  | descRange | addrRange | poison | numTrap | deadline | blockReset | fabric | hostDelete | stepLimit
  | unitFail | undeclared | evtCode
deriving DecidableEq, Repr

/-- Context states (R84), coded as `STATE` of R322. -/
inductive CtxSt where
  | free | ready | runnable | running | blocked | swapped | faulted
deriving DecidableEq, Repr

/-- A frame of the loop stack (R46, R101). -/
inductive Frame where
  | loop (start len : BitVec 32) (left : BitVec 64) (idx : Option (Fin 64))
  | call (ret : BitVec 32)
deriving DecidableEq, Repr

/-- The fault fields of the exception word (R69); the flags stand beside it in `Ctx`. -/
structure ExcWord where
  cause  : Cause
  unit   : BitVec 8
  dim    : BitVec 4
  detail : BitVec 28
deriving DecidableEq, Repr

/-- The record of the first offending element (R164, R506). -/
structure FRec where
  valid : Bool
  first : BitVec 2
  src   : BitVec 8
  pc    : BitVec 32
  m     : BitVec 48
  n     : BitVec 48
  k     : BitVec 48
deriving DecidableEq, Repr

/-- An entry of a context's event ring (R76). -/
structure Event where
  code  : BitVec 16
  value : BitVec 64
  pc    : BitVec 32
  stamp : BitVec 48
  seq   : BitVec 16
deriving DecidableEq, Repr

/-- An entry of a context's ratio monitor table (R193); `tag` is true while it was closed in this step. -/
structure MonEnt where
  tid   : BitVec 32
  step  : BitVec 32
  count : BitVec 8
  next  : BitVec 8
  band  : Bool
  outside : Bool
  lo    : BitVec 16
  hi    : BitVec 16
  ratio : Vector (BitVec 16) 16
  dd    : BitVec 32
  ww    : BitVec 32
  tag   : Bool
deriving DecidableEq, Repr

/-- The running sums of one tensor in a step (R191). -/
structure MonSum where
  tid : BitVec 32
  dd  : BitVec 32
  ww  : BitVec 32
deriving DecidableEq, Repr

/-- A ratio band set with SETP (R136, R192). -/
structure Band where
  tid : BitVec 32
  lo  : BitVec 16
  hi  : BitVec 16
deriving DecidableEq, Repr

/-- The view of an index that a step holds (R233). -/
structure View where
  idx    : IdxId
  rcd    : Fin 2
  g      : BitVec 32
  b      : BitVec 64
  sbase  : BitVec 64
  pinned : Bool
  stamp  : BitVec 48
  seq    : BitVec 16
deriving DecidableEq, Repr

/-- What the answer header reports of the step's first SCAN (R258). -/
structure ScanInfo where
  view   : View
  mode   : BitVec 2
  k      : BitVec 16
  nprobe : BitVec 16
deriving DecidableEq, Repr

/-- A prefetch that a later access may wait on (R126, R127, R278). -/
structure Pref where
  rows     : List (Nat × Nat)
  target   : BitVec 2
  deadline : BitVec 64
  fallback : BitVec 2
  done     : Bool
  failed   : Bool
  fired    : Bool
  aDesc    : BitVec 256
  aOff     : Nat
  m        : Nat
  cDesc    : BitVec 256
  cOff     : Nat
  ct       : Fin 32
deriving DecidableEq, Repr

/-- One APND entry that passed R249. -/
structure BroodNew where
  id     : BitVec 64
  handle : BitVec 32
  tomb   : Bool
  vec    : Bytes
deriving DecidableEq, Repr

/-- What a Blocked context waits for (R84); `far` is data of a lease window that an `XACC` has asked for (R276, R357), `busy` a
forager or tier controller that works off its requests for a block reset or is being reset (R27, R459). -/
inductive Wait where
  | none
  | time (target : Int)
  | bar (round : BitVec 64)
  | fence
  | access (i : Nat)
  | frame
  | far
  | busy
  | lock
  | scan (w : Insn)
  | apnd (idx : IdxId) (ents : List BroodNew) (fl : BitVec 6)
  | recv (w : Insn) (round : BitVec 64)
  | lease (w : Insn) (req : BitVec 32)
deriving DecidableEq, Repr

/-- Where a batch step comes from: a host command (R40), or a hive query of a round and its intake member, with its frame's
`STAMP` and `SEQ` as one number (R26, R351). -/
inductive StepSrc where
  | host (sq cid : BitVec 16)
  | hive (round : BitVec 64) (intake : BitVec 12) (ord : Nat)
deriving DecidableEq, Repr

/-- One queued batch step (R40, R351, R413). -/
structure StepReq where
  src    : StepSrc
  count  : BitVec 7
  params : List (BitVec 64)
  hin    : Bytes
  outLen : Nat
deriving DecidableEq, Repr

/-- One context: its architectural state (R42), its bindings (R39) and its scheduling state (R322). `rang` says that a
hive round has started since the context began to wait (R101), `sending` names the round of a SEND that has passed its
checks and waits for its access (R133), `pinEnd` the end of the last slot that a SEND of the context uses (R311),
`starveAt` the time since which it is starved with nobody to evict (R314), and `numTrap` that a coarse copy has raised a flag which
the mask makes a trap (R71, R127). -/
structure Ctx where
  st       : CtxSt
  sreg     : Vector (BitVec 64) 64
  treg     : Vector (BitVec 256) 32
  preg     : Vector (BitVec 64) 8
  pc       : BitVec 32
  stack    : List Frame
  flags    : BitVec 6
  exc      : ExcWord
  trapMask : BitVec 16
  deadline : BitVec 64
  frec     : FRec
  fpc      : BitVec 32
  slot     : SlotId
  part     : PartId
  stat     : Bool
  sq       : BitVec 16
  limit    : BitVec 32
  seed     : BitVec 64
  wnBase   : Nat
  wnSize   : Nat
  wfBase   : Nat
  wfSize   : Nat
  seqr     : Option (Fin 16)
  count    : BitVec 7
  steps    : BitVec 64
  cur      : Option StepReq
  hout     : List Host.Cell
  houtFree : Nat
  queue    : List StepReq
  wait     : Wait
  ring     : List Event
  ringOvf  : BitVec 32
  ringNext : BitVec 8
  mon      : List MonEnt
  sums     : List MonSum
  bands    : List Band
  views    : List View
  scan1    : Option ScanInfo
  prefs    : List Pref
  durs     : List (IdxId × BitVec 64)
  reason   : BitVec 8
  degTrap  : Bool
  degNow   : Bool
  lastRun  : BitVec 64
  pinned   : Bool
  starved  : Bool
  runAt    : BitVec 64
  sliceAt  : BitVec 64
  stepAt   : BitVec 64
  inStep   : Bool
  swBlocked : Bool
  rang     : Bool
  sending  : Option (BitVec 64)
  pinEnd   : BitVec 64
  starveAt : Option (BitVec 64)
  numTrap : Bool
deriving DecidableEq, Repr

/-! ## Partitions -/

/-- A regulator's setting (R297, R316). -/
structure Reg where
  rate  : BitVec 32
  burst : BitVec 32
deriving DecidableEq, Repr

/-- A partition descriptor (R297). -/
structure PartDesc where
  clusters : BitVec 12
  foragers : BitVec 32
  slice    : BitVec 32
  stackMask : BitVec 4
  ncap     : BitVec 32
  fcap     : BitVec 32
  regN     : Reg
  regF     : Reg
  regFl    : Reg
  regX     : Reg
deriving DecidableEq, Repr

/-- A switch of a partition's arrays that is under way (R305, R309). -/
inductive Switch where
  | idle
  | clear (succ : CtxId)
  | save (out succ : CtxId)
  | restore (succ : CtxId)
deriving DecidableEq, Repr

/-- One partition (R297, R300, R307, R322). The tokens are those of `REG_N`, `REG_F`, `REG_FL`, `REG_X`
in thousandths of a byte (R316). `slice` names the context whose slice has not ended, with the nanoseconds that it spent in
Running before its last start (R303). -/
structure Part where
  defined : Bool
  desc    : PartDesc
  holder  : Option CtxId
  parked  : Option CtxId
  saves   : BitVec 32
  sw      : Switch
  tokens  : Vector Int 4
  scans   : List CtxId
  slice   : Option (CtxId × Nat)
deriving DecidableEq, Repr

/-! ## Program slots -/

/-- One program slot (R77, R78, R412). -/
structure Slot where
  img     : Bytes
  loaded  : Bool
  active  : Bool
  constBase : Nat
  stg     : Bytes
  stgTotal : Nat
deriving DecidableEq, Repr

/-! ## Arrays and foragers -/

/-- The exception record of an array (R164). -/
structure AExc where
  flags : BitVec 4
  ctx   : BitVec 6
  first : FRec
deriving DecidableEq, Repr

/-- One active array (R57, R164, R505). -/
structure ArrSt where
  phys   : BitVec 8
  inserv : Bool
  spare  : Bool
  buf    : Mem
  acc    : Mem
  exc    : AExc
deriving DecidableEq, Repr

/-- One forager (R508). Which context's SCAN runs on it follows from its partition's queue (R307), and which forager
stands in for it from the partition's foragers (R488). -/
structure Fgr where
  retired : Bool
  extents : BitVec 32
  bytes   : BitVec 64
deriving DecidableEq, Repr

/-! ## Indexes -/

/-- One entry of a posting list with the full vector the index keeps for it (R229, R232). -/
structure ListEnt where
  code   : Bytes
  id     : BitVec 64
  handle : BitVec 32
  full   : Bytes
deriving DecidableEq, Repr

/-- One posting list, with the generation that wrote its extents (R227, R228). -/
structure PList where
  cent   : Nat
  gen    : BitVec 32
  scales : List (BitVec 32)
  ents   : List ListEnt
deriving DecidableEq, Repr

/-- A generation record with the lists and the attribute rows of its generation (R224, R231). -/
structure Gen where
  gen       : BitVec 32
  ncent     : BitVec 32
  sbase     : BitVec 64
  centAddr  : BitVec 64
  graphAddr : BitVec 64
  fwdAddr   : BitVec 64
  centSoff  : BitVec 32
  valid     : Bool
  fwd       : List (BitVec 64 × BitVec 64)
  lists     : List PList
  attrs     : List (Nat × Bytes)
  arows     : BitVec 32
  chans     : BitVec 32
deriving DecidableEq, Repr

/-- One brood entry (R247). -/
structure BroodEnt where
  seq    : BitVec 64
  id     : BitVec 64
  handle : BitVec 32
  tomb   : Bool
  vec    : Bytes
deriving DecidableEq, Repr

/-- A staged centroid source (R407). -/
structure Stage where
  ncent   : Nat
  cents   : List Bytes
  cscales : List (List (BitVec 32))
  graph   : List (List (BitVec 64))
  ret     : List (BitVec 64 × BitVec 64)
  lscales : Option (List (List (BitVec 32)))
  only    : Bool
deriving DecidableEq, Repr

/-- One index (R222 to R232, R247, R253, R406). `fwd2` is the address of the forward table of record 1, which the record
shows only once a generation has filled it (R225), `broodAddr` that of the brood list. -/
structure Idx where
  live     : Bool
  metric   : BitVec 8
  codeFmt  : BitVec 8
  centFmt  : BitVec 8
  dim      : BitVec 16
  attrWidth : BitVec 8
  cur      : Fin 2
  chanMask : BitVec 32
  ncentCap : BitVec 32
  broodCap : BitVec 32
  broodThresh : BitVec 32
  nsid     : BitVec 32
  head     : BitVec 64
  durable  : BitVec 64
  bound    : BitVec 64
  attrAddr : BitVec 64
  attrRows : BitVec 32
  gens     : Vector Gen 2
  share    : BitVec 8
  brood    : List BroodEnt
  stage    : Option Stage
  attrStage : List (Nat × Bytes)
  attrCap  : Nat
  dropChan : BitVec 32
  fwd2     : BitVec 64
  broodAddr : BitVec 64
deriving DecidableEq, Repr

/-- A running brood merge with its limit S (R255). -/
structure Merge where
  idx   : IdxId
  limit : BitVec 64
  stage : Option Stage
  attrs : List (Nat × Bytes)
  drop  : BitVec 32
deriving DecidableEq, Repr

/-! ## Memory tiers -/

/-- Where the bytes of a pool page lie (R263, R267). -/
inductive Loc where
  | none | tierN | tierF | tierX | swap | dropped
deriving DecidableEq, Repr

/-- What a pool page was allocated for (R264); `lease` is a page of a lease window while a PREF keeps it in a tier above
(R269). -/
inductive Owner where
  | workN (c : CtxId) | workF (c : CtxId) | consts (s : SlotId) | index (i : IdxId) | lent (req : BitVec 32) (node : BitVec 12)
  | lease (req : BitVec 32)
deriving DecidableEq, Repr

/-- An allocated pool page (R263 to R269): its number (device address / 2 MiB), owner, pin, place, the time of its last
touch, the stack of its frame while that lies in Tier N (R318), and for a page in Tier X the eviction lease and the place
in it that hold its copy (R273). -/
structure Page where
  no     : Nat
  owner  : Owner
  pinned : Bool
  loc    : Loc
  age    : Nat
  stk    : Fin 4
  xat    : Option (BitVec 32 × Nat)
deriving DecidableEq, Repr

/-- One entry of a correctable-error table (R285). -/
structure CeEnt where
  a    : BitVec 64
  b    : BitVec 64
  kind : BitVec 2
deriving DecidableEq, Repr

/-- One correctable-error table (R284, R285). -/
structure CeTab where
  valid : BitVec 16
  next  : BitVec 4
  ovf   : BitVec 32
  ents  : Vector CeEnt 16
deriving DecidableEq, Repr

/-- One scrub register (R296). -/
structure Scrub where
  lap  : BitVec 32
  laps : BitVec 32
deriving DecidableEq, Repr

/-- The memory tiers (08). `source` lists the code pages that still equal their flash source (R277), `stale`
those written since they were filled, with what their source holds (R278), `freeN` the free frames of
each stack (R318), `goneN` (by stack) and `goneF` the frames retired from the pool (R293, R490). `rowHits` and `rowMark` name comb SRAM rows by physical array and row, with an
error in this scrub lap and marked for repair; `rowUsed` names the bank of each spare row used in service (R292). -/
structure Tiers where
  mem     : Mem
  pages   : List Page
  freeN   : Vector Nat 4
  freeF   : Nat
  freeS   : Nat
  limit   : Nat
  clock   : Nat
  poison  : List Nat
  source  : List Nat
  stale   : List (Nat × Bytes)
  sramPoison : List EccPlace
  ce      : Vector CeTab 4
  scrubN  : Scrub
  scrubF  : Scrub
  scrubS  : Scrub
  xevict  : BitVec 13
  lend    : BitVec 9
  sprUsed : BitVec 16
  sprLeft : BitVec 16
  rprStk  : Vector (BitVec 8) 4
  rprPkg  : BitVec 16
  rprRet  : BitVec 16
  rowHits : List (Fin 200 × Nat)
  rowMark : List (Fin 200 × Nat)
  rowUsed : List (Fin 200 × Nat)
  pkgFail : List (Fin 14)
  goneN   : Vector Nat 4
  goneF   : Nat
  stkFail : Bool
deriving DecidableEq, Repr

/-! ## Fabric and time -/

/-- The time counter and its discipline (R326 to R329, R362): `slew` is what is still to be made up, in nanoseconds, and
`slewCnt` counts the nanoseconds since the last one made up. -/
structure TimeSt where
  now       : BitVec 64
  seq       : BitVec 16
  offset    : BitVec 32
  insync    : Bool
  holdover  : Bool
  corrected : Bool
  holdUntil : Option (BitVec 64)
  slew      : Int
  slewCnt   : Nat
deriving DecidableEq, Repr

/-- Election states, coded as `STATE` of `FAB_HIVE` (R341, R362). -/
inductive HiveSt where
  | noHive | joining | listening | member | candidate | conflict | keeper
deriving DecidableEq, Repr

/-- One fabric port (R325, R362). -/
structure PortSt where
  lanes  : BitVec 3
  link   : Bool
  degr   : Bool
  rxerr  : BitVec 24
  txdrop : BitVec 24
  good   : BitVec 4
  training : Bool
deriving DecidableEq, Repr

/-- A member entry of a schedule (R343). -/
structure Member where
  eui  : BitVec 64
  node : BitVec 12
  intake : Bool
  pcap : BitVec 32
deriving DecidableEq, Repr

/-- A slot entry of a schedule (R343), in units of 64 ns. -/
structure SlotEnt where
  inOff  : Nat
  inLen  : Nat
  cmpOff : Nat
  cmpLen : Nat
  slotOff : Nat
  slotLen : Nat
  parent : Nat
  port   : Fin 2
deriving DecidableEq, Repr

/-- A schedule table (R343). -/
structure Sched where
  hive   : BitVec 16
  sgen   : BitVec 32
  period : Nat
  depth  : Nat
  patterns : Nat
  t0     : BitVec 64
  start  : BitVec 64
  latMax : Nat
  bulkOff : Nat
  bulkLen : Nat
  power  : Nat
  lanes  : Nat
  members : List Member
  slots  : List SlotEnt
  raw    : Bytes
deriving DecidableEq, Repr

/-- A route table entry (R338). -/
structure Route where
  node : BitVec 12
  v0   : Bool
  mac0 : BitVec 48
  v1   : Bool
  mac1 : BitVec 48
  static : Bool
deriving DecidableEq, Repr

/-- A message whose segments are still arriving (R336), with the header of segment 0 once it is there and the time
of its first segment. -/
structure Asm where
  src   : BitVec 12
  typ   : BitVec 8
  msg   : BitVec 32
  first : FrameHdr
  begun : BitVec 64
  parts : List (Nat × Bytes)
deriving DecidableEq, Repr

/-- An accepted frame of the last millisecond (R335 item 8). -/
structure Recent where
  src   : BitVec 16
  typ   : BitVec 8
  stamp : BitVec 48
  seq   : BitVec 16
  seenAt : BitVec 64
deriving DecidableEq, Repr

/-- A hive-wide host command that the drive carries (R350, R355); `skip` once the root has sent `ABSENT` for it. -/
structure HiveCmd where
  sq     : BitVec 16
  cid    : BitVec 16
  round  : BitVec 64
  msg    : Bytes
  sent   : Bool
  outLen : Nat
  fetched : BitVec 64
  skip   : Bool
deriving DecidableEq, Repr

/-- The drive's own message for its answer slot of a round (R133, R352): for the root, the query it answers, by intake
member and number (R355); `own` once the hive step that sent it has completed without fault. -/
structure SlotMsg where
  round : BitVec 64
  ctx   : CtxId
  body  : Bytes
  ready : Bool
  intake : Option (BitVec 12)
  ord   : Nat
  own   : Bool
deriving DecidableEq, Repr

/-- What a child sent for a round (R353): the coverage bitmap and the payload. -/
structure ChildMsg where
  round  : BitVec 64
  child  : Nat
  cover  : BitVec 512
  body   : Bytes
deriving DecidableEq, Repr

/-- The coverage that a context's RECVs of a round received (R352). -/
structure Cover where
  round : BitVec 64
  ctx   : CtxId
  bits  : BitVec 512
deriving DecidableEq, Repr

/-- A lease the drive holds or asks for (R272, R273, R357): window 64 and above means not granted yet. `reads` lists the
ranges of the window that an `XACC` has asked for, and whether their `XDATA` has come. -/
structure Lease where
  window : Nat
  pages  : Nat
  req    : BitVec 32
  ctx    : Option CtxId
  lender : BitVec 12
  lbase  : BitVec 64
  granted : Bool
  lost   : Bool
  reads  : List (Nat × Nat × Bool)
deriving DecidableEq, Repr

/-- A lease that the drive granted as keeper or serves as lender (R274, R357). -/
structure Lent where
  req    : BitVec 32
  node   : BitVec 12
  lender : BitVec 12
  pages  : Nat
  base   : BitVec 64
deriving DecidableEq, Repr

/-- A member's last announcement (R337). -/
structure Ann where
  node  : BitVec 12
  eui   : BitVec 64
  prio  : BitVec 8
  st    : BitVec 8
  lanes : BitVec 8
  sgen  : BitVec 32
  gib   : BitVec 16
  epoch : BitVec 16
deriving DecidableEq, Repr

/-- A member's POWER values (R359). -/
structure Pow where
  node   : BitVec 12
  demand : Nat
  floor  : Nat
  cap    : Nat
  room   : Nat
  health : BitVec 8
  round  : BitVec 64
deriving DecidableEq, Repr

/-- The fabric (10). `queries` lists the accepted queries that the root answers, in their order (R355); `acked` the children
that have acknowledged the round they rejoin in (R354); `grantNext` a grant and the round it is for (R360); `bulkSent` and
`bulkMsg` the frames sent of the first queued message and its message number, `inUsed` and `bulkUsed` the round of the
drive's last intake and bulk windows and the bits that have gone out in them (R348, R350); `taps` the equaliser settings
that each lane's last link training started from (R445). `held` are the ports whose lanes have kept their links up through a
warm reset, until the drive runs again (R458); `fresh` says that the active schedule has had no round start yet (R101), and
`slotSent` is the round in which the drive has answered in its slot (R347). -/
structure Fab where
  node    : BitVec 12
  auto    : Bool
  set     : Bool
  prio    : BitVec 8
  hive    : BitVec 16
  st      : HiveSt
  knode   : BitVec 12
  epoch   : BitVec 16
  heard   : BitVec 16
  sched   : Option Sched
  pend    : Option Sched
  stg     : Bytes
  stgTotal : Nat
  member  : BitVec 9
  overrun : BitVec 16
  round   : BitVec 64
  fresh   : Bool
  ports   : Vector PortSt 2
  held    : Vector PortSt 2
  routes  : List Route
  vid     : BitVec 12
  gprio   : BitVec 8
  hiveCtx : Option CtxId
  asm     : List Asm
  recent  : List Recent
  cmds    : List HiveCmd
  slots   : List SlotMsg
  kids    : List ChildMsg
  covers  : List Cover
  oos     : List (Nat × BitVec 64)
  rejoin  : Option (BitVec 64)
  leases  : List Lease
  lent    : List Lent
  grants  : List Lent
  reqNo   : BitVec 32
  msgNo   : BitVec 32
  anns    : List Ann
  pows    : List Pow
  grant   : Option Nat
  bulk    : List (BitVec 8 × BitVec 16 × Bytes)
  bulkSent : Nat
  bulkMsg : BitVec 32
  bulkUsed : Option (BitVec 64 × Nat)
  inUsed  : Option (BitVec 64 × Nat)
  queries : List (BitVec 64 × BitVec 12 × Nat)
  acked   : List (Nat × BitVec 64)
  grantNext : Option (BitVec 64 × Nat)
  taps    : Vector (BitVec 24) 8
  slotSent : Option (BitVec 64)
deriving DecidableEq, Repr

/-! ## Host interface, stored data, media -/

/-- A submission queue (R399). -/
structure Sq where
  id   : BitVec 16
  size : Nat
  cq   : BitVec 16
deriving DecidableEq, Repr

/-- A completion queue (R399). -/
structure Cq where
  id     : BitVec 16
  size   : Nat
  ien    : Bool
  vector : BitVec 16
deriving DecidableEq, Repr

/-- A range-lock entry (R419), oldest first; `ctx` is the context of a PGRD that waits. -/
structure Lock where
  nsid  : BitVec 32
  lba   : Nat
  n     : Nat
  wr    : Bool
  sq    : BitVec 16
  cid   : BitVec 16
  ctx   : Option CtxId
  ord   : Bool
  done  : Bool
deriving DecidableEq, Repr

/-- The PCIe function (R398): the link as it has trained, by rate code 1 to 6 for 2.5 to 64 GT/s and by width; whether the function
is in D3hot; its class code, the bytes of its two BARs, its greatest payload and read request in bytes, its tags and its MSI-X
vectors. -/
structure Pcie where
  rate  : BitVec 4
  width : BitVec 6
  d3hot : Bool
  cls   : BitVec 24
  bar0  : Nat
  bar2  : Nat
  maxPay  : Nat
  maxRead : Nat
  tags    : Nat
  vectors : Nat
deriving DecidableEq, Repr

/-- The Link Status register: the current rate in bits 3:0 and the width in bits 9:4 (R398). PRESUMED: the places are the PCI
Express standard's (assumption 9). -/
def Pcie.linkStatus (p : Pcie) : BitVec 16 := BitVec.ofNat 16 (p.rate.toNat + p.width.toNat * 16)

/-- The host-facing controller state (12). `aecfg` is the host's event configuration (R76, R392, R493). `feats` holds the values of
the standard's features that the spec gives no effect, by feature identifier and 256 times an interrupt vector (R8), and `waitQ`
the commands that stand unfetched behind another of their queue and have no stamp yet (R329, R420). -/
structure HostSt where
  ccEn    : Bool
  rdy     : Bool
  shst    : BitVec 2
  noFetch : Bool
  sqs     : List Sq
  cqs     : List Cq
  ps      : BitVec 3
  entry   : Option (BitVec 3)
  exiting : Bool
  wish    : Option (BitVec 3)
  apst    : Bool
  apstTab : Bytes
  idle3   : BitVec 16
  idle4   : BitVec 16
  vwc     : Bool
  overT   : Vector (BitVec 16) 9
  underT  : Vector (BitVec 16) 9
  aers    : List (BitVec 16)
  notes   : List (BitVec 32)
  masked  : List (BitVec 8)
  ranges  : List (BitVec 16 × List MemRange)
  deny    : BitVec 32
  locks   : List Lock
  peak    : BitVec 11
  dbg     : Bool
  aecfg   : BitVec 32
  mcfg    : List (BitVec 8 × BitVec 32)
  miResp  : Bytes
  pcie    : Pcie
  feats   : List (Nat × BitVec 32)
  waitQ   : List (BitVec 16 × BitVec 16)
deriving DecidableEq, Repr

/-- A namespace (R399, R408, R412). `residue` is set once an index on it has been deleted: a block not written
since then holds what the spec does not state (assumption 2). -/
structure Ns where
  nsid     : BitVec 32
  size     : Nat
  attached : Bool
  index    : Option IdxId
  residue  : Option Nat
deriving DecidableEq, Repr

/-- What a logical block holds. -/
inductive BlkVal where
  | data (b : Bytes)
  | uncorrectable
deriving DecidableEq, Repr

/-- Where a page of the medium lies: its superblock and the die and block of the codeword (R364). -/
structure Place where
  sb    : Nat
  slc   : Bool
  die   : Fin 1536
  block : Fin 9375
  stripe : Nat
  slot  : Nat
deriving DecidableEq, Repr

/-- A logical block on the medium, with its codeword fields (R367, R381, R382). -/
structure MBlk where
  key   : BlkKey
  dseq  : BitVec 64
  group : Nat
  val   : BlkVal
  place : Place
deriving DecidableEq, Repr

/-- One write command in the write cache, or a write, flush or shutdown that waits for the medium (R417, R418). -/
structure CEnt where
  dseq  : BitVec 64
  nsid  : BitVec 32
  lba   : Nat
  group : Nat
  vals  : List BlkVal
  wait  : Option (BitVec 16 × BitVec 16)
deriving DecidableEq, Repr

/-- A Flush that waits (R418), with the write numbers it still waits for. -/
structure FlushReq where
  sq   : BitVec 16
  cid  : BitVec 16
  need : List (BitVec 64)
deriving DecidableEq, Repr

/-- A deallocation record (R381, R385): its range and its place in the order of writes. -/
structure Dealloc where
  nsid : BitVec 32
  lba  : Nat
  n    : Nat
  dseq : BitVec 64
deriving DecidableEq, Repr

/-- Stored data: namespaces, cache, medium (11, 12). `gone` keeps the programmed blocks of namespaces that are no more until their
superblock is freed: their stripes still hold them (R371). -/
structure Nvm where
  nss     : List Ns
  cache   : List CEnt
  blocks  : List MBlk
  dealloc : List Dealloc
  dseq    : BitVec 64
  flushes : List FlushReq
  readOnly : Bool
  hostWr  : Nat
  gone    : List MBlk
deriving DecidableEq, Repr

/-- A superblock in use in the SLC write region or the data pool (R364, R365, R378). `taken` lists the data pages programmed
in it by stripe and channel, `hp` is the page that takes logical blocks now and `filled` how many codewords it holds: four where
none is in hand (R363). -/
structure Sb where
  num    : Nat
  slc    : Bool
  closed : Bool
  opened : Nat
  closedAt : Nat
  taken  : List (Nat × ChanId)
  hp     : Nat × ChanId
  filled : Nat
deriving DecidableEq, Repr

/-- An erase that runs or is suspended on a die (R390), with the mode in which its block was used. -/
structure Erase where
  die   : Fin 1536
  block : Fin 9375
  slc   : Bool
  susp  : Nat
  halted : Bool
deriving DecidableEq, Repr

/-- The regions of the medium (R365). -/
inductive Region where
  | slc | swap | sys | pool
deriving DecidableEq, Repr

/-- Pages of a list of an index generation on one channel, one in each of `stripes` (R227, R365, R378): its `ord`-th run,
the extents first and the full vectors after them (R228, R232). `bytes` is what they hold, `nsid` the namespace that their
codewords name (R367), `lost` names pages that were moved after no level read them (R369), and `dead` says that their index has been
deleted. -/
structure IdxRun where
  idx   : IdxId
  cent  : Nat
  gen   : BitVec 32
  ord   : Nat
  stripes : List Nat
  bytes : Bytes
  lost  : List Nat
  place : Place
  nsid  : BitVec 32
  dead  : Bool
deriving DecidableEq, Repr

/-- The parity page of a stripe, as it is stored (R371). -/
structure ParityPage where
  sb     : Nat
  stripe : Nat
  chan   : ChanId
  bytes  : Bytes
deriving DecidableEq, Repr

/-- An entry of a checkpoint's map: a logical block, its data sequence number and its place (R381, R384). -/
structure MapEnt where
  key   : BlkKey
  dseq  : BitVec 64
  place : Place
deriving DecidableEq, Repr

/-- Media management (11). `moved` lists the superblocks that have left the data pool for another region, and `slcCap`,
`swapCap` and `sysCap` are the data capacities of the others in bytes (R365). `slcFree` counts the free superblocks of the SLC
write region outside the mirror's 64, `mirFree` those of the 64, `mirSb` those that hold mirror pages (R376). `lostBlk` names
blocks and `lostPg` pages that no level reads (R373). `credit` is the space reclaimed for host writes while collection runs in
the foreground (R380). `ckpts` are the two checkpoint slots, of which `ckptSlot` is in force (R384). A die under rebuild carries the superblock order at its failure; `wear` counts the erases of a
block in SLC mode (`true`) and in QLC mode (R393). `jopen` says that the last shutdown did not close the journal (R449), and
`ckptOrd` is the superblock order at the checkpoint in force (R385). -/
structure Media where
  dieRet   : List (Fin 1536)
  rebuild  : List (Fin 1536 × Nat)
  retBlk   : List FlashBlk
  lostBlk  : List FlashBlk
  lostPg   : List (FlashBlk × Nat)
  blkRet   : Nat
  moved    : List (Nat × Region)
  slcCap   : Nat
  swapCap  : Nat
  sysCap   : Nat
  poolFree : Nat
  slcFree  : Nat
  mirFree  : Nat
  mirSb    : Nat
  resFree  : Nat
  sbs      : List Sb
  order    : Nat
  nextSb   : Nat
  nextSlc  : Nat
  runs     : List IdxRun
  parity   : List ParityPage
  credit   : Nat
  spare    : Nat
  erases   : List Erase
  einc     : List FlashBlk
  reloc    : List FlashBlk
  journal  : Nat
  ckptSlot : Bool
  ckptGen  : Nat
  ckpts    : Vector (List MapEnt) 2
  ckptAt   : Nat
  opened   : Nat
  err      : Vector (BitVec 64) 24
  mediaWr  : BitVec 64
  racked   : BitVec 64
  gcMoved  : BitVec 64
  wear     : List (FlashBlk × Bool × Nat)
  temphist : Vector (Vector (BitVec 32) 64) 8
  idle     : Bool
  hupFail  : Bool
  dataErr  : BitVec 64
  warnT    : Nat
  critT    : Nat
  charged  : Bool
  replayed : Bool
  lossSeen : Bool
  jopen : Bool
  ckptOrd : Nat
deriving DecidableEq, Repr

/-! ## Telemetry and calibration -/

/-- One sensor (R432, R433, R447). -/
structure Sensor where
  value  : BitVec 32
  valid  : Bool
  failed : Bool
  bad    : Nat
deriving DecidableEq, Repr

/-- Telemetry (13). Powers are in microwatts; limits in 0.125 W. `psSum`, `clPow` and `clClk` add up over the sample
periods of the present round; `rndPs` and `rndDem` hold the mean and the demand of the previous one (R443). `gap` is the
power loop's gap level. `throtC`, `throtF` and `gapT` hold the steps by which thermal throttling has lowered each ceiling and
raised the gap level, for each history group that throttles (R435, R438). `exc` counts sample periods (R434). `calOff`,
`calMult`, `bias0` and `bias1` are the user calibration as it was read at the start of the present sample period (R445). -/
structure Tel where
  sens    : Vector Sensor 96
  last    : List Nat
  ps      : Nat
  p1      : Nat
  psSum   : Nat
  psCnt   : Nat
  limit   : BitVec 16
  lsrc    : BitVec 2
  exc     : Nat
  guard   : Bool
  gap     : BitVec 4
  gapT    : Vector (BitVec 4) 6
  written : BitVec 16
  derate  : BitVec 16
  inSum   : Int
  inCnt   : Nat
  clkC    : BitVec 11
  clkF    : BitVec 11
  clkS    : BitVec 11
  throtC  : Vector (Vector Nat 12) 6
  throtF  : Vector (Vector Nat 32) 6
  clPow   : Vector Nat 12
  clClk   : Vector Nat 12
  rndPs   : Nat
  rndDem  : Nat
  tracked : List (Fin 1536 × List Int)
  turn    : Vector Nat 2
  calOff  : Vector (BitVec 16) 96
  calMult : Vector (BitVec 16) 96
  bias0   : BitVec 64
  bias1   : BitVec 56
deriving DecidableEq, Repr

/-- User calibration (R447). -/
structure Cal where
  userw : Bool
  off   : Vector (BitVec 16) 96
  mult  : Vector (BitVec 16) 96
  bias0 : BitVec 64
  bias1 : BitVec 56
  eq    : Vector (BitVec 24) 8
deriving DecidableEq, Repr

/-! ## Reset, boot store, supervisors -/

/-- Where the drive stands in its exit from reset (R453, R473, R439). -/
inductive Phase where
  | held | trim | boot | recovery | run | noPower | tripped
deriving DecidableEq, Repr

/-- A block reset under way (R459, R460): still working on its requests, or being reset. -/
inductive BlkRst where
  | none
  | idling (code : BitVec 8)
  | resetting (code : BitVec 8)
deriving DecidableEq, Repr

/-- The reset registers (R452, R481) and the exit sequence. -/
structure Rst where
  phase   : Phase
  cold    : Bool
  cause   : BitVec 4
  stamp   : BitVec 48
  trimv   : Bool
  crcf    : BitVec 2
  safe    : Bool
  blk     : BitVec 8
  err     : Bool
  forced  : Bool
  tmo     : BitVec 16
  wdog    : BitVec 16
  act     : BlkRst
  waiting : List (BitVec 8)
deriving DecidableEq, Repr

/-- A timed boot store operation (R465). -/
inductive BstOp where
  | none
  | program (addr : Nat) (data : BitVec 32)
  | erase (sector : Nat)
  | suspend (sector : Nat)
  | protect (sector : Nat)
  | clearProt
  | storePwd (pwd : BitVec 64)
deriving DecidableEq, Repr

/-- The boot store (R463 to R470). `clk` is the boot interface clock in use, a column of the table of R464, and `low` says that
the lowest supply voltage present lies below 1.80 V. -/
structure Bst where
  addr   : BitVec 26
  data   : BitVec 32
  pwd    : BitVec 64
  wait   : BitVec 4
  res    : BitVec 4
  locked : Bool
  badpwd : BitVec 2
  esect  : BitVec 14
  esusp  : Bool
  op     : BstOp
  op2    : BstOp
  mem    : Mem
  protRest : Bool
  prot   : List Nat
  einc   : List Nat
  pwdset : Bool
  key    : BitVec 64
  clk    : Fin 5
  low    : Bool
deriving DecidableEq, Repr

/-- Firmware staging and the activation in service (R471 to R475). -/
structure Fw where
  staged  : Bytes
  slot    : BitVec 1
  fellBack : Bool
  act     : Option (Hdr × BitVec 1 × Nat)
deriving DecidableEq, Repr

/-- One supervisor (R476 to R481, R485, R486). `blkRst` says that it has come out of a block reset and has not shown a heartbeat
since (R486). -/
structure SupOne where
  running : Bool
  primary : Bool
  view    : BitVec 16
  hb      : BitVec 32
  fails   : List (BitVec 64)
  heldOff : Bool
  failed  : Bool
  waiting : Bool
  blkRst  : Bool
deriving DecidableEq, Repr

/-- The primacy latch and the supervisors (R477, R481). -/
structure Sup where
  epoch  : BitVec 16
  holder : Fin 2
  valid  : Bool
  ok     : Vector Bool 2
  fenced : BitVec 32
  one    : Vector SupOne 2
  takeover : Option (Fin 2)
deriving DecidableEq, Repr

/-! ## Fuses, pins, log, outputs -/

/-- A row of an island's clock ceiling (R444): the ceiling in MHz from a voltage in mV on and up to a temperature in 1/16 °C
(assumption 4). -/
structure CeilRow where
  mv   : Int
  temp : Int
  mhz  : Nat
deriving DecidableEq, Repr

/-- Fuses and OTP (R324, R444, R294): kept through every reset. A sensor's factory gain is `gainN / gainD`. `dram` holds the
training seed of each of the 4 stacks and 14 packages.
`amap` gives for each active array its physical array, its service bit and whether that is a spare. -/
structure Otp where
  eui    : BitVec 64
  macs   : Vector (BitVec 48) 8
  xcode  : Bool
  amap   : Vector (BitVec 8 × Bool × Bool) 192
  gainN  : Vector Int 96
  gainD  : Vector Nat 96
  offs   : Vector Int 96
  ceilC  : Vector (List CeilRow) 12
  ceilF  : Vector (List CeilRow) 32
  ceilS  : List CeilRow
  ceilV  : Vector (List CeilRow) 2
  rl     : List (Fin 1536 × List Int)
  eq     : Vector (BitVec 24) 8
  sprUsed : BitVec 16
  sprLeft : BitVec 16
  fgrRet : Vector Bool 32
  fs     : Vector Nat 96
  dram   : Vector (BitVec 64) 18
deriving DecidableEq, Repr

/-- Pins and rails (R457, R510 to R516). Outputs are levels; a lane that is not sending is in idle. `i3cAddr` is the dynamic address
of the I3C bus, once its controller has assigned one, and `smbAddr` the address on the fallback bus (R522). -/
structure Pins where
  alertN  : Bool
  sdaLow  : Bool
  clkreqN : Bool
  ledAct  : Bool
  ledFlt  : Bool
  txdis   : Vector Bool 2
  lpmode  : Vector Bool 2
  modrstN : Vector Bool 2
  sending : Vector Bool 8
  supply  : Vector Bool 2
  perst   : Bool
  strap   : Bool
  present : Vector Bool 2
  main    : Bool
  aux     : Bool
  i3cAddr : Option (BitVec 7)
  smbAddr : BitVec 7
deriving DecidableEq, Repr

/-- An entry of the drive event log (R493). -/
structure LogEnt where
  stamp   : BitVec 48
  seq     : BitVec 16
  cls     : BitVec 8
  scope   : BitVec 8
  unit    : BitVec 16
  outcome : BitVec 8
  sup     : BitVec 8
  epoch   : BitVec 16
  d0      : BitVec 64
  d1      : BitVec 64
deriving DecidableEq, Repr

/-- The drive event log (R492). -/
structure Log where
  ents : List LogEnt
  ovf  : BitVec 32
  next : BitVec 16
deriving DecidableEq, Repr

/-- Completion statuses that the spec names (R400, R403, R411 and the NVMe statuses of the chapters). -/
inductive Status where
  | success | invalidOpcode | invalidField | sequence | deletedSq | writeProtected | operationDenied
  | unrecovered | compareFailure | invalidNs | lbaRange | programFaulted | noMemory
  | imageSize | imageFormat | imageCrc | imageGeneration | imageReserved | imageLayout | imageDescriptor
  | indexNamespace | notAuthorised | blockReset | invalidFwImage | invalidFwSlot | fwProhibited
  | fwNeedsReset | invalidQueue | invalidQueueSize | aerLimit | invalidLogPage | nsNotAttached
  | nsAttached | nsUnavailable | nsCapacity | invalidQueueDel | cqInvalid | invalidVector
deriving DecidableEq, Repr

/-- A completion: queue, command, status, dwords 0 and 1, and the data returned with it. -/
structure Cpl where
  sq   : BitVec 16
  cid  : BitVec 16
  port : Port
  st   : Status
  dw0  : BitVec 32
  dw1  : BitVec 32
  data : Bytes
deriving DecidableEq, Repr

/-- A frame that left a port on a lane, from its destination address to the end of its payload (R323, R324, R333). -/
structure TxFrame where
  port  : Fin 2
  lane  : Fin 8
  bytes : Bytes
deriving DecidableEq, Repr

/-- A Hornak message, or the part of one, that left the drive: what its frames say and the frames (R333, R334, R336). -/
structure TxMsg where
  port  : Fin 2
  typ   : BitVec 8
  dst   : BitVec 16
  round : BitVec 64
  msg   : BitVec 32
  stamp : BitVec 48
  seq   : BitVec 16
  body  : Bytes
  frames : List TxFrame
deriving DecidableEq, Repr

/-- A response on the management port: message tag, status (0 success, 4 invalid parameter, 2 internal
error) and data (R429, R516). -/
structure MiResp where
  tag  : BitVec 16
  code : BitVec 8
  data : Bytes
deriving DecidableEq, Repr

/-- What has left the drive, newest first: completions, register reads, messages sent, responses. -/
structure Out where
  cpls  : List Cpl
  reads : List (Port × BitVec 64)
  tx    : List TxMsg
  mi    : List MiResp
deriving DecidableEq, Repr

/-! ## The state -/

/-- The state of the drive. -/
structure State where
  pending : List Instr
  ready   : List Instr
  parked  : List Instr
  replay  : Bool
  free    : Nat
  otp     : Otp
  pins    : Pins
  rst     : Rst
  sup     : Sup
  bst     : Bst
  fw      : Fw
  time    : TimeSt
  tel     : Tel
  cal     : Cal
  host    : HostSt
  nvm     : Nvm
  media   : Media
  tiers   : Tiers
  arrs    : Vector ArrSt 192
  badPhys : List (Fin 200)
  fgrs    : Vector Fgr 32
  slots   : Vector Slot 32
  ctxs    : Vector Ctx 64
  parts   : Vector Part 8
  idxs    : Vector Idx 64
  mergeQ  : List IdxId
  merge   : Option Merge
  fab     : Fab
  log     : Log
  out     : Out
deriving DecidableEq, Repr

/-! ## Reset values -/

/-- No fault recorded (R69, R506). -/
def ExcWord.clear : ExcWord := { cause := .none, unit := 0xFF, dim := 0, detail := 0 }

/-- An empty fault record (R506). -/
def FRec.clear : FRec := { valid := false, first := 0, src := 0xFF, pc := 0, m := 0, n := 0, k := 0 }

/-- A Free context: it reads as zero (R506), p0 as all ones (R43). -/
def Ctx.free : Ctx :=
  { st := .free, sreg := Vector.replicate 64 0, treg := Vector.replicate 32 0,
    preg := (Vector.replicate 8 0).set 0 (BitVec.allOnes 64), pc := 0, stack := [], flags := 0,
    exc := .clear, trapMask := 0, deadline := 0, frec := .clear, fpc := 0, slot := 0, part := 0,
    stat := false, sq := 0, limit := 0, seed := 0, wnBase := 0, wnSize := 0, wfBase := 0, wfSize := 0,
    seqr := none, count := 0, steps := 0, cur := none, hout := [], houtFree := 0, queue := [],
    wait := .none, ring := [], ringOvf := 0, ringNext := 0, mon := [], sums := [], bands := [],
    views := [], scan1 := none, prefs := [], durs := [], reason := 0, degTrap := false, degNow := false, lastRun := 0,
    pinned := false, starved := false, runAt := 0, sliceAt := 0, stepAt := 0, inStep := false, swBlocked := false,
    rang := false, sending := .none, pinEnd := 0, starveAt := .none, numTrap := false }

/-- A descriptor of zeros. -/
def PartDesc.zero : PartDesc :=
  { clusters := 0, foragers := 0, slice := 0, stackMask := 0, ncap := 0, fcap := 0,
    regN := ⟨0, 0⟩, regF := ⟨0, 0⟩, regFl := ⟨0, 0⟩, regX := ⟨0, 0⟩ }

/-- An undefined partition (R297, R322). -/
def Part.undef : Part :=
  { defined := false, desc := .zero, holder := none, parked := none, saves := 0, sw := .idle,
    tokens := Vector.replicate 4 0, scans := [], slice := none }

/-- An empty program slot (R35). -/
def Slot.empty : Slot :=
  { img := [], loaded := false, active := false, constBase := 0, stg := [], stgTotal := 0 }

/-- A cleared array exception record (R164). -/
def AExc.clear : AExc := { flags := 0, ctx := 0, first := .clear }

/-- An array with cleared memories (R301) behind the given fuse entry. -/
def ArrSt.ofFuse (f : BitVec 8 × Bool × Bool) : ArrSt :=
  { phys := f.1, inserv := f.2.1, spare := f.2.2, buf := [], acc := [], exc := .clear }

/-- An empty generation record (R225). -/
def Gen.empty : Gen :=
  { gen := 0, ncent := 0, sbase := 0, centAddr := 0, graphAddr := 0, fwdAddr := 0, centSoff := 0,
    valid := false, fwd := [], lists := [], attrs := [], arows := 0, chans := 0 }

/-- No index (R223). -/
def Idx.none : Idx :=
  { live := false, metric := 0, codeFmt := 0, centFmt := 0, dim := 0, attrWidth := 0, cur := 0,
    chanMask := 0, ncentCap := 0, broodCap := 0, broodThresh := 0, nsid := 0, head := 0, durable := 0,
    bound := 0, attrAddr := 0, attrRows := 0, gens := Vector.replicate 2 .empty, share := 0,
    brood := [], stage := .none, attrStage := [], attrCap := 0, dropChan := 0,
    fwd2 := 0, broodAddr := 0 }

/-- An empty correctable-error table (R285). -/
def CeTab.empty : CeTab :=
  { valid := 0, next := 0, ovf := 0, ents := Vector.replicate 16 ⟨0, 0, 0⟩ }

/-- The tiers after a cold reset (R264, R294, R296); each stack holds the same number of pool frames (assumption 21). -/
def Tiers.cold (used left : BitVec 16) : Tiers :=
  { mem := [], pages := [], freeN := Vector.replicate 4 16256, freeF := 458752, freeS := 524288, limit := 1015296,
    clock := 0, poison := [], source := [], stale := [], sramPoison := [], ce := Vector.replicate 4 .empty,
    scrubN := ⟨14400, 0⟩, scrubF := ⟨86400, 0⟩, scrubS := ⟨3600, 0⟩, xevict := 0, lend := 0,
    sprUsed := used, sprLeft := left, rprStk := Vector.replicate 4 0, rprPkg := 0, rprRet := 0,
    rowHits := [], rowMark := [], rowUsed := [], pkgFail := [], goneN := Vector.replicate 4 0, goneF := 0, stkFail := false }

/-- The time counter after a cold reset (R362, R329). -/
def TimeSt.cold : TimeSt :=
  { now := 0, seq := 0, offset := 0, insync := false, holdover := false, corrected := false,
    holdUntil := none, slew := 0, slewCnt := 0 }

/-- A fabric port with its link down (R362). -/
def PortSt.down : PortSt :=
  { lanes := 0, link := false, degr := false, rxerr := 0, txdrop := 0, good := 0xF, training := false }

/-- The fabric after any cold or warm reset (R362, R409). -/
def Fab.cold : Fab :=
  { node := 0, auto := false, set := false, prio := 0x80, hive := 0, st := .noHive, knode := 0,
    epoch := 0, heard := 0, sched := none, pend := none, stg := [], stgTotal := 0, member := 0,
    overrun := 0, round := 0, fresh := false, ports := Vector.replicate 2 .down, held := Vector.replicate 2 .down, routes := [], vid := 0, gprio := 250,
    hiveCtx := none, asm := [], recent := [], cmds := [], slots := [], kids := [], covers := [],
    oos := [], rejoin := none, leases := [], lent := [], grants := [], reqNo := 0, msgNo := 0,
    anns := [], pows := [], grant := none, bulk := [], bulkSent := 0, bulkMsg := 0, bulkUsed := none, inUsed := none,
    queries := [], acked := [], grantNext := none, taps := Vector.replicate 8 0, slotSent := none }

/-- The host interface after any cold or warm reset (R399, R428, R431, R440). Every notification passes the event
configuration, and before it trains the link stands at its full rate and width: DESIGN CHOICE, the spec gives no value
(assumption 30). -/
def HostSt.cold (strap : Bool) : HostSt :=
  { ccEn := false, rdy := false, shst := 0, noFetch := false, sqs := [], cqs := [], ps := 0, entry := none,
    exiting := false, wish := none, apst := false, apstTab := [], idle3 := 60, idle4 := 600,
    vwc := true, overT := Vector.replicate 9 343, underT := Vector.replicate 9 273, aers := [],
    notes := [], masked := [], ranges := [], deny := 0, locks := [], peak := 0, dbg := strap,
    aecfg := BitVec.allOnes 32, mcfg := [], miResp := [],
    pcie := ⟨6, 8, false, 0x010802, 16384, 67108864, 512, 4096, 768, 129⟩, feats := [], waitQ := [] }

/-- Stored data at manufacture (assumption 5). -/
def Nvm.new : Nvm :=
  { nss := [], cache := [], blocks := [], dealloc := [], dseq := 0, flushes := [], readOnly := false,
    hostWr := 0, gone := [] }

/-- The media at manufacture: the region sizes of R365 outside the last reserve of R366 (assumption 5). -/
def Media.new : Media :=
  { dieRet := [], rebuild := [], retBlk := [], lostBlk := [], lostPg := [], blkRet := 0, moved := [],
    slcCap := 726620160000, swapCap := 1099612160000, sysCap := 1300234240000,
    poolFree := 443215, slcFree := 2225, mirFree := 64, mirSb := 0, resFree := 8,
    sbs := [], order := 0, nextSb := 0, nextSlc := 0, runs := [], parity := [], credit := 0, spare := 71256678400000,
    erases := [], einc := [], reloc := [],
    journal := 0, ckptSlot := false, ckptGen := 0, ckpts := Vector.replicate 2 [], ckptAt := 0, opened := 0,
    err := Vector.replicate 24 0, mediaWr := 0, racked := 0, gcMoved := 0, wear := [],
    temphist := Vector.replicate 8 (Vector.replicate 64 0), idle := false,
    hupFail := false, dataErr := 0, warnT := 0, critT := 0, charged := false, replayed := false, lossSeen := false, jopen := false, ckptOrd := 0 }

/-- Telemetry after any cold or warm reset (R447); a failed sensor stays failed until cold reset (R433). -/
def Tel.cold : Tel :=
  { sens := Vector.replicate 96 ⟨0, false, false, 0⟩, last := [], ps := 0, p1 := 0, psSum := 0,
    psCnt := 0, limit := 1920, lsrc := 0, exc := 0, guard := false, gap := 0, gapT := Vector.replicate 6 0,
    written := 0, derate := 1920, inSum := 0, inCnt := 0, clkC := 1000, clkF := 900, clkS := 1000,
    throtC := Vector.replicate 6 (Vector.replicate 12 0), throtF := Vector.replicate 6 (Vector.replicate 32 0),
    clPow := Vector.replicate 12 0, clClk := Vector.replicate 12 0, rndPs := 0, rndDem := 0, tracked := [], turn := Vector.replicate 2 0,
    calOff := Vector.replicate 96 0, calMult := Vector.replicate 96 0x4000,
    bias0 := 0, bias1 := 0 }

/-- User calibration at its neutral values (R36, R446, R447). -/
def Cal.neutral : Cal :=
  { userw := false, off := Vector.replicate 96 0, mult := Vector.replicate 96 0x4000, bias0 := 0,
    bias1 := 0, eq := Vector.replicate 8 0 }

/-- The reset registers as a power-on reset begins (R452, R453, R481). -/
def Rst.powerOn : Rst :=
  { phase := .held, cold := true, cause := 0, stamp := 0, trimv := false, crcf := 0, safe := false,
    blk := 0, err := false, forced := false, tmo := 100, wdog := 100, act := .none, waiting := [] }

/-- The boot store as shipped: `PWDSET` 0 and the vendor area protected (R469, R470; assumption 6). -/
def Bst.shipped : Bst :=
  { addr := 0, data := 0, pwd := 0, wait := 15, res := 0, locked := false, badpwd := 0, esect := 0,
    esusp := false, op := .none, op2 := .none, mem := [], protRest := true, prot := [], einc := [],
    pwdset := false, key := 0, clk := 4, low := false }

/-- No staged firmware (R474). -/
def Fw.none : Fw := { staged := [], slot := 0, fellBack := false, act := .none }

/-- A supervisor that has not started (R453). -/
def SupOne.stopped : SupOne :=
  { running := false, primary := false, view := 0, hb := 0, fails := [], heldOff := false, failed := false, waiting := false,
    blkRst := false }

/-- The primacy latch after a cold reset (R481). -/
def Sup.cold : Sup :=
  { epoch := 0, holder := 0, valid := false, ok := Vector.replicate 2 false, fenced := 0,
    one := Vector.replicate 2 .stopped, takeover := none }

/-- Fuses and OTP of the modelled part: the spec gives no values (assumption 4). No array is fused off;
active array a of field f is physical array a + 2·f, since each field's two spares follow its three clusters. -/
def Otp.part : Otp :=
  { eui := 0, macs := Vector.replicate 8 0, xcode := false,
    amap := vgen 192 fun a => (BitVec.ofNat 8 (a + 2 * (a / 48)), true, false),
    gainN := Vector.replicate 96 1, gainD := Vector.replicate 96 1, offs := Vector.replicate 96 0,
    ceilC := Vector.replicate 12 [⟨0, 2400, 1100⟩], ceilF := Vector.replicate 32 [⟨0, 2400, 1000⟩],
    ceilS := [⟨0, 2400, 1200⟩], ceilV := Vector.replicate 2 [⟨0, 2400, 1000⟩], rl := [],
    eq := Vector.replicate 8 0, sprUsed := 0, sprLeft := 4400, fgrRet := Vector.replicate 32 false,
    fs := Vector.replicate 96 1048576, dram := Vector.replicate 18 0 }

/-- The pins at their inactive levels (R457), PERST# asserted, both rails present (assumption 7). -/
def Pins.inactive : Pins :=
  { alertN := true, sdaLow := false, clkreqN := true, ledAct := false, ledFlt := false,
    txdis := Vector.replicate 2 true, lpmode := Vector.replicate 2 true,
    modrstN := Vector.replicate 2 false, sending := Vector.replicate 8 false,
    supply := Vector.replicate 2 false, perst := true, strap := false,
    present := Vector.replicate 2 false, main := true, aux := true, i3cAddr := none, smbAddr := 0x1D }

/-- The state right after power-on: a cold reset has begun and PERST# is still asserted (R448, R453). -/
def State.reset : State :=
  { pending := [], ready := [], parked := [], replay := false, free := 0, otp := .part, pins := .inactive,
    rst := .powerOn, sup := .cold, bst := .shipped, fw := .none, time := .cold, tel := .cold,
    cal := .neutral, host := .cold false, nvm := .new, media := .new, tiers := .cold 0 4400,
    arrs := vmap ArrSt.ofFuse Otp.part.amap, badPhys := [],
    fgrs := vgen 32 fun n =>
      { retired := Otp.part.fgrRet.toList.getD n false, extents := 0, bytes := 0 },
    slots := Vector.replicate 32 .empty, ctxs := Vector.replicate 64 .free,
    parts := Vector.replicate 8 .undef, idxs := Vector.replicate 64 .none, mergeQ := [],
    merge := none, fab := .cold, log := { ents := [], ovf := 0, next := 0 },
    out := { cpls := [], reads := [], tx := [], mi := [] } }

end Sys2Proof.Machine
end

