-- ==== Sys2Proof/Machine/Flags.lean ====
section
/-! DEFINITION. The exception flags of an instruction and the first offending element (04, R162 to R167),
and the context's sticky flags (02, R69 to R75). -/

namespace Sys2Proof.Machine

/-- The key that orders offending elements of one instruction: m, n, k, flag code (R164). -/
structure Key where
  m : Nat
  n : Nat
  k : Nat
  code : Nat
deriving DecidableEq, Repr

/-- Lexicographic order of keys (R164). -/
def keyLt (a b : Key) : Bool :=
  decide (a.m < b.m) || (decide (a.m = b.m) &&
    (decide (a.n < b.n) || (decide (a.n = b.n) &&
      (decide (a.k < b.k) || (decide (a.k = b.k) && decide (a.code < b.code))))))

/-- What one instruction raised: the OR of its flags and the lowest key. -/
structure Exc where
  fl  : Fl
  key : Option Key
deriving DecidableEq, Repr

/-- Nothing raised. -/
def Exc.none : Exc := { fl := 0, key := .none }

/-- The lower of two keys. -/
def keyMin : Option Key → Option Key → Option Key
  | .none, b => b
  | a, .none => a
  | some a, some b => some (if keyLt b a then b else a)

/-- Two records joined: the OR of the flags, the lower key (R70, R166). -/
def excJoin (a b : Exc) : Exc := { fl := a.fl ||| b.fl, key := keyMin a.key b.key }

/-- The lowest flag code set in a set of flags (R164). -/
def flFirst (f : Fl) : Nat :=
  if f.getLsbD 0 then 0 else if f.getLsbD 1 then 1 else if f.getLsbD 2 then 2 else 3

/-- Flags raised at a coordinate (R165). -/
def raiseAt (f : Fl) (m n k : Nat) : Exc :=
  if f = 0 then .none else { fl := f, key := some ⟨m, n, k, flFirst f⟩ }

/-- All the records of a list joined. -/
def excJoinAll (l : List Exc) : Exc := l.foldl excJoin .none

/-- Code of a fault cause (R73). -/
def causeCode : Cause → Nat
  | .none => 0 | .rsvdOpcode => 1 | .rsvdField => 2 | .pcRange => 3 | .stackOver => 4
  | .stackMismatch => 5 | .shapeOver => 6 | .accOver => 7 | .bufOver => 8 | .descRange => 9
  | .addrRange => 10 | .poison => 11 | .numTrap => 12 | .deadline => 13 | .blockReset => 14
  | .fabric => 15 | .hostDelete => 16 | .stepLimit => 17 | .unitFail => 18 | .undeclared => 19
  | .evtCode => 20

/-- The exception word as the host reads it (R69). -/
def excWordBits (flags : BitVec 6) (e : ExcWord) : BitVec 64 :=
  BitVec.ofNat 64 (flags.toNat + causeCode e.cause * 2 ^ 16 + e.unit.toNat * 2 ^ 24 +
    e.dim.toNat * 2 ^ 32 + e.detail.toNat * 2 ^ 36)

/-- Context states as `STATE` of R322 codes them. -/
def ctxStCode : CtxSt → Nat
  | .free => 0 | .ready => 1 | .runnable => 2 | .running => 3 | .blocked => 4 | .swapped => 5
  | .faulted => 6

/-- A fault record with the lower key kept: the program counter first, then m, n, k and the flag code (R164, R166). -/
def frecMerge (old : FRec) (pc : BitVec 32) (unit : BitVec 8) (x : Exc) : FRec :=
  match x.key with
  | .none => old
  | some key =>
    let new : FRec := { valid := true, first := BitVec.ofNat 2 key.code, src := unit, pc := pc,
                        m := BitVec.ofNat 48 key.m, n := BitVec.ofNat 48 key.n, k := BitVec.ofNat 48 key.k }
    if !old.valid then new
    else if decide (new.pc.toNat < old.pc.toNat) ||
        (decide (new.pc = old.pc) &&
          keyLt ⟨new.m.toNat, new.n.toNat, new.k.toNat, new.first.toNat⟩
            ⟨old.m.toNat, old.n.toNat, old.k.toNat, old.first.toNat⟩) then new
    else old

/-- Two fault records with the lower key kept (R166). -/
def frecFold (old new : FRec) : FRec :=
  if !new.valid then old
  else if !old.valid then new
  else if decide (new.pc.toNat < old.pc.toNat) ||
      (decide (new.pc = old.pc) &&
        keyLt ⟨new.m.toNat, new.n.toNat, new.k.toNat, new.first.toNat⟩
          ⟨old.m.toNat, old.n.toNat, old.k.toNat, old.first.toNat⟩) then new
  else old

/-- `INV`, `OVF`, `UNF` and `NANIN` as context flags [3:0] (R69). -/
def flToCtx (f : Fl) : BitVec 6 := f.zeroExtend 6

/-- Flag bit 4, `DEGRADED` (R69). -/
def ctxDegraded : BitVec 6 := 16#6

/-- Flag bit 5, `SHORT` (R69). -/
def ctxShort : BitVec 6 := 32#6

/-! ## Status codes -/

/-- Status Code Type and Status Code of a completion (R411): type 7h and the codes of R411 for the drive's own statuses; the
others are those of the base specification (PRESUMED, assumption 9). -/
def Status.code : Status → Nat × Nat
  | .programFaulted => (7, 0xC0)
  | .noMemory => (7, 0xC1)
  | .imageSize => (7, 0xC2)
  | .imageFormat => (7, 0xC3)
  | .imageCrc => (7, 0xC4)
  | .imageGeneration => (7, 0xC5)
  | .imageReserved => (7, 0xC6)
  | .imageLayout => (7, 0xC7)
  | .imageDescriptor => (7, 0xC8)
  | .indexNamespace => (7, 0xC9)
  | .notAuthorised => (7, 0xCA)
  | .blockReset => (7, 0xCB)
  | .success => (0, 0x00)
  | .invalidOpcode => (0, 0x01)
  | .invalidField => (0, 0x02)
  | .deletedSq => (0, 0x08)
  | .invalidNs => (0, 0x0B)
  | .sequence => (0, 0x0C)
  | .operationDenied => (0, 0x15)
  | .writeProtected => (0, 0x20)
  | .lbaRange => (0, 0x80)
  | .nsCapacity => (1, 0x15)
  | .cqInvalid => (1, 0x00)
  | .invalidQueue => (1, 0x01)
  | .invalidQueueSize => (1, 0x02)
  | .aerLimit => (1, 0x05)
  | .invalidFwSlot => (1, 0x06)
  | .invalidFwImage => (1, 0x07)
  | .invalidVector => (1, 0x08)
  | .invalidLogPage => (1, 0x09)
  | .invalidQueueDel => (1, 0x0C)
  | .fwNeedsReset => (1, 0x0B)
  | .fwProhibited => (1, 0x13)
  | .nsUnavailable => (1, 0x16)
  | .nsAttached => (1, 0x18)
  | .nsNotAttached => (1, 0x1A)
  | .unrecovered => (2, 0x81)
  | .compareFailure => (2, 0x85)

end Sys2Proof.Machine
end

