-- ==== Sys2Proof/Machine/Ops.lean ====
section
/-! DEFINITION. The named operations over the state that every meaning uses: byte memories, register
accessors, stamps (R329), completions (R80, R400), notifications, events (R76), the drive event log
(R492, R493), the scheduler's choice (R304, R305), the end of an instruction (R71, R102) and the teardown
of a faulting context (R81, R319). -/

namespace Sys2Proof.Machine

/-- A command's outcome: every meaning answers a next state. -/
abbrev Res := Host.Outcome State Fault Refusal

/-! ## Byte memory -/

/-- Reads one byte; an unlisted byte reads as zero (R266). -/
def memGet : Mem → Nat → Byte
  | [], _ => 0
  | (a, b) :: t, x => if a = x then b else memGet t x

/-- Writes one byte and keeps the canonical form. -/
def memPut : Mem → Nat → Byte → Mem
  | [], x, v => if v = 0 then [] else [(x, v)]
  | (a, b) :: t, x, v =>
    if x < a then (if v = 0 then (a, b) :: t else (x, v) :: (a, b) :: t)
    else if x = a then (if v = 0 then t else (x, v) :: t)
    else (a, b) :: memPut t x v

/-- Every entry lies above `lo` and is not zero, in strictly rising order. -/
def memAbove (lo : Nat) : Mem → Bool
  | [] => true
  | (a, b) :: t => decide (lo ≤ a) && b != 0 && memAbove (a + 1) t

/-- The canonical form of a byte memory. -/
def Memory.wf (m : Mem) : Bool := memAbove 0 m

/-- Writes consecutive bytes upwards from `a`. -/
def memPuts (m : Mem) (a : Nat) : Bytes → Mem
  | [] => m
  | b :: t => memPuts (memPut m a b) (a + 1) t

/-- The bytes written as cells upwards from `a`, leaving out zeros. -/
def cellsOf (a : Nat) : Bytes → Mem
  | [] => []
  | b :: t => if b = 0 then cellsOf (a + 1) t else (a, b) :: cellsOf (a + 1) t

/-- A run of bytes laid over a memory from `a`, at once. -/
def memOver (m : Mem) (a : Nat) (l : Bytes) : Mem :=
  (m.filter fun c => decide (c.1 < a)) ++ cellsOf a l ++ (m.filter fun c => decide (a + l.length ≤ c.1))

/-- Reads `n` consecutive bytes upwards from `a`. -/
def memGets (m : Mem) (a n : Nat) : Bytes := (List.range n).map fun i => memGet m (a + i)

/-- The entries of a memory at `lo` up to but not including `hi`. -/
def memSlice (m : Mem) (lo hi : Nat) : Mem := m.filter fun c => decide (lo ≤ c.1) && decide (c.1 < hi)

/-- The memory with every byte from `lo` up to but not including `hi` zero. -/
def memZero (m : Mem) (lo hi : Nat) : Mem := m.filter fun c => decide (c.1 < lo) || decide (hi ≤ c.1)

/-- Copies listed entries to the same offsets from `base`. -/
def memPutCells (m : Mem) (base : Nat) : Mem → Mem
  | [] => m
  | (a, b) :: t => memPutCells (memPut m (base + a) b) base t

/-- Little-endian value of a byte string (R11). -/
def leNat : Bytes → Nat
  | [] => 0
  | b :: t => b.toNat + 256 * leNat t

/-- `n` little-endian bytes of a value (R11). -/
def toLe : Nat → Nat → Bytes
  | 0, _ => []
  | n + 1, v => BitVec.ofNat 8 (v % 256) :: toLe n (v / 256)

/-- Bytes `off` to `off + n − 1` of a byte string; bytes beyond its end read as zero. -/
def bytesAt (b : Bytes) (off n : Nat) : Bytes := (List.range n).map fun i => b.getD (off + i) 0

/-- Little-endian field of a byte string (R11). -/
def fieldAt (b : Bytes) (off n : Nat) : Nat := leNat (bytesAt b off n)

/-- Whether every byte of a field is zero. -/
def zeroAt (b : Bytes) (off n : Nat) : Bool := (bytesAt b off n).all (· == 0)

/-- The big-endian value of a byte string (frame headers, R11). -/
def beNat (b : Bytes) : Nat := leNat b.reverse

/-- Reads one written byte of a cell list. -/
def cellGet : List Host.Cell → Nat → Option Byte
  | [], _ => none
  | (a, b) :: t, x => if a = x then some b else cellGet t x

/-- Writes one byte into a sorted cell list that keeps every written byte. -/
def cellPut : List Host.Cell → Nat → Byte → List Host.Cell
  | [], x, v => [(x, v)]
  | (a, b) :: t, x, v =>
    if x < a then (x, v) :: (a, b) :: t else if x = a then (x, v) :: t else (a, b) :: cellPut t x v

/-! ## Numbers, lists, counters -/

/-- All context numbers in ascending order. -/
def allCtx : List CtxId := (List.range 64).map (Fin.ofNat 64)

/-- All active array numbers in ascending order. -/
def allArr : List ArrId := (List.range 192).map (Fin.ofNat 192)

/-- All partition numbers in ascending order. -/
def allPart : List PartId := (List.range 8).map (Fin.ofNat 8)

/-- All foragers in ascending order. -/
def allChan : List ChanId := (List.range 32).map (Fin.ofNat 32)

/-- All index numbers in ascending order. -/
def allIdx : List IdxId := (List.range 64).map (Fin.ofNat 64)

/-- A counter raised by `n` that saturates at its width (R76, R285, R322, R395). -/
def satAdd {w : Nat} (v : BitVec w) (n : Nat) : BitVec w :=
  if 2 ^ w ≤ v.toNat + n then BitVec.allOnes w else BitVec.ofNat w (v.toNat + n)

/-- A counter raised by one that saturates. -/
def satInc {w : Nat} (v : BitVec w) : BitVec w := satAdd v 1

/-- The first element that `f` prefers by its number, among equals the earliest. -/
def minBy {α : Type} (f : α → Nat) : List α → Option α
  | [] => none
  | x :: t =>
    match minBy f t with
    | none => some x
    | some y => if f y < f x then some y else some x

/-- Inserts into a list sorted by `f`, before its equals. -/
def insertBy {α : Type} (f : α → Nat) (x : α) : List α → List α
  | [] => [x]
  | y :: t => if f x ≤ f y then x :: y :: t else y :: insertBy f x t

/-- Sorts by `f`, keeping the order of equals. -/
def sortBy {α : Type} (f : α → Nat) (l : List α) : List α := l.foldr (fun x acc => insertBy f x acc) []

/-- Serial-number order of wrapping counters: `a` is newer than `b` (R331). -/
def newer {w : Nat} (a b : BitVec w) : Bool :=
  let d := (a - b).toNat
  decide (d ≠ 0) && decide (d < 2 ^ (w - 1))

/-- `a` is newer than or equal to `b` (R331). -/
def newerEq {w : Nat} (a b : BitVec w) : Bool := a == b || newer a b

/-! ## State accessors -/

/-- The context `c`. -/
def State.ctx (s : State) (c : CtxId) : Ctx := s.ctxs[c]

/-- The state with context `c` replaced. -/
def State.setCtx (s : State) (c : CtxId) (x : Ctx) : State := { s with ctxs := s.ctxs.set c x }

/-- The partition `p`. -/
def State.part (s : State) (p : PartId) : Part := s.parts[p]

/-- The state with partition `p` replaced. -/
def State.setPart (s : State) (p : PartId) (x : Part) : State := { s with parts := s.parts.set p x }

/-- The index `i`. -/
def State.index (s : State) (i : IdxId) : Idx := s.idxs[i]

/-- The state with index `i` replaced. -/
def State.setIndex (s : State) (i : IdxId) (x : Idx) : State := { s with idxs := s.idxs.set i x }

/-- The slot `k`. -/
def State.slot (s : State) (k : SlotId) : Slot := s.slots[k]

/-- The state with slot `k` replaced. -/
def State.setSlot (s : State) (k : SlotId) (x : Slot) : State := { s with slots := s.slots.set k x }

/-- The active array `a`. -/
def State.arr (s : State) (a : ArrId) : ArrSt := s.arrs[a]

/-- The state with array `a` replaced. -/
def State.setArr (s : State) (a : ArrId) (x : ArrSt) : State := { s with arrs := s.arrs.set a x }

/-- The forager `n`. -/
def State.fgr (s : State) (n : ChanId) : Fgr := s.fgrs[n]

/-- The state with forager `n` replaced. -/
def State.setFgr (s : State) (n : ChanId) (x : Fgr) : State := { s with fgrs := s.fgrs.set n x }

/-- Reads an s-register (R42). -/
def sget (x : Ctx) (i : Fin 64) : BitVec 64 := x.sreg[i]

/-- Writes an s-register. -/
def sput (x : Ctx) (i : Fin 64) (v : BitVec 64) : Ctx := { x with sreg := x.sreg.set i v }

/-- Reads a p-register; p0 always reads as all ones (R43). -/
def pget (x : Ctx) (i : Fin 8) : BitVec 64 := if i = 0 then BitVec.allOnes 64 else x.preg[i]

/-- Writes a p-register; a write to p0 is discarded (R43). -/
def pput (x : Ctx) (i : Fin 8) (v : BitVec 64) : Ctx := if i = 0 then x else { x with preg := x.preg.set i v }

/-- Reads a t-register (R42, R44). -/
def tget (x : Ctx) (i : Fin 32) : BitVec 256 := x.treg[i]

/-! ## Free values -/

/-- The state after `n` free values have been drawn (assumption 2). -/
def State.draw (s : State) (n : Nat) : State := { s with free := s.free + n }

/-- `n` unspecified bytes, as the counter stands (R12). -/
def freeBytes (s : State) (n : Nat) : Bytes := (List.range n).map fun i => Config.freeByte (s.free + i)

/-! ## Stamps -/

/-- Bits [47:0] of the time counter (R329). -/
def stampOf (s : State) : BitVec 48 := s.time.now.truncate 48

/-- The state after one pair of stamp and sequence number has been issued (R329). -/
def State.tickSeq (s : State) : State := { s with time := { s.time with seq := s.time.seq + 1 } }

/-- A command's fetch issues one pair; a command that has waited in the drive was fetched before, but for one that stood unfetched in
its queue (R329, R420). -/
def State.fetchSeq (s : State) (h : Hdr) : State :=
  if !s.replay then s.tickSeq
  else if (h.sq, h.cid) ∈ s.host.waitQ then
    { s.tickSeq with host := { s.host with waitQ := s.host.waitQ.filter (· != (h.sq, h.cid)) } }
  else s

/-- The state after `n` stamps have been issued (R329). -/
def State.tickSeqs (s : State) (n : Nat) : State := { s with time := { s.time with seq := s.time.seq + BitVec.ofNat 16 n } }

/-! ## Completions and notifications -/

/-- Posts a completion. -/
def postCpl (s : State) (x : Cpl) : State := { s with out := { s.out with cpls := x :: s.out.cpls } }

/-- Completes a command with a status, two dwords and data. -/
def complete (s : State) (h : Hdr) (st : Status) (dw0 dw1 : BitVec 32) (data : Bytes) : State :=
  postCpl s { sq := h.sq, cid := h.cid, port := h.port, st := st, dw0 := dw0, dw1 := dw1, data := data }

/-- Completes a command with a status alone. -/
def completeSt (s : State) (h : Hdr) (st : Status) : State := complete s h st 0 0 []

/-- The header of a host I/O command named by queue and identifier. -/
def hostHdr (sq cid : BitVec 16) : Hdr := { port := .host, sq := sq, cid := cid, psdt := 0, rsv := false }

/-- The log page identifier of a notification word. -/
def noteLid (w : BitVec 32) : BitVec 8 := BitVec.ofNat 8 (bitsOf w 23 16)

/-- The bit of the host's event configuration that lets a notification pass: of a SMART/Health notification its critical
warning's, of a vendor-specific one bit 24 + n for page 0xC0 + n. DESIGN CHOICE: the spec lays the configuration out
nowhere (assumption 30). -/
def noteBit (w : BitVec 32) : Nat :=
  if noteLid w = 2 then (match bitsOf w 15 8 with
    | 0 => 2
    | 1 => 1
    | _ => 0)
  else 24 + (noteLid w).toNat % 8

/-- One Asynchronous Event Notification completes an outstanding request, or waits for one. While a notification of a log
page stands unread, later ones for the page wait. -/
def postNote (s : State) (w : BitVec 32) : State :=
  if noteLid w ∈ s.host.masked then { s with host := { s.host with notes := s.host.notes ++ [w] } }
  else
    match s.host.aers with
    | [] => { s with host := { s.host with notes := s.host.notes ++ [w] } }
    | cid :: rest =>
      complete { s with host := { s.host with aers := rest, masked := noteLid w :: s.host.masked } }
        (hostHdr 0 cid) .success w 0 []

/-- Posts a notification that the host's event configuration lets pass (R76, R392, R493). -/
def notify (s : State) (w : BitVec 32) : State := if s.host.aecfg.getLsbD (noteBit w) = false then s else postNote s w

/-- A vendor-specific notification for a log page (R76, R416, R494). -/
def vendorNote (lid : Nat) : BitVec 32 := BitVec.ofNat 32 (7 + lid * 65536)

/-- A SMART/Health notification (R392). -/
def healthNote (info : Nat) : BitVec 32 := BitVec.ofNat 32 (1 + info * 256 + 2 * 65536)

/-! ## Messages for the bulk window -/

/-- Queues a message for the bulk window (R348). -/
def queueBulk (s : State) (typ : BitVec 8) (dst : BitVec 16) (body : Bytes) : State :=
  { s with fab := { s.fab with bulk := s.fab.bulk ++ [(typ, dst, body)] } }

/-- A node ID as a destination. -/
def toNode (n : BitVec 12) : BitVec 16 := n.zeroExtend 16

/-! ## Event ring of a context -/

/-- Raises an event in a context's ring and posts its notification (R75, R76). -/
def raiseEvent (s : State) (c : CtxId) (code : BitVec 16) (value : BitVec 64) : State :=
  let x := s.ctx c
  let e : Event := { code := code, value := value, pc := x.pc, stamp := stampOf s, seq := s.time.seq }
  let full := decide (64 ≤ x.ring.length)
  let x' := { x with
    ring := (if full then x.ring.drop 1 else x.ring) ++ [e]
    ringOvf := if full then satInc x.ringOvf else x.ringOvf
    ringNext := BitVec.ofNat 8 ((x.ringNext.toNat + 1) % 64) }
  notify ((s.tickSeq).setCtx c x') (vendorNote 0xC0)

/-! ## Drive event log -/

/-- Logs one entry of the drive event log and posts its notification (R492 to R494). -/
def logFault (s : State) (cls scope : BitVec 8) (unit : BitVec 16) (outcome : BitVec 8)
    (d0 d1 : BitVec 64) : State :=
  let e : LogEnt := { stamp := stampOf s, seq := s.time.seq, cls := cls, scope := scope, unit := unit,
                      outcome := outcome, sup := BitVec.ofNat 8 s.sup.holder.val, epoch := s.sup.epoch,
                      d0 := d0, d1 := d1 }
  let full := decide (1024 ≤ s.log.ents.length)
  let l : Log := { ents := (if full then s.log.ents.drop 1 else s.log.ents) ++ [e]
                   ovf := if full then satInc s.log.ovf else s.log.ovf
                   next := BitVec.ofNat 16 ((s.log.next.toNat + 1) % 1024) }
  notify { (s.tickSeq) with log := l } (vendorNote 0xC2)

/-- Adds to a persistent error class (R396). -/
def countErr (s : State) (cls : Fin 24) (n : Nat) : State :=
  { s with media := { s.media with err := s.media.err.set cls (satAdd s.media.err[cls] n) } }

/-! ## Arrays of a partition -/

/-- The cluster of an active array (R19). -/
def clusterOf (a : ArrId) : Nat := a.val / 16

/-- Whether partition `p` owns the cluster. -/
def ownsCluster (s : State) (p : PartId) (k : Nat) : Bool :=
  (s.part p).defined && (s.part p).desc.clusters.getLsbD k

/-- Whether partition `p` owns the forager. -/
def ownsForager (s : State) (p : PartId) (n : ChanId) : Bool :=
  (s.part p).defined && (s.part p).desc.foragers.getLsbD n

/-- The partition's active arrays in ascending active number (R95, R299, R487). -/
def partArrs (s : State) (p : PartId) : List ArrId :=
  allArr.filter fun a => (s.arr a).inserv && ownsCluster s p (clusterOf a)

/-- Folds the arrays' records of context `c` into its fault record and clears them (R166). -/
def foldArrays (s : State) (c : CtxId) : State :=
  let mine := allArr.filter fun a => (s.arr a).exc.first.valid && (s.arr a).exc.ctx == BitVec.ofNat 6 c.val
  let rec' := mine.foldl (fun r a => frecFold r (s.arr a).exc.first) (s.ctx c).frec
  let s1 := mine.foldl (fun st a => st.setArr a { st.arr a with exc := .clear }) s
  s1.setCtx c { s1.ctx c with frec := rec' }

/-- The words of some arrays lose their poison: all of them have been written (R289). -/
def dropWords (s : State) (l : List ArrId) : State :=
  { s with tiers := { s.tiers with
      sramPoison := s.tiers.sramPoison.filter fun p =>
        match p with
        | .comb ph _ => !l.any fun a => (s.arr a).phys.toNat == ph.val
        | _ => true } }

/-- Clears the buffers and accumulators of the partition's arrays (R301). -/
def clearArrays (s : State) (p : PartId) : State :=
  dropWords ((partArrs s p).foldl (fun st a => st.setArr a { st.arr a with buf := [], acc := [] }) s) (partArrs s p)

/-- Whether the firmware runs: with 12 V present and out of reset. Only then does the drive work on its medium and its indexes (R453,
R516). -/
def firmwareOn (s : State) : Bool := s.rst.phase == .run && s.pins.main

/-! ## Blocks under reset -/

/-- Whether a block has been asked to idle or is being reset, and so takes no new request (R27, R459). -/
def blockBusy (s : State) (b : Nat) : Bool :=
  match s.rst.act with
  | .idling c => c.toNat == b
  | .resetting c => c.toNat == b
  | .none => false

/-- Whether a block is being reset, and so works on no request (R27, R459). -/
def blockDown (s : State) (b : Nat) : Bool :=
  match s.rst.act with
  | .resetting c => c.toNat == b
  | _ => false

/-- Whether a transfer of a partition's arrays to or from their save areas needs a block that `f` picks: one of their clusters, or
the stack of a save area. -/
def saveOn (s : State) (p : PartId) (f : Nat → Bool) : Bool :=
  s.rst.act != .none && (partArrs s p).any fun a => f (clusterOf a) || f (0x30 + clusterOf a / 3)

/-- Whether no such transfer can start: a block that it needs takes no new request (R27). -/
def saveBusy (s : State) (p : PartId) : Bool := saveOn s p (blockBusy s)

/-- Whether no clear of a partition's arrays can start: a cluster of theirs takes no new request (R27). -/
def clearBusy (s : State) (p : PartId) : Bool := s.rst.act != .none && (partArrs s p).any fun a => blockBusy s (clusterOf a)

/-- Whether a save or restore stands still: a block that it needs is being reset (R27). -/
def saveDown (s : State) (p : PartId) : Bool := saveOn s p (blockDown s)

/-! ## The scheduler -/

/-- Whether a context is resident and Runnable in partition `p` (R304). -/
def isCandidate (s : State) (p : PartId) (c : CtxId) : Bool :=
  let x := s.ctx c
  x.st == .runnable && x.seqr.isSome && x.part == p

/-- The successor that the scheduler chooses (R304). -/
def chooseSucc (s : State) (p : PartId) : Option CtxId :=
  let l := allCtx.filter (isCandidate s p)
  match (s.part p).parked with
  | some c => if c ∈ l then some c else minBy (fun c => (s.ctx c).lastRun.toNat) l
  | none => minBy (fun c => (s.ctx c).lastRun.toNat) l

/-- Whether a context of partition `p` is Running. -/
def anyRunning (s : State) (p : PartId) : Bool :=
  allCtx.any fun c => (s.ctx c).st == .running && (s.ctx c).part == p

/-- A partition whose arrays the scheduler gives to a context: its slice goes on where it has not ended, and otherwise begins
(R303). -/
def giveSlice (pt : Part) (c : CtxId) : Part :=
  { pt with slice := some (c, match pt.slice with
      | some q => if q.1 = c then q.2 else 0
      | none => 0) }

/-- The slice of a partition has ended (R303). -/
def noSlice (pt : Part) : Part := { pt with slice := none }

/-- The nanoseconds of its slice that a context had spent in Running before its last start (R303). -/
def sliceUsed (pt : Part) (c : CtxId) : Nat :=
  match pt.slice with
  | some q => if q.1 = c then q.2 else 0
  | none => 0

/-- The state with context `c` Running, in the slice that giving it the arrays begins or carries on (R84, R303). -/
def makeRunning (s : State) (c : CtxId) : State :=
  (s.setCtx c { s.ctx c with st := .running, sliceAt := s.time.now }).setPart (s.ctx c).part (giveSlice (s.part (s.ctx c).part) c)

/-- The scheduler gives the arrays of partition `p` to a successor, or starts the switch to it (R304, R305).
It acts only when no context of the partition runs and no switch is under way, and starts no switch that needs a block which takes no
new request (R27). -/
def dispatch (s : State) (p : PartId) : State :=
  let pt := s.part p
  if pt.sw ≠ .idle ∨ anyRunning s p = true ∨ pt.defined = false then s
  else
    match chooseSucc s p with
    | none => s
    | some c =>
      match pt.holder with
      | none =>
        if pt.parked = some c then if saveBusy s p then s else s.setPart p { pt with sw := .restore c }
        else if clearBusy s p then s else s.setPart p { pt with sw := .clear c }
      | some h =>
        if h = c then makeRunning s c
        else
          match pt.parked with
          | none => if saveBusy s p then s else s.setPart p { pt with sw := .save h c, saves := satInc pt.saves }
          | some _ => if (s.ctx h).st = .runnable ∧ (s.ctx h).seqr.isSome then makeRunning s h else s

/-- The Running context `c` leaves Running: its array records are folded (R166) and the time noted (R322). -/
def leaveRunning (s : State) (c : CtxId) : State :=
  let s1 := foldArrays s c
  s1.setCtx c { s1.ctx c with lastRun := s1.time.now }

/-- The context blocks on a wait; its slice ends at once (R84, R303). -/
def blockCtx (s : State) (c : CtxId) (w : Wait) : State :=
  let s1 := leaveRunning s c
  let x := { s1.ctx c with st := .blocked, wait := w, rang := false }
  dispatch ((s1.setCtx c x).setPart x.part (noSlice (s1.part x.part))) x.part

/-- A running context waits until a block under reset is back (R27, R84). DESIGN CHOICE: the wait is a Blocked one, as a wait on a
forager or a tier is (assumption 31). -/
def stallCtx (s : State) (c : CtxId) : State := if (s.ctx c).st = .running then blockCtx s c .busy else s

/-- The lowest free sequencer (R38). -/
def freeSeq (s : State) : Option (Fin 16) :=
  ((List.range 16).map (Fin.ofNat 16)).find? fun q => !allCtx.any fun c => (s.ctx c).seqr == some q

/-- Whether a context is Swapped and runnable (R312). -/
def swapRunnable (s : State) (c : CtxId) : Bool := (s.ctx c).st == .swapped && !(s.ctx c).swBlocked

/-- Whether a context is parked in its partition (R300). -/
def isParked (s : State) (c : CtxId) : Bool := (s.part (s.ctx c).part).parked == some c

/-- The runnable Swapped contexts in the order in which they are restored (R312). -/
def swapOrder (s : State) : List CtxId :=
  let l := sortBy (fun c => (s.ctx c).runAt.toNat) (allCtx.filter (swapRunnable s))
  l.filter (isParked s) ++ l.filter (fun c => !isParked s c)

/-- A Swapped context takes a sequencer and is Runnable (R310). -/
def restoreCtx (s : State) (c : CtxId) (q : Fin 16) : State :=
  dispatch (s.setCtx c { s.ctx c with st := .runnable, seqr := some q, starved := false }) (s.ctx c).part

/-- A context that faulted while it was Swapped takes a free sequencer, since a Faulted one holds one (R84). DESIGN
CHOICE: it comes before the Swapped contexts of R312, and waits where none is free (assumption 29). -/
def seatFaulted (s : State) : State :=
  (allCtx.filter fun c => (s.ctx c).st == .faulted && (s.ctx c).seqr.isNone).foldl (fun st c =>
    match freeSeq st with
    | some q => st.setCtx c { st.ctx c with seqr := some q }
    | none => st) s

/-- Free sequencers take runnable Swapped contexts (R312). -/
def fillSeqs (s : State) : State :=
  let s0 := seatFaulted s
  (swapOrder s0).foldl (fun st c =>
    match freeSeq st with
    | some q => if swapRunnable st c then restoreCtx st c q else st
    | none => st) s0

/-- The wait of a Blocked or Swapped context is satisfied (R84, R312). -/
def unblockCtx (s : State) (c : CtxId) : State :=
  let x := s.ctx c
  match x.st with
  | .blocked => dispatch (s.setCtx c { x with st := .runnable, wait := .none }) x.part
  | .swapped => fillSeqs (s.setCtx c { x with wait := .none, swBlocked := false, runAt := s.time.now })
  | _ => s

/-! ## Commands of a context's queue -/

/-- Whether the drive is in, or on its way into or out of, a non-operational power state (R425, R427). -/
def asleep (s : State) : Bool := decide (3 ≤ s.host.ps.toNat) || s.host.entry.isSome || s.host.exiting

/-- The commands that wait may be tried again, in the order in which they came: those that wait have come before those that
are still to be tried (R271, R419 to R421). -/
def wakeParked (s : State) : State :=
  if asleep s then s else { s with ready := s.parked ++ s.ready, parked := [] }

/-- Completes a step request with the given status, dwords and data; a hive step has no host command. Commands
that waited for the step are tried again. -/
def completeStep (s : State) (r : StepReq) (st : Status) (dw0 dw1 : BitVec 32) (data : Bytes) : State :=
  match r.src with
  | .host sq cid => wakeParked (complete s (hostHdr sq cid) st dw0 dw1 data)
  | .hive _ _ _ => wakeParked s

/-- Completes the queued steps of a context with a status and empties the queue (R82, R83). -/
def flushQueue (s : State) (c : CtxId) (st : Status) : State :=
  let x := s.ctx c
  let s1 := x.queue.foldl (fun acc r => completeStep acc r st 0 0 []) s
  s1.setCtx c { s1.ctx c with queue := [] }

/-- The bytes of the step's output range: written bytes, and unspecified ones elsewhere (R64, R80). -/
def houtBytes (x : Ctx) (n : Nat) : Bytes :=
  (List.range n).map fun i => (cellGet x.hout i).getD (Config.freeByte (x.houtFree + i))

/-! ## Teardown -/

/-- A switch that named context `c` ends or goes on without it (R319). -/
def switchWithout (pt : Part) (c : CtxId) : Switch :=
  match pt.sw with
  | .clear d => if d = c then .idle else .clear d
  | .save o d => if o = c then .clear d else if d = c then .idle else .save o d
  | .restore d => if d = c then .idle else .restore d
  | .idle => .idle

/-- The context lets go of its partition: holder, save areas, switch, slice and forager work (R319). -/
def releasePart (s : State) (c : CtxId) : State :=
  let p := (s.ctx c).part
  let pt := s.part p
  let pt' := { pt with
    holder := if pt.holder = some c then none else pt.holder
    parked := if pt.parked = some c then none else pt.parked
    sw := switchWithout pt c
    scans := pt.scans.filter (· ≠ c)
    slice := if (pt.slice.map fun q => q.1) = some c then none else pt.slice }
  s.setPart p pt'

/-- The answer a faulted step had placed is replaced by the absent frame (R133, R319, R352). -/
def withdrawSend (s : State) (c : CtxId) : State :=
  { s with fab := { s.fab with slots := s.fab.slots.map fun m => if m.ctx = c then { m with ready := false, body := [] } else m } }

/-- The range-lock entry of a context's PGRD that waits is freed (R419). -/
def dropLock (s : State) (c : CtxId) : State :=
  { s with host := { s.host with locks := s.host.locks.map fun l => if l.ctx = some c then { l with done := true } else l } }

/-- Ends the running step of a context, with its waits, prefetches, views and forager work (R319); a SEND whose slot has not
ended pins it on (R311). -/
def stopStep (s : State) (c : CtxId) : State :=
  let s1 := dropLock (withdrawSend (releasePart (foldArrays s c) c) c) c
  s1.setCtx c { s1.ctx c with wait := .none, prefs := [], views := [], durs := [], pinned := false, cur := none,
                              hout := [], sums := [], degTrap := false, degNow := false, numTrap := false, swBlocked := false, inStep := false,
                              rang := false, sending := none, starveAt := none }

/-- A context faults: the exception word, the teardown of R319, and the completion of R81, whose output range holds
unspecified values. Commands still queued complete as R82 states. The time it left Running changes only if it ran
(R322). -/
def faultCtx (s : State) (c : CtxId) (cause : Cause) (unit : BitVec 8) (dim : BitVec 4)
    (detail : BitVec 28) : State :=
  let x := s.ctx c
  let e : ExcWord := { cause := cause, unit := unit, dim := dim, detail := detail }
  let s1 := stopStep s c
  let s2 := s1.setCtx c { s1.ctx c with st := .faulted, exc := e, fpc := x.pc, lastRun := if x.st = .running then s.time.now else x.lastRun }
  let s3 := match x.cur with
    | some r => completeStep (s2.draw r.outLen) r .programFaulted ((excWordBits x.flags e).truncate 32) x.pc (freeBytes s2 r.outLen)
    | none => s2
  let s4 := flushQueue s3 c .sequence
  dispatch (if x.st = .swapped then seatFaulted s4 else s4) x.part

/-- A fault found by the sequencer (`UNIT` 0xE0, R69). -/
def faultSeq (s : State) (c : CtxId) (cause : Cause) (dim detail : Nat) : State :=
  faultCtx s c cause 0xE0 (BitVec.ofNat 4 dim) (BitVec.ofNat 28 detail)

/-! ## End of an instruction -/

/-- The loop test of R102 after the instruction at `pc` leaves the program counter at `pc` + 1. -/
def loopEnd (pc : BitVec 32) (x : Ctx) : List Frame → Ctx
  | .loop start len left idx :: rest =>
    if pc = start + len - 1 then
      if left - 1 ≠ 0 then
        let x' := match idx with
          | some i => sput x i (sget x i + 1)
          | none => x
        { x' with pc := start, stack := .loop start len (left - 1) idx :: rest }
      else loopEnd pc { x with stack := rest } rest
    else { x with pc := pc + 1, stack := .loop start len left idx :: rest }
  | st => { x with pc := pc + 1, stack := st }

/-- Moves on to the next instruction (R87, R102). -/
def advance (x : Ctx) : Ctx := loopEnd x.pc x x.stack

/-- Flags that are recorded for the first time in the step while their trap mask bit is 0 (R75). -/
def newEvents (x : Ctx) (fl : BitVec 6) : List Nat :=
  (List.range 4).filter fun i => fl.getLsbD i && !x.flags.getLsbD i && !x.trapMask.getLsbD i

/-- Records flags in the exception word and raises event 0x0004 for each first one (R70, R75). -/
def recordFlags (s : State) (c : CtxId) (fl : BitVec 6) : State :=
  let x := s.ctx c
  let s1 := s.setCtx c { x with flags := x.flags ||| fl }
  (newEvents x fl).foldl (fun st i => raiseEvent st c 0x0004 (BitVec.ofNat 64 i)) s1

/-- The flags of an instruction that trap (R71); `SHORT` never does (R72). -/
def trapping (x : Ctx) (fl : BitVec 6) : BitVec 6 := fl &&& (x.trapMask.truncate 5).zeroExtend 6

/-- The unit that a numeric trap reports: the one whose element the record holds (R69). -/
def trapUnit (x : Ctx) : BitVec 8 := if x.frec.valid then x.frec.src else 0xE0

/-- An instruction has completed and written its outputs: its flags are recorded, a trapping flag faults
the context, as does one that a coarse copy raised for it (R71, R127), and otherwise the program counter moves on (R102). -/
def finishInsn (s : State) (c : CtxId) (fl : BitVec 6) : State :=
  let s1 := recordFlags s c fl
  let x := s1.ctx c
  let t := trapping x fl
  let s2 := s1.setCtx c { x with degTrap := false, degNow := false, numTrap := false }
  if t &&& 15#6 ≠ 0 ∨ x.numTrap = true then
    let s3 := foldArrays s2 c
    faultCtx s3 c .numTrap (trapUnit (s3.ctx c)) 0 0
  else if t ≠ 0 ∨ x.degTrap = true then faultCtx s2 c .deadline 0xE1 0 0
  else s2.setCtx c (advance (s2.ctx c))

/-- The records that one instruction raised enter an array's record (R164). -/
def arrayRaise (s : State) (a : ArrId) (c : CtxId) (x : Exc) : State :=
  if x.fl = 0 then s
  else
    let r := s.arr a
    let old := if r.exc.ctx == BitVec.ofNat 6 c.val then r.exc else .clear
    s.setArr a { r with exc := { flags := old.flags ||| x.fl, ctx := BitVec.ofNat 6 c.val,
                                 first := frecMerge old.first (s.ctx c).pc (BitVec.ofNat 8 a.val) x } }

/-- The records of a unit other than an array go straight to the context's fault record (R165, R166). -/
def unitRaise (s : State) (c : CtxId) (unit : BitVec 8) (x : Exc) : State :=
  s.setCtx c { s.ctx c with frec := frecMerge (s.ctx c).frec (s.ctx c).pc unit x }

end Sys2Proof.Machine
end

