-- ==== Sys2Proof/Machine/Blocks.lean ====
section
/-! DEFINITION. What a logical block reads as (11, R369, R381, R382; 12, R399, R417), shared by the host's commands
and by PGRD. -/

namespace Sys2Proof.Machine

/-- A namespace by its ID (R408, R412). -/
def findNs (s : State) (nsid : Nat) : Option Ns := s.nvm.nss.find? fun n => n.nsid.toNat == nsid

/-- A block of zeros, which a deallocated block reads as (R399). -/
def zeroBlock : BlkVal := .data (List.replicate 4096 0)

/-- The flash block of a place. -/
def Place.blk (p : Place) : FlashBlk := { die := p.die, block := p.block }

/-- Whether the page at a place can no longer be read at any level (R369, R373). -/
def placeLost (s : State) (p : Place) : Bool := s.media.lostBlk.contains p.blk || s.media.lostPg.contains (p.blk, p.stripe)

/-- The channel of a die (R494). -/
def chanOf (d : Fin 1536) : ChanId := Fin.ofNat 32 (d.val / 48)

/-- The newest copy of a logical block with its write number: in the write cache, on the medium, or
deallocated (R381, R385). A copy on the medium brings its place. -/
structure Copy where
  dseq  : Nat
  val   : BlkVal
  place : Option Place
deriving DecidableEq, Repr

/-- Every copy of a logical block the drive knows of. -/
def copiesOf (s : State) (k : BlkKey) : List Copy :=
  (s.nvm.cache.filterMap fun e =>
    if e.nsid = k.nsid ∧ e.lba ≤ k.lba.toNat ∧ k.lba.toNat < e.lba + e.vals.length then
      (e.vals[k.lba.toNat - e.lba]?).map fun v => { dseq := e.dseq.toNat, val := v, place := none : Copy }
    else none) ++
  (s.nvm.blocks.filterMap fun b =>
    if b.key = k then some { dseq := b.dseq.toNat, val := b.val, place := some b.place : Copy } else none) ++
  (s.nvm.dealloc.filterMap fun d =>
    if d.nsid = k.nsid ∧ d.lba ≤ k.lba.toNat ∧ k.lba.toNat < d.lba + d.n then
      some { dseq := d.dseq.toNat, val := zeroBlock, place := none : Copy } else none)

/-- The newest of a list of copies, the first among equals. -/
def newestCopy : List Copy → Option Copy
  | [] => none
  | c :: t =>
    match newestCopy t with
    | none => some c
    | some d => if c.dseq < d.dseq then some d else some c

/-- What a block that nothing has written holds: zeros (R399), or what a deleted index left behind, which the
spec does not state. -/
def bareBlock (s : State) (k : BlkKey) : BlkVal :=
  match (findNs s k.nsid.toNat).bind fun n => n.residue with
  | none => zeroBlock
  | some o => .data ((List.range 4096).map fun j => Config.freeByte (o + k.lba.toNat * 4096 + j))

/-- What a logical block holds now. -/
def blkCopy (s : State) (k : BlkKey) : Copy :=
  match newestCopy (copiesOf s k) with
  | none => { dseq := 0, val := bareBlock s k, place := none }
  | some c =>
    match c.place with
    | some p => if placeLost s p then { c with val := .uncorrectable } else c
    | none => c

/-- The bytes of a readable logical block. -/
def blkBytes : BlkVal → Bytes
  | .data b => b
  | .uncorrectable => []

/-- The foragers of a list that are in service. -/
def inService (s : State) (l : List ChanId) : List ChanId := l.filter fun m => !(s.fgr m).retired

/-- The forager that carries a channel's scan work: itself, or the stand-in of a retired channel, the lowest-numbered
forager in service of its die that its partition owns, else the lowest such forager of the partition (R488, R508). -/
def standinOf (s : State) (n : ChanId) : ChanId :=
  if (s.fgr n).retired then
    let own := match allPart.find? fun p => ownsForager s p n with
      | some p => inService s (allChan.filter (ownsForager s p))
      | none => []
    ((own.find? fun m => m.val / 16 == n.val / 16) <|> own.head?).getD n
  else n

/-- Adds to the bytes read from a channel by SCAN and PGRD (R508). -/
def addBytes (s : State) (n : ChanId) (b : Nat) : State :=
  s.setFgr n { s.fgr n with bytes := satAdd (s.fgr n).bytes b }

/-- Whether the map names a programmed block: no copy on the medium and no deallocation is newer (R381, R385). -/
def mapped (s : State) (b : MBlk) : Bool :=
  !(s.nvm.blocks.any fun q => q.key == b.key && decide (b.dseq.toNat < q.dseq.toNat)) &&
  !(s.nvm.dealloc.any fun d => d.nsid == b.key.nsid && decide (d.lba ≤ b.key.lba.toNat) &&
    decide (b.key.lba.toNat < d.lba + d.n) && decide (b.dseq.toNat < d.dseq.toNat))

/-- The mapped logical blocks whose place a test picks. -/
def mappedIn (s : State) (f : Place → Bool) : List MBlk := s.nvm.blocks.filter fun q => f q.place && mapped s q

/-- The first logical address of a list of programmed blocks, zero where there is none (R493). -/
def firstLba (l : List MBlk) : BitVec 64 := ((minBy (fun q => q.key.lba.toNat) l).map fun q => q.key.lba).getD 0

/-! ## Regions -/

/-- The die at a position of a channel (R363, R494). -/
def dieAt (n : ChanId) (pos : Nat) : Fin 1536 := Fin.ofNat 1536 (n.val * 48 + pos)

/-- The superblock of a block (R364). -/
def sbOf (d : Fin 1536) (b : Fin 9375) : Nat := d.val % 48 * 9375 + b.val

/-- A superblock's rank, which runs through the die positions first. DESIGN CHOICE: the spec gives the regions their sizes at
manufacture and not their places; each takes the next ranks here, in the order of R365's table (assumption 15). -/
def sbRank (num : Nat) : Nat := num % 9375 * 48 + num / 9375

/-- The superblock of a rank. -/
def rankSb (r : Nat) : Nat := r % 48 * 9375 + r / 48

/-- The region of a superblock (R365). -/
def regionOf (s : State) (num : Nat) : Region :=
  match s.media.moved.find? fun p => p.1 == num with
  | some p => p.2
  | none =>
    let r := sbRank num
    if r < 2289 then .slc else if r < 5753 then .swap else if r < 6777 then .sys else .pool

/-- The superblocks of a region at one die position (R364, R365). -/
def regionAt (s : State) (pos : Nat) (g : Region) : Nat :=
  let upTo (n : Nat) : Nat := (n + 47 - pos) / 48
  let here := s.media.moved.filter fun p => p.1 / 9375 == pos
  match g with
  | .slc => upTo 2289 + (here.filter fun p => p.2 == .slc).length
  | .swap => upTo 5753 - upTo 2289 + (here.filter fun p => p.2 == .swap).length
  | .sys => upTo 6777 - upTo 5753 + (here.filter fun p => p.2 == .sys).length
  | .pool => 9375 - upTo 6777 - here.length

/-- The superblocks of the SLC write region (R365). -/
def slcSize (s : State) : Nat := 2289 + (s.media.moved.filter fun p => p.2 == .slc).length

/-! ## Decoding -/

/-- The tracked read-level offsets of a die, from its factory default, or from zero in safe mode (R441, R456). -/
def trackedOf (s : State) (d : Fin 1536) : List Int :=
  match s.tel.tracked.find? fun q => q.1 == d with
  | some q => q.2
  | none => if s.rst.safe then List.replicate 15 0 else ((s.otp.rl.find? fun q => q.1 == d).map fun q => q.2).getD (List.replicate 15 0)

/-- The user bias of a read level 1 to 15, at its place from 0, as it was read at the start of the sample period (R445, R447). -/
def biasOf (s : State) (i : Nat) : Int :=
  (BitVec.ofNat 8 (if i < 8 then bitsOf s.tel.bias0 (8 * i + 7) (8 * i) else bitsOf s.tel.bias1 (8 * (i - 8) + 7) (8 * (i - 8)))).toInt

/-- The read levels that decoding a page of a die starts from: the tracked offset and the user bias, saturated; zero in safe
mode (R441, R445, R456). -/
def startLevels (s : State) (d : Fin 1536) : List Int :=
  (List.range 15).map fun i => if s.rst.safe then 0 else max (-127) (min 127 ((trackedOf s d).getD i 0 + biasOf s i))

/-- The stripes of the pages programmed in a block, data and parity. -/
def stripesIn (s : State) (b : FlashBlk) : List Nat :=
  ((s.media.sbs.filter fun q => q.num == sbOf b.die b.block).flatMap fun q =>
    (q.taken.filter fun p => p.2 == chanOf b.die).map Prod.fst) ++
  (s.media.parity.filter fun p => p.sb == sbOf b.die b.block && p.chan == chanOf b.die).map fun p => p.stripe

/-- The superblock order when a superblock was opened, zero for one that is not in use. -/
def openedAt (s : State) (num : Nat) : Nat := ((s.media.sbs.find? fun q => q.num == num).map fun q => q.opened).getD 0

/-- Whether a die failed after superblock `num` had been opened and is still under rebuild (R372, R373). -/
def underRebuild (s : State) (num : Nat) (d : Fin 1536) : Bool :=
  s.media.rebuild.any fun r => r.1 == d && decide (openedAt s num ≤ r.2)

/-- The blocks in a page's superblock whose page of the same stripe is lost or on a die under rebuild: with one of them the stripe
cannot give the page back (R368, R371, R373). -/
def stripeLoss (s : State) (p : Place) : List FlashBlk :=
  (((List.range 32).map fun n => ({ die := dieAt (Fin.ofNat 32 n) (p.sb / 9375), block := p.block } : FlashBlk)).filter fun q =>
    q.die != p.die && (stripesIn s q).contains p.stripe &&
      (s.media.lostBlk.contains q || s.media.lostPg.contains (q, p.stripe) || underRebuild s p.sb q.die))

/-- What the cells of a page need, level 0 to 3, which the spec leaves to the flash (assumption 2). -/
def cellsAt (s : State) (p : Place) : Nat := Config.cellLevel s.free (startLevels s p.die) % 4

/-- A level at which a page is to be read, 3 or the lowest that the cells need, as the stripe allows: none reads a page that has been
lost, nor one that needs its stripe while another page of the stripe is lost (R368, R373). -/
def levelBy (s : State) (p : Place) (n : Nat) : Nat :=
  if placeLost s p || (n == 3 && !(stripeLoss s p).isEmpty) then 4 else n

/-- The level at which a page is read: by a rebuild from the stripe on a retired die, else as the cells need (R368, R372). -/
def levelAt (s : State) (p : Place) : Nat := levelBy s p (if s.media.dieRet.contains p.die then 3 else cellsAt s p)

/-- A codeword read at a level: the level is counted, a block that needed level 2 or higher is to be relocated, and of the
levels passed over some may have failed on the `CRC` (R368, R370, R396). -/
def noteLevel (s : State) (b : FlashBlk) (level k : Nat) : State :=
  let s1 := countErr (countErr s (Fin.ofNat 24 (level - 1)) (if level = 0 then 0 else 1)) 4 ((Config.freeWord (s.free + k)).toNat % (level + 1))
  { s1 with media := { s1.media with reloc := if level < 2 then s1.media.reloc else s1.media.reloc.filter (· != b) ++ [b] } }

/-- Blocks and pages that no level reads any more, logged with the logical range of the host's data among them (R373, R482,
R493). -/
def loseBlocks (s : State) (scope : BitVec 8) (unit : BitVec 16) (l : List FlashBlk) (pg : List (FlashBlk × Nat)) : State :=
  let l := (l.filter fun b => !s.media.lostBlk.contains b).eraseDups
  let pg := (pg.filter fun p => !s.media.lostPg.contains p).eraseDups
  let s1 := { s with media := { s.media with lostBlk := s.media.lostBlk ++ l, lostPg := s.media.lostPg ++ pg } }
  let data := mappedIn s fun p => placeLost s1 p && !placeLost s p
  if l = [] ∧ pg = [] then s1 else logFault s1 0x06 scope unit 2 (firstLba data) (BitVec.ofNat 64 data.length)

/-- One codeword read at a level (R329, R368, R370). Where the read finds that its stripe has lost a second page, that page and the
one it was read from are lost from then on (R373). -/
def readOne (s : State) (p : Place) (n : Nat) : State :=
  let s1 := ((noteLevel s p.blk n 1).draw 2).tickSeq
  if n = 4 ∧ placeLost s p = false then
    loseBlocks s1 7 (BitVec.ofNat 16 p.die.val) [] ((p.blk, p.stripe) :: (stripeLoss s p).map fun q => (q, p.stripe))
  else s1

/-- The codewords at a list of places are read, one after another (R368). -/
def readPlaces (s : State) (l : List Place) : State := l.foldl (fun st p => readOne st p (levelAt st p)) s

/-- `n` codewords read that the model does not place one by one, `lost` of which no level reads: what level each of the others needs
is free (R329, R368, R396, assumption 2). With the number that needed level 2 or higher. -/
def readCodes (s : State) (n lost : Nat) : State × Nat :=
  let f (k m : Nat) : Nat := (Config.freeWord (s.free + k)).toNat % (m + 1)
  let n0 := n - lost
  let a := f 0 n0
  let b := f 1 (n0 - a)
  let c := f 2 (n0 - a - b)
  let s1 := countErr (countErr (countErr (countErr s 0 a) 1 b) 2 c) 3 lost
  (((countErr s1 4 (f 3 (a + 2 * b + 3 * c + 4 * lost))).draw 4).tickSeqs n, b + c + lost)

/-- The ranks of the swap region, as first rank and length (R365). -/
def swapRanks : Nat × Nat := (2289, 3464)

/-- The ranks of all superblocks. -/
def allRanks : Nat × Nat := (0, 450000)

/-- A block of the superblocks of some ranks, where the drive's own layout decides which (assumption 2). -/
def someBlk (s : State) (k : Nat) (r : Nat × Nat) : FlashBlk :=
  let num := rankSb (r.1 + (Config.freeWord (s.free + k)).toNat % r.2)
  { die := dieAt (Fin.ofNat 32 (Config.freeWord (s.free + k + 1)).toNat) (num / 9375), block := Fin.ofNat 9375 num }

/-- `n` blocks whose codewords needed level 2 or higher are to be relocated (R370), where the model does not place the reads
one by one: the drive's own layout decides which (assumption 2). -/
def markBlks (s : State) (n : Nat) (r : Nat × Nat) : State :=
  ((List.range n).foldl (fun st k =>
    { st with media := { st.media with reloc := st.media.reloc.filter (· != someBlk s (2 * k) r) ++ [someBlk s (2 * k) r] } }) s).draw (2 * n)

/-! ## Room on the medium -/

/-- The channels with a block in service in a superblock, in ascending order (R364). -/
def sbChans (s : State) (num : Nat) : List ChanId :=
  allChan.filter fun n =>
    let d := dieAt n (num / 9375)
    !s.media.dieRet.contains d && !s.media.retBlk.contains { die := d, block := Fin.ofNat 9375 num }

/-- The place of the `k`-th block of 4,096 bytes of a run. -/
def IdxRun.at (r : IdxRun) (k : Nat) : Place := { r.place with stripe := r.stripes.getD (k / 4) 0, slot := k % 4 }

/-- A value of its own for every codeword of the medium, by which what the spec does not state of it is named. -/
def placeKey (p : Place) : Nat := ((p.sb * 2500 + p.stripe) * 32 + (chanOf p.die).val) * 4 + p.slot

/-- The `k`-th block of a run. What lies behind the last byte of the objects in their pages is not stated (assumption 2). -/
def IdxRun.block (r : IdxRun) (k : Nat) : Bytes :=
  let b := (r.bytes.drop (k * 4096)).take 4096
  b ++ (List.range (4096 - b.length)).map fun i => Config.freeByte (2 ^ 80 + placeKey (r.at k) * 4608 + i)

/-- Whether no level reads the `k`-th block of a run, or none did before it was moved (R369, R373). -/
def runLost (s : State) (r : IdxRun) (k : Nat) : Bool := r.lost.contains (k / 4) || placeLost s (r.at k)

/-- Bytes that SCAN or PGRD reads of a page at a level: from level 3 on all channels of its stripe that are in service give theirs
and count them (R368, R371, R372, R508). -/
def addPage (s : State) (p : Place) (level b : Nat) : State :=
  if 3 ≤ level then (sbChans s p.sb).foldl (fun st n => addBytes st n b) s else addBytes s (chanOf p.die) b

/-- The codewords at a list of places are read for SCAN or PGRD, whose bytes the channels count (R368, R508). -/
def readCounted (s : State) (l : List Place) : State :=
  l.foldl (fun st p => addPage (readOne st p (levelAt st p)) p (levelAt st p) 4096) s

/-- Pages per block (R363). -/
def sbPages (slc : Bool) : Nat := if slc then 625 else 2500

/-- Logical blocks that a superblock holds: one page of each stripe is parity (R364). -/
def sbCap (s : State) (sb : Sb) : Nat := ((sbChans s sb.num).length - 1) * 4 * sbPages sb.slc

/-- Logical blocks that the programmed pages of a superblock hold, those still to come in the page in hand left out. -/
def sbUsed (sb : Sb) : Nat := 4 * sb.taken.length - (4 - sb.filled)

/-- The superblock of a kind that takes programs now. -/
def openSbOf (s : State) (slc : Bool) : Option Sb := s.media.sbs.find? fun b => b.slc == slc && !b.closed

/-- Room in the open superblock of a kind. -/
def openRoom (s : State) (slc : Bool) : Nat :=
  match openSbOf s slc with
  | some b => sbCap s b - sbUsed b
  | none => 0

/-- Blocks that have left service in the superblocks of the SLC write region that are not in use (R364). DESIGN CHOICE: those of the
mirror's superblocks, which the model does not place, count here (assumption 15). -/
def slcGone (s : State) : Nat :=
  let used (num : Nat) : Bool := s.media.sbs.any fun b => b.num == num
  (s.media.dieRet.map fun d =>
    regionAt s (d.val % 48) .slc - (s.media.sbs.filter fun b => b.slc && b.num / 9375 == d.val % 48).length).sum +
  (s.media.retBlk.filter fun b => !s.media.dieRet.contains b.die && regionOf s (sbOf b.die b.block) == .slc &&
    !used (sbOf b.die b.block)).length

/-- Room in the SLC write region outside its mirror superblocks, in the blocks in service (R364, R376). -/
def slcRoom (s : State) : Nat := openRoom s true + (s.media.slcFree * (31 * 4 * 625) - slcGone s * (4 * 625))

/-- Logical blocks of writes in the cache (R417). -/
def cachedBlocks (s : State) : Nat := s.nvm.cache.foldl (fun n e => n + e.vals.length) 0

/-- Available Spare (R366). -/
def availSpare (s : State) : Nat := 100 * s.media.spare / Config.spare0

/-- Whether a write of `n` blocks would need a data-pool superblock that is not free: the SLC write region and the open superblock
of the pool together have no room for it and what is cached (R376, R380, R393). -/
def needsPool (s : State) (n : Nat) : Bool :=
  decide (slcRoom s + openRoom s false < cachedBlocks s + n) && s.media.poolFree == 0

/-- Collection runs in the foreground: below 32 free superblocks outside the last reserve (R380). -/
def foreground (s : State) : Bool := decide (s.media.poolFree < 32)

/-- Whether collection in the foreground holds a write of `n` blocks up: they enter the cache only as fast as reclaimed space
allows (R380). -/
def creditShort (s : State) (n : Nat) : Bool := foreground s && decide (s.media.credit < n)

/-- Whether a command that writes `n` blocks brings read-only operation about (R393). -/
def entersReadOnly (s : State) (n : Nat) : Bool := !s.nvm.readOnly && needsPool s n && availSpare s == 0

/-- Read-only operation begins (R393). -/
def goReadOnly (s : State) : State := { s with nvm := { s.nvm with readOnly := true } }

/-! ## Range locks -/

/-- Range-lock entries held (R431). -/
def locksUsed (s : State) : Nat := (s.host.locks.filter fun l => !l.done).length

/-- The entries fetched before the first that `own` accepts, of those still held (R419). -/
def locksBefore (own : Lock → Bool) : List Lock → List Lock
  | [] => []
  | l :: t => if own l && !l.done then [] else if l.done then locksBefore own t else l :: locksBefore own t

/-- Whether the range of an entry overlaps another's and one of the two writes (R419). -/
def lockMeets (l : Lock) (nsid : BitVec 32) (lba n : Nat) (wr : Bool) : Bool :=
  l.nsid == nsid && decide (l.lba < lba + n) && decide (lba < l.lba + l.n) && (l.wr || wr)

/-- An entry added, with `PEAK` (R431). -/
def addLock (s : State) (l : Lock) : State :=
  let s1 := { s with host := { s.host with locks := s.host.locks ++ [l] } }
  { s1 with host := { s1.host with peak := BitVec.ofNat 11 (max s1.host.peak.toNat (locksUsed s1)) } }

/-- Whether a command or a PGRD waits for another command. -/
def anyWaits (s : State) : Bool :=
  !s.parked.isEmpty || allCtx.any fun c => match (s.ctx c).wait with
    | .lock => true
    | _ => false

/-- The entries that `own` accepts are freed; while commands wait they stay marked until the release (R419). -/
def freeLocks (s : State) (own : Lock → Bool) : State :=
  let l := if anyWaits s then s.host.locks.map fun l => (if own l then { l with done := true } else l)
    else s.host.locks.filter fun l => !own l
  { s with host := { s.host with locks := l } }

/-- Takes a range-lock entry for `new`, unless `own` holds one already, and tells whether the command may start: no
earlier entry meets it (R419), and a table of 1,024 entries has room (R420). -/
def takeLock (s : State) (own : Lock → Bool) (new : Lock) : State × Bool :=
  let has := s.host.locks.any fun l => own l && !l.done
  if !has && decide (1024 ≤ locksUsed s) then (s, false)
  else
    let clash := (locksBefore own s.host.locks).any fun l => lockMeets l new.nsid new.lba new.n new.wr
    (if has then s else addLock s new, !clash)

end Sys2Proof.Machine
end

