-- ==== Sys2Proof/Machine/Operands.lean ====
section
/-! DEFINITION. The operands of Colord instructions: word fields (R89 to R91), tensor descriptors (R54 to
R59), where their elements and block scales lie, what a context may reach (R60, R261), reading and writing
elements (R139, R218), poison (R288, R289) and the checks at issue (R92, R93, R97). -/

namespace Sys2Proof.Machine

/-! ## Word fields -/

/-- Bits [hi:lo] of `MOD`, numbered as in the instruction word (96 to 111). -/
def modF (w : Insn) (hi lo : Nat) : Nat := bitsOf w.mod (hi - 96) (lo - 96)

/-- Bit `i` of `MOD`, numbered as in the instruction word. -/
def modB (w : Insn) (i : Nat) : Bool := bitOf w.mod (i - 96)

/-- An s-register number from the operand bits at `lo`. -/
def sreg (w : Insn) (lo : Nat) : Fin 64 := Fin.ofNat 64 (bitsOf w.opr (lo + 5) lo)

/-- A t-register number from the operand bits at `lo`. -/
def treg (w : Insn) (lo : Nat) : Fin 32 := Fin.ofNat 32 (bitsOf w.opr (lo + 4) lo)

/-- `TD` (R91). -/
def fTD (w : Insn) : Fin 32 := treg w 0
/-- `TA` (R91). -/
def fTA (w : Insn) : Fin 32 := treg w 5
/-- `TB` (R91). -/
def fTB (w : Insn) : Fin 32 := treg w 10
/-- `TC` (R91). -/
def fTC (w : Insn) : Fin 32 := treg w 15
/-- `SM` (R91). -/
def fSM (w : Insn) : Fin 64 := sreg w 20
/-- `SN` (R91). -/
def fSN (w : Insn) : Fin 64 := sreg w 26
/-- `SK` (R91). -/
def fSK (w : Insn) : Fin 64 := sreg w 32
/-- `SO` (R91). -/
def fSO (w : Insn) : Nat := bitsOf w.opr 43 38
/-- `SP1` (R91). -/
def fSP1 (w : Insn) : Fin 64 := sreg w 44
/-- `SP2` (R91). -/
def fSP2 (w : Insn) : Fin 64 := sreg w 50
/-- `SS` (R91). -/
def fSS (w : Insn) : Fin 64 := sreg w 56
/-- `AFIRST` (R91). -/
def fAF (w : Insn) : Nat := bitsOf w.opr 71 64
/-- `ANUM` (R91). -/
def fAN (w : Insn) : Nat := bitsOf w.opr 79 72
/-- `OFFS`, `MOD`[103] (R93). -/
def fOFFS (w : Insn) : Bool := modB w 103

/-- Bits [hi:lo] as a mask. -/
def maskBits (hi lo : Nat) : Nat := (2 ^ (hi + 1 - lo) - 1) * 2 ^ lo

/-- Operand masks of R91: TD, TA, TB, TC, SM, SN, SK, SP1, SP2, SS, AFIRST with ANUM. -/
def mTD : Nat := maskBits 4 0
/-- Mask of `TA`. -/
def mTA : Nat := maskBits 9 5
/-- Mask of `TB`. -/
def mTB : Nat := maskBits 14 10
/-- Mask of `TC`. -/
def mTC : Nat := maskBits 19 15
/-- Mask of `SM`. -/
def mSM : Nat := maskBits 25 20
/-- Mask of `SN`. -/
def mSN : Nat := maskBits 31 26
/-- Mask of `SK`. -/
def mSK : Nat := maskBits 37 32
/-- Mask of `SO`. -/
def mSO : Nat := maskBits 43 38
/-- Mask of `SP1`. -/
def mSP1 : Nat := maskBits 49 44
/-- Mask of `SP2`. -/
def mSP2 : Nat := maskBits 55 50
/-- Mask of `SS`. -/
def mSS : Nat := maskBits 61 56
/-- Mask of `AFIRST` and `ANUM`. -/
def mARR : Nat := maskBits 79 64

/-- Whether every operand bit outside a mask is zero (R92). -/
def oprWithin (w : Insn) (mask : Nat) : Bool := w.opr &&& ~~~(BitVec.ofNat 96 mask) == 0

/-- Whether every `MOD` bit outside [hi:lo] ranges given as a mask over bits 0 to 15 is zero (R92, R97). -/
def modWithin (w : Insn) (mask : Nat) : Bool := w.mod &&& ~~~(BitVec.ofNat 16 mask) == 0

/-- The mask of `SO` where `OFFS` is 1 (R93). -/
def mOFF (w : Insn) : Nat := if fOFFS w then mSO else 0

/-- Row offsets of A, B, D and C (R93). -/
structure Offs where
  a : Nat
  b : Nat
  d : Nat
  c : Nat
deriving DecidableEq, Repr

/-- The unsigned value of an s-register. -/
def sv (x : Ctx) (i : Fin 64) : Nat := (sget x i).toNat

/-- The row offsets of an instruction (R93). -/
def offsOf (x : Ctx) (w : Insn) : Offs :=
  if fOFFS w then
    { a := sv x (Fin.ofNat 64 (fSO w)), b := sv x (Fin.ofNat 64 (fSO w + 1)),
      d := sv x (Fin.ofNat 64 (fSO w + 2)), c := sv x (Fin.ofNat 64 (fSO w + 3)) }
  else { a := 0, b := 0, d := 0, c := 0 }

/-! ## Descriptors -/

/-- Address spaces (R57). -/
inductive Space where
  | dev | buf | acc | hin | hout | const | workn | workf
deriving DecidableEq, Repr

/-- A decoded tensor descriptor (R54, R55). Extents are counts and strides are bytes. -/
structure Desc where
  base    : Nat
  space   : Space
  fmt     : Fmt
  rank    : Nat
  smode   : Nat
  learned : Bool
  rdonly  : Bool
  tid     : BitVec 32
  soff    : Nat
  e0      : Nat
  e1      : Nat
  e2      : Nat
  e3      : Nat
  s1      : Nat
  s2      : Nat
  s3      : Nat
deriving DecidableEq, Repr

/-- The space a code of R57 names. -/
def spaceOf : Nat → Option Space
  | 0 => some .dev | 1 => some .buf | 2 => some .acc | 3 => some .hin | 4 => some .hout
  | 5 => some .const | 6 => some .workn | 7 => some .workf | _ => none

/-- The byte stride that a stride field encodes (R55). -/
def strideOf (v : Nat) : Nat := v % 4096 * 16 * 2 ^ (v / 4096)

/-- A descriptor read from a t-register; none for a reserved space, format or block-scale mode. -/
def descOf (v : BitVec 256) : Option Desc :=
  match spaceOf (bitsOf v 51 48), fmtOf (bitsOf v 55 52) with
  | some sp, some f =>
    if bitsOf v 59 58 = 3 then none
    else some {
      base := bitsOf v 47 0, space := sp, fmt := f, rank := bitsOf v 57 56 + 1,
      smode := bitsOf v 59 58, learned := bitOf v 60, rdonly := bitOf v 61,
      tid := v.extractLsb' 64 32, soff := bitsOf v 127 96,
      e0 := bitsOf v 143 128 + 1, e1 := bitsOf v 167 144 + 1, e2 := bitsOf v 191 168 + 1,
      e3 := bitsOf v 207 192 + 1, s1 := strideOf (bitsOf v 223 208),
      s2 := strideOf (bitsOf v 239 224), s3 := strideOf (bitsOf v 255 240) }
  | _, _ => none

/-- Planned rows (R94). -/
def Desc.rows (d : Desc) : Nat := d.e1 * d.e2 * d.e3

/-- Planned elements (R119). -/
def Desc.elems (d : Desc) : Nat := d.e0 * d.rows

/-- Bits of one element in place: 32 in `ACC` whatever the format (R111). -/
def Desc.bits (d : Desc) : Nat := if d.space = .acc then 32 else fmtBits d.fmt

/-- Bytes of the first `n` elements of a row (R139). -/
def Desc.span (d : Desc) (n : Nat) : Nat := ceilDiv (n * d.bits) 8

/-- Byte offset of the row `r`, dimension 1 innermost (R55, R94). -/
def Desc.rowOff (d : Desc) (r : Nat) : Nat :=
  d.base + r / (d.e1 * d.e2) * d.s3 + r / d.e1 % d.e2 * d.s2 + r % d.e1 * d.s1

/-- Block scales of a row (R59). -/
def Desc.nblk (d : Desc) : Nat := ceilDiv d.e0 32

/-- Width of a block scale in bytes (R59). -/
def Desc.sw (d : Desc) : Nat := if d.smode = 1 then 1 else if d.smode = 2 then 4 else 0

/-- Byte offset of the scale of block `b` of row `r` (R59). -/
def Desc.scaleOff (d : Desc) (r b : Nat) : Nat := d.base + d.soff + (r * d.nblk + b) * d.sw

/-- Bytes of the scale array (R59). -/
def Desc.scaleBytes (d : Desc) : Nat := d.rows * d.nblk * d.sw

/-- The first byte offset after the tensor's last element. -/
def Desc.dataEnd (d : Desc) : Nat :=
  d.base + (d.e3 - 1) * d.s3 + (d.e2 - 1) * d.s2 + (d.e1 - 1) * d.s1 + d.span d.e0

/-- The first byte offset after the tensor's last element or scale. -/
def Desc.fin (d : Desc) : Nat :=
  if d.sw = 0 then d.dataEnd else max d.dataEnd (d.base + d.soff + d.scaleBytes)

/-- Byte offset of the parameter σ of block `b` of row `r` (R175). -/
def Desc.sigmaOff (d : Desc) (r b : Nat) : Nat :=
  d.base + d.soff + roundUp d.scaleBytes 16 + (r * d.nblk + b) * 2

/-- The first byte offset after the parameter array (R175, R177). -/
def Desc.sigmaEnd (d : Desc) : Nat := d.base + d.soff + roundUp d.scaleBytes 16 + d.rows * d.nblk * 2

/-- Element index of the counter hash (R119). -/
def Desc.idx (d : Desc) (r i : Nat) : Nat := r * d.e0 + i

/-- Whether the dimensions, taken from the smallest stride, fail to nest: a stride lies below the span of those before. -/
def overlapGo : Nat → List (Nat × Nat) → Bool
  | _, [] => false
  | span, (st, e) :: t => if st < span then true else overlapGo (st * (e - 1) + span) t

/-- Whether two rows that differ by `x` bytes in the dimensions before, and by any steps within the extents of the
listed ones, start less than `span` bytes apart; `moved` says whether they differ yet. In the last dimension only the
steps nearest to closing the distance need be tried. -/
def rowsMeet (span : Nat) (x : Int) (moved : Bool) : List (Nat × Nat) → Bool
  | [] => moved && decide (x.natAbs < span)
  | [(st, e)] =>
    if moved then
      let step (v : Int) : Int := min (max v (1 - (e : Int))) ((e : Int) - 1)
      let q := if st = 0 then 0 else -x / (st : Int)
      decide ((x + step q * st).natAbs < span) || decide ((x + step (q + 1) * st).natAbs < span)
    else decide (st < span)
  | (st, e) :: t => (List.range (2 * e - 1)).any fun i =>
      rowsMeet span (x + ((i : Int) - ((e : Int) - 1)) * st) (moved || decide (i + 1 ≠ e)) t

/-- Whether two distinct elements within the planned extents share bytes (R214). Rows whose strides nest cannot; for
others the distances between rows decide. -/
def Desc.overlaps (d : Desc) : Bool :=
  let dims := sortBy (fun p => p.1) ([(d.s1, d.e1), (d.s2, d.e2), (d.s3, d.e3)].filter fun p => decide (1 < p.2))
  overlapGo (d.span d.e0) dims && rowsMeet (d.span d.e0) 0 false dims

/-! ## Where bytes lie -/

/-- The place of one byte of an operand. -/
inductive Pos where
  | dev (a : Nat)
  | buf (a : ArrId) (o : Nat)
  | acc (a : ArrId) (o : Nat)
  | hin (o : Nat)
  | hout (o : Nat)
deriving DecidableEq, Repr

/-- The place of byte offset `o` of a space for context `x`; `a` is the array whose memories are meant (R57). -/
def posOf (s : State) (x : Ctx) (sp : Space) (a : ArrId) (o : Nat) : Pos :=
  match sp with
  | .dev => .dev o
  | .buf => .buf a o
  | .acc => .acc a o
  | .hin => .hin o
  | .hout => .hout o
  | .const => .dev ((s.slot x.slot).constBase + o)
  | .workn => .dev (x.wnBase + o)
  | .workf => .dev (x.wfBase + o)

/-- The generation record as its 64 bytes (R224). -/
def genBytes (g : Gen) : Bytes :=
  toLe 4 g.gen.toNat ++ toLe 4 g.ncent.toNat ++ toLe 8 g.sbase.toNat ++ toLe 8 g.centAddr.toNat ++
  toLe 8 g.graphAddr.toNat ++ toLe 8 g.fwdAddr.toNat ++ toLe 4 g.fwd.length ++ toLe 4 g.centSoff.toNat ++
  toLe 8 (g.lists.foldl (fun n l => n + l.ents.length) 0) ++ toLe 1 (b2n g.valid) ++ toLe 7 0

/-- Brood entries above `SBASE` of the current generation (R223). -/
def Idx.broodCount (x : Idx) : Nat := (x.brood.filter fun e => decide (x.gens[x.cur].sbase.toNat < e.seq.toNat)).length

/-- The index header as its 256 bytes (R223); an entry with no index behind it is zero. -/
def idxHeader (x : Idx) : Bytes :=
  if x.live then
    toLe 1 1 ++ toLe 1 x.metric.toNat ++ toLe 1 x.codeFmt.toNat ++ toLe 1 x.centFmt.toNat ++
    toLe 2 x.dim.toNat ++ toLe 1 x.attrWidth.toNat ++ toLe 1 x.cur.val ++ toLe 4 x.chanMask.toNat ++
    toLe 4 x.ncentCap.toNat ++ toLe 4 x.broodCap.toNat ++ toLe 4 x.broodThresh.toNat ++
    toLe 4 x.broodCount ++ toLe 4 x.nsid.toNat ++ toLe 8 x.head.toNat ++ toLe 8 x.durable.toNat ++
    toLe 8 x.attrAddr.toNat ++ toLe 4 x.attrRows.toNat ++ toLe 4 0 ++
    genBytes x.gens[(0 : Fin 2)] ++ genBytes x.gens[(1 : Fin 2)] ++ toLe 64 0
  else toLe 256 0

/-- One byte of device memory as a read gives it: the index header table is the drive's own (R222). -/
def devByte (s : State) (a : Nat) : Byte :=
  if Config.indexTableBase ≤ a ∧ a < Config.tierFBase then
    (idxHeader (s.index (Fin.ofNat 64 ((a - Config.indexTableBase) / 256)))).getD ((a - Config.indexTableBase) % 256) 0
  else memGet s.tiers.mem a

/-- One byte of an operand. A byte of the output range that the step has not written is unspecified. -/
def readPos (s : State) (x : Ctx) : Pos → Byte
  | .dev a => devByte s a
  | .buf a o => memGet (s.arr a).buf o
  | .acc a o => memGet (s.arr a).acc o
  | .hin o =>
    match x.cur with
    | some r => r.hin.getD o 0
    | none => 0
  | .hout o => (cellGet x.hout o).getD (Config.freeByte (x.houtFree + o))

/-- `n` bytes of a space from offset `o`. -/
def readN (s : State) (x : Ctx) (sp : Space) (a : ArrId) (o n : Nat) : Bytes :=
  (List.range n).map fun i => readPos s x (posOf s x sp a (o + i))

/-- The code of element `i` of row `r` (R139); 32 bits in `ACC`. -/
def rdCode (s : State) (x : Ctx) (d : Desc) (a : ArrId) (r i : Nat) : Nat :=
  let o := d.rowOff r
  if d.bits = 4 then
    let b := (readPos s x (posOf s x d.space a (o + i / 2))).toNat
    if i % 2 = 0 then b % 16 else b / 16
  else leNat (readN s x d.space a (o + i * (d.bits / 8)) (d.bits / 8))

/-- The stored scale of block `b` of row `r` (R59); zero without block scales. -/
def rdScale (s : State) (x : Ctx) (d : Desc) (a : ArrId) (r b : Nat) : Nat :=
  leNat (readN s x d.space a (d.scaleOff r b) d.sw)

/-! ## What a context may reach -/

/-- A range of device addresses: first and one past the last. -/
abbrev Range := Nat × Nat

/-- The working areas of a context. -/
def workRanges (x : Ctx) : List Range := [(x.wnBase, x.wnBase + x.wnSize), (x.wfBase, x.wfBase + x.wfSize)]

/-- The allocated lengths of the lease windows a context holds (R272). -/
def leaseRanges (s : State) (c : CtxId) : List Range :=
  (s.fab.leases.filter fun l => l.granted && l.ctx == some c).map fun l =>
    (Config.tierXBase + l.window * 2 ^ 40, Config.tierXBase + l.window * 2 ^ 40 + l.pages * Config.pageBytes)

/-- Bytes of one element of the centroid format (R223). -/
def centElem (x : Idx) : Nat := if x.centFmt = 7 then 2 else 1

/-- Bytes of a centroid bank, block scales included (R225). -/
def centBankBytes (x : Idx) : Nat :=
  x.ncentCap.toNat * x.dim.toNat * centElem x +
    (if x.centFmt = 7 then 0 else x.ncentCap.toNat * (x.dim.toNat / 32) * 4)

/-- The centroid banks, graph banks, forward tables and attribute table of a live index (R261). -/
def idxRanges (x : Idx) : List Range :=
  if x.live then
    [(x.attrAddr.toNat, x.attrAddr.toNat + x.attrRows.toNat * x.attrWidth.toNat)] ++
    [x.gens[(0 : Fin 2)], x.gens[(1 : Fin 2)]].flatMap fun g =>
      [(g.centAddr.toNat, g.centAddr.toNat + centBankBytes x),
       (g.graphAddr.toNat, g.graphAddr.toNat + x.ncentCap.toNat * 256),
       (g.fwdAddr.toNat, g.fwdAddr.toNat + g.fwd.length * 16)]
  else []

/-- The device ranges a context may write (R60, R261). -/
def writeRanges (s : State) (c : CtxId) : List Range := workRanges (s.ctx c) ++ leaseRanges s c

/-- Bytes of the constants section of a slot's image (R47). -/
def constSize (k : Slot) : Nat := fieldAt k.img 0x1C 4

/-- The device ranges a context may read (R261). -/
def readRanges (s : State) (c : CtxId) : List Range :=
  let k := s.slot (s.ctx c).slot
  writeRanges s c ++ [(k.constBase, k.constBase + constSize k), (Config.indexTableBase, Config.tierFBase)] ++
    allIdx.flatMap fun i => idxRanges (s.index i)

/-- Whether one byte address lies in some range. -/
def inRanges (l : List Range) (a : Nat) : Bool := l.any fun r => decide (r.1 ≤ a) && decide (a < r.2)

/-- Whether `n` bytes from `a` all lie in the ranges. -/
def coverGo (l : List Range) : Nat → Nat → Bool
  | _, 0 => true
  | a, n + 1 => inRanges l a && coverGo l (a + 1) n

/-- Whether `n` bytes from `a` lie in one range, or each in some range. -/
def covered (l : List Range) (a n : Nat) : Bool :=
  n == 0 || l.any (fun r => decide (r.1 ≤ a) && decide (a + n ≤ r.2)) || coverGo l a n

/-! ## Segments -/

/-- A run of bytes that an instruction reads or writes through t-register `t`. -/
structure Seg where
  t   : Fin 32
  sp  : Space
  arr : ArrId
  off : Nat
  len : Nat
deriving DecidableEq, Repr

/-- The segment of the first `n` elements of row `r`. -/
def rowSeg (t : Fin 32) (d : Desc) (a : ArrId) (r n : Nat) : Seg :=
  { t := t, sp := d.space, arr := a, off := d.rowOff r, len := d.span n }

/-- The segment of the scales of the first `nb` blocks of row `r`. -/
def scaleSeg (t : Fin 32) (d : Desc) (a : ArrId) (r nb : Nat) : Seg :=
  { t := t, sp := d.space, arr := a, off := d.scaleOff r 0, len := nb * d.sw }

/-- The segments of rows `r0` to `r0 + m − 1`, `n` elements each, with the scales of their blocks. An
operand in `ACC` has none (R124). -/
def rowsSegs (t : Fin 32) (d : Desc) (a : ArrId) (r0 m n : Nat) : List Seg :=
  if n = 0 then []
  else (List.range m).flatMap fun i =>
    if d.sw = 0 ∨ d.space = .acc then [rowSeg t d a (r0 + i) n]
    else [rowSeg t d a (r0 + i) n, scaleSeg t d a (r0 + i) (ceilDiv n 32)]

/-- The segments of scale blocks `bs` of a row. -/
def scaleSegs (t : Fin 32) (d : Desc) (a : ArrId) (r : Nat) (bs : List Nat) : List Seg :=
  if d.sw = 0 then [] else bs.map fun b => { t := t, sp := d.space, arr := a, off := d.scaleOff r b, len := d.sw }

/-- Whether a segment stays within the bound that its space is checked against at each access (R57, R261). -/
def segInBound (s : State) (c : CtxId) (wr : Bool) (g : Seg) : Bool :=
  match g.sp with
  | .dev => covered (if wr then writeRanges s c else readRanges s c) g.off g.len
  | .hin =>
    match (s.ctx c).cur with
    | some r => decide (g.off + g.len ≤ r.hin.length)
    | none => false
  | .hout =>
    match (s.ctx c).cur with
    | some r => decide (g.off + g.len ≤ r.outLen)
    | none => false
  | _ => true

/-- The device range of a segment; none outside device memory. -/
def segDev (s : State) (x : Ctx) (g : Seg) : Option Range :=
  match posOf s x g.sp g.arr g.off with
  | .dev a => if g.len = 0 then none else some (a, a + g.len)
  | _ => none

/-- Byte offset of an array memory in the array's SRAM: the buffer, then the accumulator memory (R57, R285). -/
def sramWord (acc : Bool) (o : Nat) : Nat := (if acc then Config.bufBytes + o else o) / 8 * 8

/-- Whether some byte of a segment lies in a poisoned unit (R287). -/
def segPoison (s : State) (x : Ctx) (g : Seg) : Bool :=
  match posOf s x g.sp g.arr g.off with
  | .dev a => s.tiers.poison.any fun p => decide (p * 2048 < a + g.len) && decide (a < (p + 1) * 2048)
  | .buf a o => s.tiers.sramPoison.any fun p =>
      match p with
      | .comb ph w => decide (ph.val = (s.arr a).phys.toNat) && decide (w < sramWord false o + g.len + o % 8) &&
          decide (sramWord false o ≤ w) && decide (0 < g.len)
      | _ => false
  | .acc a o => s.tiers.sramPoison.any fun p =>
      match p with
      | .comb ph w => decide (ph.val = (s.arr a).phys.toNat) && decide (w < sramWord true o + g.len + o % 8) &&
          decide (sramWord true o ≤ w) && decide (0 < g.len)
      | _ => false
  | _ => false

/-- The unit that reports poison consumed from a segment: the array, or the tier controller (R69). -/
def segUnit (g : Seg) : BitVec 8 :=
  match g.sp with
  | .buf => BitVec.ofNat 8 g.arr.val
  | .acc => BitVec.ofNat 8 g.arr.val
  | _ => 0xE1

/-! ## Writing -/

/-- Writes one byte in place. The input data and the constants are never written (R60). -/
def putPos (s : State) (c : CtxId) (p : Pos) (b : Byte) : State :=
  match p with
  | .dev a => { s with tiers := { s.tiers with mem := memPut s.tiers.mem a b } }
  | .buf a o => s.setArr a { s.arr a with buf := memPut (s.arr a).buf o b }
  | .acc a o => s.setArr a { s.arr a with acc := memPut (s.arr a).acc o b }
  | .hin _ => s
  | .hout o => s.setCtx c { s.ctx c with hout := cellPut (s.ctx c).hout o b }

/-- Writes bytes upwards from an offset of a space. -/
def putN (s : State) (c : CtxId) (sp : Space) (a : ArrId) : Nat → Bytes → State
  | _, [] => s
  | o, b :: t => putN (putPos s c (posOf s (s.ctx c) sp a o) b) c sp a (o + 1) t

/-- Writes the code of element `i` of row `r`: a 4-bit element leaves its other nibble, but the last element
of an odd row clears it (R139, R218). -/
def wrCode (s : State) (c : CtxId) (d : Desc) (a : ArrId) (r i v : Nat) : State :=
  let o := d.rowOff r
  if d.bits = 4 then
    let p := posOf s (s.ctx c) d.space a (o + i / 2)
    let old := (readPos s (s.ctx c) p).toNat
    let b := if i % 2 = 1 then old % 16 + v % 16 * 16
             else if i + 1 = d.e0 then v % 16 else old / 16 * 16 + v % 16
    putPos s c p (BitVec.ofNat 8 b)
  else putN s c d.space a (o + i * (d.bits / 8)) (toLe (d.bits / 8) v)

/-- Writes the stored scale of block `b` of row `r`. -/
def wrScale (s : State) (c : CtxId) (d : Desc) (a : ArrId) (r b v : Nat) : State :=
  putN s c d.space a (d.scaleOff r b) (toLe d.sw v)

/-- Whether a range covers a poisoned unit of DRAM (R288, R291). -/
def rangePoison (s : State) (r : Range) : Bool := s.tiers.poison.any fun q => decide (q * 2048 < r.2) && decide (r.1 < (q + 1) * 2048)

/-- The code pages that the ranges touch (R277). -/
def touchesPage (l : List Range) (p : Nat) : Bool :=
  l.any fun r => decide (p * 2048 < r.2) && decide (r.1 < (p + 1) * 2048)

/-- Before a write to device ranges: the code pages it touches stop being equal to their flash source (R277,
R278). -/
def preWrite (s : State) (l : List Range) : State :=
  let hit := s.tiers.source.filter (touchesPage l)
  { s with tiers := { s.tiers with
      source := s.tiers.source.filter fun p => !touchesPage l p
      stale := hit.map (fun p => (p, memGets s.tiers.mem (p * 2048) 2048)) ++ s.tiers.stale } }

/-- After a write to device ranges: a code page written whole loses its poison (R289). -/
def settleDev (s : State) (l : List Range) : State :=
  { s with tiers := { s.tiers with
      poison := s.tiers.poison.filter fun p => !(touchesPage l p && covered l (p * 2048) 2048) } }

/-- The SRAM words that the segments write whole lose their poison (R289). -/
def settleSram (s : State) (gs : List Seg) : State :=
  let whole (ph : Fin 200) (w : Nat) (g : Seg) : Bool :=
    decide ((s.arr g.arr).phys.toNat = ph.val) &&
      match g.sp with
      | .buf => decide (g.off ≤ w) && decide (w + 8 ≤ g.off + g.len)
      | .acc => decide (Config.bufBytes + g.off ≤ w) && decide (w + 8 ≤ Config.bufBytes + g.off + g.len)
      | _ => false
  { s with tiers := { s.tiers with
      sramPoison := s.tiers.sramPoison.filter fun p =>
        match p with
        | .comb ph w => !gs.any (whole ph w)
        | _ => true } }

/-- The device ranges of a list of segments. -/
def devRanges (s : State) (x : Ctx) (gs : List Seg) : List Range := gs.filterMap (segDev s x)

/-- The destination segments of an instruction that faulted during execution hold unspecified values (R99). -/
def scramble (s : State) (c : CtxId) (gs : List Seg) : State :=
  gs.foldl (fun st g => (putN st c g.sp g.arr g.off (freeBytes st g.len)).draw g.len) s

/-! ## Checks at issue -/

/-- A failed check: its cause, `DIM` and `DETAIL` (R69, R97). -/
structure Iss where
  cause  : Cause
  dim    : Nat
  detail : Nat
deriving DecidableEq, Repr

/-- A failed check without `DIM` or `DETAIL`. -/
def iss (c : Cause) : Iss := { cause := c, dim := 0, detail := 0 }

/-- A check that fails when the condition holds. -/
def failIf (b : Bool) (f : Iss) : List Iss := if b then [f] else []

/-- The failed check with the lowest cause code, the earliest among equals (R74, R97). -/
def firstIss : List Iss → Option Iss := minBy fun f => causeCode f.cause

/-- The checks that every instruction shares: class and operand layout (R86, R92). -/
def layoutIss (w : Insn) (cls : Nat) (omask mmask : Nat) : List Iss :=
  failIf (w.cls.toNat != cls || !oprWithin w omask || !modWithin w mmask) (iss .rsvdField)

/-- `SO` above 60 where `OFFS` is 1 (R93). -/
def offsIss (w : Insn) : List Iss := failIf (fOFFS w && decide (60 < fSO w)) (iss .rsvdField)

/-- The predicate value of an instruction (R87). -/
def predVal (x : Ctx) (w : Insn) : BitVec 64 :=
  let v := pget x (Fin.ofNat 8 w.pred.toNat)
  if w.pinv then ~~~v else v

/-- Whether lane `m` acts (R87). -/
def laneActs (x : Ctx) (w : Insn) (m : Nat) : Bool := (predVal x w).getLsbD (m % 64)

/-- Whether a whole instruction executes (R87). -/
def executes (x : Ctx) (w : Insn) : Bool := predVal x w != 0

/-- A write through a descriptor that R60 forbids whatever the address. DEDUCED: the check stands at issue (R97), so it
also faults where a run-time extent of zero would leave nothing to write (R100; assumption 29). -/
def rdonlyIss (t : Fin 32) (d : Desc) : List Iss :=
  failIf (d.rdonly || d.space == .const || d.space == .hin) { cause := .addrRange, dim := 0, detail := t.val }

/-- Writes through `DEV` outside the context's own working areas (R60). -/
def devWriteIss (s : State) (c : CtxId) (gs : List Seg) : List Iss :=
  match gs.find? fun g => g.sp == .dev && !segInBound s c true g with
  | some g => [{ cause := .addrRange, dim := 0, detail := g.t.val }]
  | none => []

/-- A run-time extent above a planned one (R97, R221). -/
def shapeIss (dim req plan : Nat) : List Iss := failIf (decide (plan < req)) { cause := .shapeOver, dim := dim, detail := req }

/-- An offset plus a run-time extent beyond planned rows (R97). -/
def rowsIss (t : Fin 32) (need : Nat) (d : Desc) : List Iss :=
  failIf (decide (d.rows < need)) { cause := .descRange, dim := 0, detail := t.val }

/-- Bytes of code of the context's image (R47). -/
def codeSize (s : State) (x : Ctx) : Nat := fieldAt (s.slot x.slot).img 0x14 4

/-- Whether the program counter lies in the code (R45). -/
def pcInCode (s : State) (x : Ctx) : Bool := decide (x.pc.toNat < codeSize s x / 16)

/-- An instruction issues on context `c`: it acts only while the context runs, faults when its index lies
beyond the code (R45) or a check fails (R97), moves on when its predicate stops it (R87, R98), and otherwise
runs its body. `lanes` is true for the instructions that act per lane. -/
def issue (s : State) (c : CtxId) (w : Insn) (lanes : Bool) (chk : List Iss) (body : State → State) : State :=
  let x := s.ctx c
  if x.st ≠ .running then s
  else if !pcInCode s x then faultSeq s c .pcRange 0 0
  else
    match firstIss chk with
    | some f => faultSeq s c f.cause f.dim f.detail
    | none => if !lanes && !executes x w then finishInsn s c 0 else body s

/-- The first fault of an access during execution: a segment beyond its bound (R57, R261). -/
def boundFault (s : State) (c : CtxId) (rd wr : List Seg) : Option (Fin 32) :=
  match rd.find? fun g => !segInBound s c false g with
  | some g => some g.t
  | none =>
    match wr.find? fun g => !segInBound s c true g with
    | some g => some g.t
    | none => none

end Sys2Proof.Machine
end

