-- ==== Sys2Proof/Machine/Ecc.lean ====
section
/-! DEFINITION. Errors of the memories (08, R284 to R287; 11, R369, R396; 15, R494): the correctable-error tables, and a code
page that neither code corrects. -/

namespace Sys2Proof.Machine

/-! ## Places -/

/-- The device range of the brood entry with a sequence number: the entries take the places of the list's pages in turn.
DESIGN CHOICE: the spec gives no place (assumption 14). -/
def broodRange (x : Idx) (seq : BitVec 64) : Range :=
  let n := 32 + 2 * x.dim.toNat
  let a := x.broodAddr.toNat + (seq.toNat - 1) % x.broodCap.toNat * n
  (a, a + n)

/-- The pool page that holds a code page. -/
def poolPage (s : State) (page : Nat) : Option Page := s.tiers.pages.find? fun p => p.no == page / 1024

/-- Whether a code page has a flash source: PGRD filled all of it, or it belongs to an object of an index, whose brood
entries have one once they are mirrored (R277, R253). -/
def hasSource (s : State) (page : Nat) : Bool :=
  s.tiers.source.contains page ||
  match poolPage s page with
  | some p => match p.owner with
    | .index i =>
      let x := s.index i
      x.brood.all fun e => decide (e.seq.toNat ≤ x.durable.toNat) || !touchesPage [broodRange x e.seq] page
    | _ => false
  | none => false

/-- The code pages of a pool page. -/
def codePages (no : Nat) : List Nat := (List.range 1024).map fun i => no * 1024 + i

/-- The tier whose frame holds a code page: true for Tier N, false for Tier F; none where no frame of the drive's DRAM
does (R259, R263, R295). A page that is not allocated stands for the free frame at its address. -/
def dramOf (s : State) (page : Nat) : Option Bool :=
  match poolPage s page with
  | some p => match p.loc with
    | .tierN => some true
    | .tierF => some false
    | _ => none
  | none => if page * 2048 < Config.tierFBase then some true else if page * 2048 < Config.tierXBase then some false else none

/-- The table of a place: Tier N, Tier F, comb SRAM, forager SRAM (R284). -/
def ceTableOf (s : State) (pl : EccPlace) : Option (Fin 4) :=
  match pl with
  | .tier p => (dramOf s p).map fun n => if n then 0 else 1
  | .comb _ _ => some 2
  | .forager _ _ => some 3

/-- The stack (0 to 3) or package (0 to 13) behind a code page: the stack of its pool page's frame (R318) or of its save
area (R308); of any other address the spec does not give it (assumption 20). -/
def siteOf (s : State) (page : Nat) (tierN : Bool) : Nat :=
  let free := (Config.freeWord s.free).toNat
  if !tierN then free % 14
  else match poolPage s page with
    | some p => p.stk.val
    | none =>
      let c := (page * 2048 - Config.saveBase) / 23068672
      if Config.saveBase ≤ page * 2048 ∧ c < 12 then c / 3 else free % 4

/-- `SITE` of a place in a table (R285). -/
def ceSite (s : State) (pl : EccPlace) : Nat :=
  match pl with
  | .tier p => siteOf s p ((dramOf s p).getD true)
  | .comb a _ => a.val
  | .forager n _ => n.val

/-- `ADDR` of a correction: of the code page, or of the word, which a page scrub does not name (R285, assumption 20). -/
def ceAddr (s : State) (pl : EccPlace) (kind : BitVec 2) : Nat :=
  match pl with
  | .tier p => p * 2048 + (if kind = 0 then (Config.freeWord (s.free + 1)).toNat % 256 * 8 else 0)
  | .comb _ o => o / 8 * 8
  | .forager _ o => o / 8 * 8

/-- One record entered in a table at `NEXT`, counting one it overwrites (R284, R285). -/
def cePut (t : CeTab) (e : CeEnt) : CeTab :=
  let k : Fin 16 := ⟨t.next.toNat, t.next.isLt⟩
  { valid := t.valid ||| (1 <<< t.next.toNat), next := t.next + 1, ovf := if t.valid.getLsbD t.next.toNat then satInc t.ovf else t.ovf
    ents := t.ents.set k e }

/-- A correction entered in the table of its place, with its stamp and its site (R284, R285). -/
def enterCeAt (s : State) (pl : EccPlace) (kind : BitVec 2) (pos site : Nat) : State :=
  match ceTableOf s pl with
  | none => s
  | some k =>
    let a := ceAddr s pl kind % 2 ^ 48 + site * 2 ^ 48 + pos * 2 ^ 56
    let b := (stampOf s).toNat + s.time.seq.toNat * 2 ^ 48
    let e : CeEnt := { a := BitVec.ofNat 64 a, b := BitVec.ofNat 64 b, kind := kind }
    let s1 := s.tickSeq.draw 2
    { s1 with tiers := { s1.tiers with ce := s1.tiers.ce.set k (cePut s1.tiers.ce[k] e) } }

/-- The same, with the site that the place gives. -/
def enterCe (s : State) (pl : EccPlace) (kind : BitVec 2) (pos : Nat) : State := enterCeAt s pl kind pos (ceSite s pl)

/-- The error class of a SECDED correction; a page code correction counts in the class after it (R396). -/
def ceClass (k : Fin 4) : Fin 24 :=
  match k with
  | 0 => 11
  | 1 => 13
  | _ => 15

/-! ## Errors that neither code corrects -/

/-- Whether the flash source of a code page cannot be read at any level (R369). Which flash blocks hold it is the drive's
own choice (assumption 2). -/
def sourceLost (s : State) : Bool := (!s.media.lostBlk.isEmpty || !s.media.lostPg.isEmpty) && Config.freeBit s.free

/-- Whether a swap frame holds a codeword that no level reads (R369): blocks of the swap region are lost. Which superblock
holds which frame is the drive's own choice (assumption 2). -/
def swapLost (s : State) : Bool := (s.media.lostBlk.any fun b => regionOf s (sbOf b.die b.block) == .swap) && Config.freeBit s.free

/-- A codeword of a flash source read again: no level reads a lost one, the level that another needs is free, and its block may have
to be relocated (R368, R370, R396). -/
def readSource (s : State) (lost : Bool) : State :=
  let r := readCodes s 1 (b2n lost)
  markBlks r.1 r.2 allRanks

/-- The site of a code page: the stack or the package of its frame, in the code of `UNIT`. None for one in no frame of
Tier N or Tier F. -/
def frameSite (s : State) (page : Nat) : Option Nat := (dramOf s page).map fun n => siteOf s page n + if n then 0 else 16

/-- A unit of a scope, by a number (R494). -/
def scopeUnit (scope n : Nat) : Nat :=
  match scope with
  | 1 => n % 2
  | 2 => n % 8
  | 3 => n % 64
  | 4 => n % 192
  | 5 => n % 32
  | 6 => n % 1536
  | 7 => n % 1536
  | 8 => n % 8 / 4 * 256 + n % 8
  | 9 => if n % 18 < 4 then n % 18 else n % 18 + 12
  | 10 => n % 96
  | 11 => n % 4096
  | _ => 0

/-- Scope and unit of an entry for a code page (R494). For one in no frame of Tier N or Tier F, as a page of a lost lease or of
a swap frame, the spec gives neither, and both are free among the units that R494 numbers. -/
def poisonSite (s : State) (site : Option Nat) : BitVec 8 × BitVec 16 :=
  match site with
  | some u => (9, BitVec.ofNat 16 u)
  | none =>
    let w := (Config.freeWord s.free).toNat
    (BitVec.ofNat 8 (w % 12), BitVec.ofNat 16 (scopeUnit (w % 12) (w / 4096)))

/-- A code page is poisoned and logged with its site (R287, R396, R494). -/
def poisonCode (s : State) (page : Nat) (site : Option Nat) : State :=
  if s.tiers.poison.contains page then s
  else
    let s1 := { s with tiers := { s.tiers with poison := page :: s.tiers.poison } }
    let u := poisonSite s site
    logFault ((countErr s1 17 1).draw 1) 0x0D u.1 u.2 3 (BitVec.ofNat 64 (page * 2048)) 0

/-- A code page that neither code corrects, at a site: read again from its flash source, or where no level reads that poisoned and
logged (R286, R287, R369, R396). -/
def failCodeAt (s : State) (page : Nat) (site : Option Nat) : State :=
  if !hasSource s page then poisonCode s page site
  else if sourceLost s then poisonCode (readSource (s.draw 1) true) page site
  else enterCeAt (countErr (readSource (s.draw 1) false) 16 1) (.tier page) 2 0 (site.getD 0 % 16)

/-- The same where nothing but the page's place tells the stack or package (R494). -/
def failCode (s : State) (page : Nat) : State := failCodeAt (s.draw 1) page (frameSite s page)

end Sys2Proof.Machine
end

