-- ==== Sys2Proof/Machine/Pages.lean ====
section
/-! DEFINITION. The page pool (08, R262 to R269): allocation, frames, demotion, promotion and freeing; what the bandwidth
regulators count (09, R316 to R318). -/

namespace Sys2Proof.Machine

/-- Inserts a page, keeping the list in ascending device address. -/
def insertPage (p : Page) (l : List Page) : List Page := insertBy (fun q => q.no) p l

/-- Whether a page's home tier is Tier N (R263). -/
def homeN (no : Nat) : Bool := decide (no * Config.pageBytes < Config.tierFBase)

/-- The home tier of a page (R263). -/
def homeLoc (no : Nat) : Loc := if homeN no then .tierN else .tierF

/-- Whether a place is at or above a page's home tier (R269). -/
def atHome (no : Nat) (l : Loc) : Bool :=
  match l with
  | .tierN => true
  | .tierF => !homeN no
  | _ => false

/-- The pages whose move by some PREF has not finished (R268). -/
def movingPages (s : State) : List Range :=
  allCtx.flatMap fun c => ((s.ctx c).prefs.filter fun p => !p.done && !p.fired).flatMap fun p => p.rows

/-- Whether a page may be demoted (R268). -/
def demotable (busy : List Range) (p : Page) : Bool :=
  !p.pinned && !busy.any fun r => decide (p.no * Config.pageBytes < r.2) && decide (r.1 < (p.no + 1) * Config.pageBytes)

/-- The least recently touched demotable page in a tier, the lower address among equals (R267). -/
def victim (s : State) (busy : List Range) (l : Loc) : Option Page :=
  minBy (fun p => p.age) (s.tiers.pages.filter fun p => p.loc == l && demotable busy p)

/-- The same in the stacks of a mask (R318). -/
def victimN (s : State) (busy : List Range) (mask : BitVec 4) : Option Page :=
  minBy (fun p => p.age) (s.tiers.pages.filter fun p => p.loc == .tierN && mask.getLsbD p.stk.val && demotable busy p)

/-- The stacks that may hold a page's frame: those its partition names, else any (R297, R318). -/
def stacksFor (s : State) (o : Owner) : BitVec 4 :=
  let named := match o with
    | .workN c => (s.part (s.ctx c).part).desc.stackMask
    | .workF c => (s.part (s.ctx c).part).desc.stackMask
    | .consts _ => 0
    | .index _ => 0
    | .lent _ _ => 0
    | .lease r =>
      match s.fab.leases.find? fun l => l.req == r with
      | some l => ((l.ctx.map fun c => (s.part (s.ctx c).part).desc.stackMask)).getD 0
      | none => 0
  if named = 0 then 0xF else named

/-- A stack of the mask with a free frame; which of several is the drive's choice (R318, assumption 21). -/
def freeStack (s : State) (mask : BitVec 4) : Option (Fin 4) :=
  match (List.finRange 4).filter fun k => mask.getLsbD k.val && decide (0 < s.tiers.freeN[k]) with
  | [] => none
  | [k] => some k
  | k :: l => some ((k :: l).getD (Config.stackOf s.tiers.clock % (l.length + 1)) k)

/-- Whether every code page of a pool page still equals its flash source (R267). -/
def cleanPage (s : State) (no : Nat) : Bool := (List.range 1024).all fun i => hasSource s (no * 1024 + i)

/-! ## Tier X -/

/-- The device address of a lease window (R259). -/
def windowBase (k : Nat) : Nat := Config.tierXBase + k * 2 ^ 40

/-- The bytes of a lease range that one `XACC` moves at most: with its fields they fit a message of R333 (assumption 11). -/
def xUnit : Nat := 524288

/-- A range of a lease, as offset and length, cut into what one message moves each. -/
def xPieces (off len : Nat) : List (Nat × Nat) :=
  (List.range (ceilDiv len xUnit)).map fun i => (off + i * xUnit, min xUnit (len - i * xUnit))

/-- An `XACC` message: operation (1 a write), request, offset, length, data (assumption 11). -/
def xaccBytes (op req off len : Nat) (data : Bytes) : Bytes :=
  toLe 4 op ++ toLe 4 req ++ toLe 8 off ++ toLe 8 len ++ data

/-- Writes `len` bytes at device address `a` to offset `off` of a lease (R273, R357). -/
def pushOut (s : State) (l : Lease) (off len a : Nat) : State :=
  (xPieces off len).foldl (fun st p =>
    queueBulk st 0x0C (toNode l.lender) (xaccBytes 1 l.req.toNat p.1 p.2 (memGets s.tiers.mem (a + (p.1 - off)) p.2))) s

/-- Reads a range of a lease (R273, R357). -/
def askOut (s : State) (l : Lease) (off len : Nat) : State :=
  (xPieces off len).foldl (fun st p => queueBulk st 0x0C (toNode l.lender) (xaccBytes 0 l.req.toNat p.1 p.2 [])) s

/-- The lease with a request number. -/
def leaseOf (s : State) (r : BitVec 32) : Option Lease := s.fab.leases.find? fun l => l.req == r

/-- Replaces a page's entry. -/
def putPage (s : State) (p : Page) : State :=
  { s with tiers := { s.tiers with pages := s.tiers.pages.map fun q => if q.no = p.no then p else q } }

/-- The first place for a page in the drive's eviction leases, in their order (R273). -/
def evictSlot (s : State) : Option (Lease × Nat) :=
  (((s.fab.leases.filter fun l => l.granted && !l.lost && decide (48 ≤ l.window)).flatMap fun l =>
    (List.range l.pages).map fun k => (l, k))).find? fun x => !s.tiers.pages.any fun p => p.xat == some (x.1.req, x.2)

/-- A demoted page's copy is written to its place in an eviction lease (R273); its swap copy stands beside it. -/
def toTierX (s : State) (no : Nat) (l : Lease) (k : Nat) : State :=
  let s1 := pushOut s l (k * Config.pageBytes) Config.pageBytes (no * Config.pageBytes)
  { s1 with tiers := { s1.tiers with pages := s1.tiers.pages.map fun p => if p.no = no then { p with loc := .tierX, xat := some (l.req, k) } else p } }

/-- A page that leaves Tier X is read from its copy there, whose bytes are those of its swap copy (R273). DESIGN CHOICE:
the access does not wait for the `XDATA` (assumption 12). -/
def fromTierX (s : State) (p : Page) : State :=
  match p.xat with
  | none => s
  | some (r, k) =>
    let s1 := match leaseOf s r with
      | some l => askOut s l (k * Config.pageBytes) Config.pageBytes
      | none => s
    { s1 with tiers := { s1.tiers with pages := s1.tiers.pages.map fun q => if q.no = p.no then { q with xat := none } else q } }

/-- Whether a page belongs to a lease window. -/
def Page.isLease (p : Page) : Bool :=
  match p.owner with
  | .lease _ => true
  | _ => false

/-- A page of a lease window goes straight back to Tier X, its home (R269). -/
def sendHome (s : State) (p : Page) (r : BitVec 32) : State :=
  let s1 := match leaseOf s r with
    | some l => pushOut s l (p.no * Config.pageBytes - windowBase l.window) Config.pageBytes (p.no * Config.pageBytes)
    | none => s
  { s1 with tiers := { s1.tiers with pages := s1.tiers.pages.filter fun q => q.no != p.no || !q.isLease } }

/-- A page of a lease window that is demoted (R269). -/
def sendHomeOf (s : State) (p : Page) : State :=
  match p.owner with
  | .lease r => sendHome s p r
  | _ => s

/-! ## Frames -/

/-- The state with a page in a Tier N frame of a stack. -/
def setStack (s : State) (no : Nat) (k : Fin 4) : State :=
  { s with tiers := { s.tiers with pages := s.tiers.pages.map fun p => if p.no = no then { p with loc := .tierN, stk := k } else p } }

/-- The state with a page at another place. -/
def setLoc (s : State) (no : Nat) (l : Loc) : State :=
  { s with tiers := { s.tiers with pages := s.tiers.pages.map fun p => if p.no = no then { p with loc := l } else p } }

/-- Takes a swap frame; none when the demotion must wait (R267). -/
def takeSwap (s : State) : Option State :=
  if 0 < s.tiers.freeS then some { s with tiers := { s.tiers with freeS := s.tiers.freeS - 1 } } else none

/-- Takes a Tier F frame, demoting a page to Tier X or swap where none is free (R267, R273). -/
def takeF (s : State) (busy : List Range) : Option State :=
  if 0 < s.tiers.freeF then some { s with tiers := { s.tiers with freeF := s.tiers.freeF - 1 } }
  else
    match victim s busy .tierF with
    | none => none
    | some v =>
      if v.isLease then some (sendHomeOf s v)
      else if cleanPage s v.no then some (setLoc s v.no .dropped)
      else
        match takeSwap s with
        | none => none
        | some s1 =>
          match evictSlot s1 with
          | some (l, k) => some (toTierX s1 v.no l k)
          | none => some (setLoc s1 v.no .swap)

/-- Takes a Tier N frame in a stack of the mask, demoting a page to Tier F where none is free (R267, R318). -/
def takeN (s : State) (busy : List Range) (mask : BitVec 4) : Option (State × Fin 4) :=
  match freeStack s mask with
  | some k => some ({ s with tiers := { s.tiers with freeN := s.tiers.freeN.set k (s.tiers.freeN[k] - 1) } }, k)
  | none =>
    match victimN s busy mask with
    | none => none
    | some v =>
      if v.isLease then some (sendHomeOf s v, v.stk)
      else if cleanPage s v.no then some (setLoc s v.no .dropped, v.stk)
      else
        match takeF s busy with
        | none => none
        | some s1 => some (setLoc s1 v.no .tierF, v.stk)

/-- Frees the frame that a page holds (R263, R273: a page in Tier X also holds its swap copy). -/
def freeFrame (s : State) (p : Page) : State :=
  match p.loc with
  | .tierN => { s with tiers := { s.tiers with freeN := s.tiers.freeN.set p.stk (s.tiers.freeN[p.stk] + 1) } }
  | .tierF => { s with tiers := { s.tiers with freeF := s.tiers.freeF + 1 } }
  | .tierX => { s with tiers := { s.tiers with freeS := s.tiers.freeS + 1 } }
  | .swap => { s with tiers := { s.tiers with freeS := s.tiers.freeS + 1 } }
  | .none => s
  | .dropped => s

/-- Notes the touch of a page in the order of touches (R267). -/
def ageTouch (s : State) (no : Nat) : State :=
  { s with tiers := { s.tiers with
      clock := s.tiers.clock + 1
      pages := s.tiers.pages.map fun p => if p.no = no then { p with age := s.tiers.clock + 1 } else p } }

/-- A page read from its swap frame: 512 codewords, of which blocks that needed level 2 or higher are to be relocated, and
where some are lost, how many the spec leaves to the flash, the frame is treated as poisoned (R263, R368 to R370, R396). -/
def readSwap (s : State) (p : Page) : State :=
  if p.loc ≠ .swap then s
  else
    let lost := if swapLost s then 1 + (Config.freeWord (s.free + 1)).toNat % 512 else 0
    let r := readCodes (s.draw 2) 512 lost
    let s1 := markBlks r.1 r.2 swapRanks
    if lost = 0 then s1 else (codePages p.no).foldl failCode s1

/-- Moves a page to a tier, taking a frame there and freeing the one it had; none when it must wait. -/
def movePage (s : State) (busy : List Range) (p : Page) (target : Loc) : Option State :=
  if target = .tierN then (takeN s busy (stacksFor s p.owner)).map fun r => readSwap (setStack (fromTierX (freeFrame r.1 p) p) p.no r.2) p
  else (takeF s busy).map fun s1 => readSwap (setLoc (fromTierX (freeFrame s1 p) p) p.no target) p

/-- A touch of one pool page: it takes its first frame or comes back to its home tier (R266, R269); none
when it must wait for a frame (R267). An address outside the pool has no page. -/
def touchPage (s : State) (busy : List Range) (no : Nat) : Option State :=
  match s.tiers.pages.find? fun p => p.no == no with
  | none => some s
  | some p =>
    if atHome no p.loc then some (ageTouch s no)
    else
      match movePage s busy p (homeLoc no) with
      | none => none
      | some s1 => some (ageTouch s1 no)

/-- The pool pages of a device range. -/
def pagesOf (r : Range) : List Nat :=
  if r.2 ≤ r.1 then []
  else (List.range ((r.2 - 1) / Config.pageBytes + 1 - r.1 / Config.pageBytes)).map fun i => r.1 / Config.pageBytes + i

/-- Touches pages in turn. -/
def touchList (busy : List Range) : List Nat → State → Option State
  | [], s => some s
  | n :: t, s =>
    match touchPage s busy n with
    | none => none
    | some s1 => touchList busy t s1

/-- Touches every pool page of the ranges; pages with an access in flight are not demoted (R268). -/
def touchRanges (s : State) (l : List Range) : Option State :=
  touchList (l ++ movingPages s) (l.flatMap pagesOf) s

/-! ## Allocation -/

/-- Pinned pages of Tier N outside the reserved region (R264). -/
def pinnedN (s : State) : Nat := (s.tiers.pages.filter fun p => p.pinned && homeN p.no).length

/-- The allocated pool pages (R264); pages of a lease window are not the drive's own. -/
def allocated (s : State) : Nat := (s.tiers.pages.filter fun p => !p.isLease).length

/-- Whether `n` more pages, `pn` of them pinned in Tier N, stay within the limits of R264. -/
def admits (s : State) (n pn : Nat) : Bool :=
  decide (allocated s + n ≤ s.tiers.limit) && decide (pinnedN s + pn ≤ 48640)

/-- The lowest page number from `lo` at which `n` consecutive numbers below `hi` are unallocated. -/
def findRun (l : List Page) (n hi : Nat) : Nat → Option Nat :=
  fun lo => l.foldr (fun p k a => if a + n ≤ p.no then (if a + n ≤ hi then some a else none)
                                  else k (max a (p.no + 1))) (fun a => if a + n ≤ hi then some a else none) lo

/-- The contiguous run of page numbers that the drive chooses in a home tier: the lowest (R262). -/
def placeRun (s : State) (tierN : Bool) (n : Nat) : Option Nat :=
  if tierN then findRun s.tiers.pages n (Config.reservedBase / Config.pageBytes) 0
  else findRun s.tiers.pages n (Config.tierXBase / Config.pageBytes) (Config.tierFBase / Config.pageBytes)

/-- Allocates pages `a` to `a + n − 1` for an owner; they read as zero (R266), and no code page of them is poisoned, whatever a
scrub found in a frame while it was free. -/
def allocPages (s : State) (a n : Nat) (o : Owner) (pinned : Bool) : State :=
  let new := (List.range n).map fun i => ({ no := a + i, owner := o, pinned := pinned, loc := .none, age := 0, stk := 0, xat := none } : Page)
  { s with tiers := { s.tiers with
      pages := new.foldl (fun l p => insertPage p l) s.tiers.pages
      poison := s.tiers.poison.filter fun q => decide (q / 1024 < a) || decide (a + n ≤ q / 1024) } }

/-- Frees every page a test picks: its frames return, its bytes are gone and its poison with them (R266, R289). -/
def freeWhere (s : State) (f : Page → Bool) : State :=
  let gone := s.tiers.pages.filter f
  let s1 := gone.foldl freeFrame s
  let inGone (a : Nat) : Bool := gone.any fun p => p.no == a / Config.pageBytes
  { s1 with tiers := { s1.tiers with
      pages := s1.tiers.pages.filter fun p => !f p
      mem := s1.tiers.mem.filter fun c => !inGone c.1
      poison := s1.tiers.poison.filter fun p => !inGone (p * 2048)
      source := s1.tiers.source.filter fun p => !inGone (p * 2048)
      stale := s1.tiers.stale.filter fun p => !inGone (p.1 * 2048) } }

/-- Frees every page whose owner a test picks. -/
def freePages (s : State) (f : Owner → Bool) : State := freeWhere s fun p => f p.owner

/-- An allocation with its placement: the state and the device address, or none where the limits or the
window leave no room (R262, R264). A run of no pages lies at address zero. -/
def allocRun (s : State) (tierN : Bool) (n : Nat) (o : Owner) (pinned : Bool) : Option (State × Nat) :=
  if n = 0 then some (s, 0)
  else if !admits s n (if pinned && tierN then n else 0) then none
  else
    match placeRun s tierN n with
    | none => none
    | some a => some (allocPages s a n o pinned, a * Config.pageBytes)

/-! ## Accesses to lease windows -/

/-- The parts of ranges that only a lender holds, as lease, offset and length: those in a window of a lease held that no
frame of a tier above has (R261, R269, R357). -/
def farParts (s : State) (l : List Range) : List (Lease × Nat × Nat) :=
  l.flatMap fun r => (s.fab.leases.filter fun q => q.granted && !q.lost && decide (q.window < 48)).flatMap fun q =>
    let b := windowBase q.window
    let lo (n : Nat) : Nat := max r.1 (max b (n * Config.pageBytes))
    let hi (n : Nat) : Nat := min r.2 (min (b + q.pages * Config.pageBytes) ((n + 1) * Config.pageBytes))
    ((pagesOf (max r.1 b, min r.2 (b + q.pages * Config.pageBytes))).filter fun n => !s.tiers.pages.any fun p => p.no == n).map fun n =>
      (q, lo n - b, hi n - lo n)

/-- Those parts cut into what one message moves each. -/
def farPieces (s : State) (l : List Range) : List (Lease × Nat × Nat) :=
  (farParts s l).flatMap fun x => (xPieces x.2.1 x.2.2).map fun p => (x.1, p.1, p.2)

/-- Whether the data of a piece has come. -/
def farHere (s : State) (x : Lease × Nat × Nat) : Bool :=
  s.fab.leases.any fun l => l.req == x.1.req && l.reads.contains (x.2.1, x.2.2, true)

/-- The state with the reads of a lease changed. -/
def mapReads (s : State) (r : BitVec 32) (f : List (Nat × Nat × Bool) → List (Nat × Nat × Bool)) : State :=
  { s with fab := { s.fab with leases := s.fab.leases.map fun l => if l.req = r then { l with reads := f l.reads } else l } }

/-- Asks the lenders for the pieces that nothing has asked for yet (R357). -/
def askFar (s : State) (l : List (Lease × Nat × Nat)) : State :=
  l.foldl (fun st x =>
    let known := st.fab.leases.any fun q => q.req == x.1.req && q.reads.any fun d => d.1 == x.2.1 && d.2.1 == x.2.2
    if known then st else mapReads (askOut st x.1 x.2.1 x.2.2) x.1.req fun d => d ++ [(x.2.1, x.2.2, false)]) s

/-- The pieces have been used: a later access asks again. -/
def takeFar (s : State) (l : List (Lease × Nat × Nat)) : State :=
  l.foldl (fun st x => mapReads st x.1.req fun d => d.filter fun v => !(v.1 == x.2.1 && v.2.1 == x.2.2)) s

/-- Bytes written to lease windows go to their lenders; an older answer to a read of them no longer counts (R357). -/
def pushFar (s : State) (l : List Range) : State :=
  (farParts s l).foldl (fun st x =>
    mapReads (pushOut st x.1 x.2.1 x.2.2 (windowBase x.1.window + x.2.1)) x.1.req fun d =>
      d.filter fun v => decide (v.1 + v.2.1 ≤ x.2.1) || decide (x.2.1 + x.2.2 ≤ v.1)) s

/-- The state after the writes of an instruction to the given segments have been made: whole units lose their poison (R289)
and lease windows take theirs to the lender (R357). -/
def settle (s : State) (c : CtxId) (gs : List Seg) : State :=
  let l := devRanges s (s.ctx c) gs
  settleSram (pushFar (settleDev s l) l) gs

/-! ## Blocks under reset -/

/-- Whether a forager takes no new request (R27). -/
def foragerBusy (s : State) (n : ChanId) : Bool := blockBusy s (0x10 + n.val)

/-- Whether a forager is being reset (R27). -/
def foragerDown (s : State) (n : ChanId) : Bool := blockDown s (0x10 + n.val)

/-- Whether a channel of the medium is being reset, so that work that spreads over all of them stands still (R27). -/
def flashDown (s : State) : Bool := s.rst.act != .none && allChan.any (foragerDown s)

/-- Whether flash reads at some places wait for a forager under reset (R27). -/
def placesBusy (s : State) (l : List Place) : Bool := s.rst.act != .none && l.any fun p => foragerBusy s (chanOf p.die)

/-- Whether a page lies with a tier controller, or on flash with a forager, that `f` picks. DEDUCED: a page in Tier N lies in one
stack; which packages hold a page of Tier F is not stated, so any Tier F controller holds it up, and a page that flash holds lies
across the channels, so any forager does (assumption 29). -/
def pageOn (s : State) (f : Nat → Bool) (no : Nat) : Bool :=
  match s.tiers.pages.find? fun p => p.no == no with
  | none => false
  | some p =>
    match p.loc with
    | .tierN => f (0x30 + p.stk.val)
    | .tierF => (List.range 7).any fun k => f (0x38 + k)
    | .swap => allChan.any fun n => f (0x10 + n.val)
    | .dropped => allChan.any fun n => f (0x10 + n.val)
    | _ => false

/-- Whether a device range waits for a tier controller that takes no new request (R27). -/
def rangeBusy (s : State) (r : Range) : Bool := s.rst.act != .none && (pagesOf r).any (pageOn s (blockBusy s))

/-- Whether work on a device range stands still, as a tier controller is being reset (R27). -/
def rangeDown (s : State) (r : Range) : Bool := s.rst.act != .none && (pagesOf r).any (pageOn s (blockDown s))

/-- Whether an access waits for a block under reset: the cluster of an array, or a tier controller (R27). -/
def segBusy (s : State) (x : Ctx) (g : Seg) : Bool :=
  s.rst.act != .none && match g.sp with
    | .buf => blockBusy s (clusterOf g.arr)
    | .acc => blockBusy s (clusterOf g.arr)
    | _ => (segDev s x g).any (rangeBusy s)

/-! ## Bandwidth regulators -/

/-- The four regulators of a descriptor: `REG_N`, `REG_F`, `REG_FL`, `REG_X` (R297). -/
def regsOf (d : PartDesc) : List Reg := [d.regN, d.regF, d.regFl, d.regX]

/-- The place of a pool page. -/
def locOf (s : State) (n : Nat) : Loc := ((s.tiers.pages.find? fun p => p.no == n).map fun p => p.loc).getD .none

/-- The regulator that counts an access at a page number: of the tier whose frame holds the page, else of Tier X, whose
windows lie above both other tiers (R259, R317). -/
def regulatorOf (s : State) (n : Nat) : Nat :=
  match locOf s n with
  | .tierN => 0
  | .tierF => 1
  | _ => if Config.tierXBase ≤ n * Config.pageBytes then 3 else if homeN n then 0 else 1

/-- The bytes of ranges that each regulator counts, as their pages lie (R317). -/
def accessDues (s : State) (l : List Range) : List Nat :=
  let piece (r : Range) (n : Nat) : Nat := min r.2 ((n + 1) * Config.pageBytes) - max r.1 (n * Config.pageBytes)
  let pieces := l.flatMap fun r => (pagesOf r).map fun n => (regulatorOf s n, piece r n)
  (List.range 4).map fun k => (pieces.filter fun p => p.1 == k).foldl (fun a p => a + p.2) 0

/-- The promotions from or to Tier F, the swap reads and the Tier X reads of a PREF by which pages came to where they are
(R317). -/
def moveDues (s t : State) (l : List Range) : List Nat :=
  let ns := (l.flatMap pagesOf).eraseDups
  let viaF := ns.filter fun n => locOf s n != locOf t n && locOf s n != .none && (locOf s n == .tierF || locOf t n == .tierF)
  let swaps := ns.filter fun n => locOf s n == .swap && locOf t n != .swap
  let far := ns.filter fun n => decide (Config.tierXBase ≤ n * Config.pageBytes) && locOf s n == .none && locOf t n != .none
  [0, viaF.length * Config.pageBytes, swaps.length * Config.pageBytes, far.length * Config.pageBytes]

/-- Whether a transfer that counts bytes with these regulators has to wait: one that is on has no tokens (R316). -/
def inDebt (p : Part) (l : List Nat) : Bool :=
  (List.range 4).any fun k =>
    ((regsOf p.desc).getD k ⟨0, 0⟩).rate != 0 && l.getD k 0 != 0 && decide (p.tokens.toList.getD k 0 ≤ 0)

/-- A partition charged with bytes at each regulator that is on (R316, R317). -/
def charge (s : State) (p : PartId) (l : List Nat) : State :=
  let x := s.part p
  s.setPart p { x with tokens := vgen 4 fun k =>
    x.tokens.toList.getD k 0 - if ((regsOf x.desc).getD k ⟨0, 0⟩).rate = 0 then 0 else (l.getD k 0 : Int) * 1000 }

/-- What an access of ranges counts, where `s` and `t` are the states before and after its pages were touched. -/
def dues (s t : State) (l : List Range) : List Nat := (accessDues t l).zipWith (· + ·) (moveDues s t l)

end Sys2Proof.Machine
end

