-- ==== Sys2Proof/Machine/Saves.lean ====
section
/-! DEFINITION. The save areas of the clusters (08, R260, R288, R289; 09, R301, R306, R308 to R310): saving a partition's
arrays, restoring them, and work on the arrays of a context that is parked. -/

namespace Sys2Proof.Machine

/-- Bytes of one array in a save area (R308). -/
def saveBytes : Nat := 1441792

/-- The save area address of an active array: the j-th active array of its cluster (R260, R308). -/
def saveAddr (s : State) (a : ArrId) : Nat :=
  let j := (allArr.filter fun b => (s.arr b).inserv && clusterOf b == clusterOf a && decide (b.val < a.val)).length
  Config.saveBase + clusterOf a * 23068672 + j * saveBytes

/-- The save areas of a partition's arrays. -/
def saveRanges (s : State) (p : PartId) : List Range := (partArrs s p).map fun a => (saveAddr s a, saveAddr s a + saveBytes)

/-- The bytes of a partition's arrays written to the save areas of its clusters (R308). -/
def storeArrays (s : State) (p : PartId) : State :=
  (partArrs s p).foldl (fun st a =>
    let o := saveAddr st a
    let m0 := memZero st.tiers.mem o (o + saveBytes)
    let m1 := memPutCells (memPutCells m0 o (st.arr a).buf) (o + Config.bufBytes) (st.arr a).acc
    { st with tiers := { st.tiers with mem := m1 } }) s

/-- The code pages of a save area that hold poisoned words of its array. -/
def carriedPoison (s : State) (a : ArrId) : List Nat :=
  (s.tiers.sramPoison.filterMap fun p =>
    match p with
    | .comb ph w => if ph.val = (s.arr a).phys.toNat then some ((saveAddr s a + w) / 2048) else none
    | _ => none).eraseDups

/-- The arrays of a partition saved into the save areas of its clusters (R308). The areas are written whole (R289). DEDUCED:
a word that was poisoned leaves its place in the area poisoned, as poison goes with a page that moves (R287, assumption 20). -/
def saveArrays (s : State) (p : PartId) : State :=
  let s1 := settleDev (storeArrays s p) (saveRanges s p)
  { s1 with tiers := { s1.tiers with poison := (partArrs s p).flatMap (carriedPoison s) ++ s1.tiers.poison } }

/-- The part of a memory from `lo` up to but not including `hi`, counted from `lo`. -/
def memCut (m : Mem) (lo hi : Nat) : Mem := (memSlice m lo hi).map fun c => (c.1 - lo, c.2)

/-- The bytes of a partition's arrays read from the save areas. -/
def loadArrays (s : State) (p : PartId) : State :=
  (partArrs s p).foldl (fun st a =>
    let o := saveAddr st a
    st.setArr a { st.arr a with buf := memCut st.tiers.mem o (o + Config.bufBytes)
                                acc := memCut st.tiers.mem (o + Config.bufBytes) (o + saveBytes) }) s

/-- The arrays of a partition restored from the save areas (R308, R309); every word of them is written (R289). -/
def restoreArrays (s : State) (p : PartId) : State := dropWords (loadArrays s p) (partArrs s p)

/-- Whether the save area of one of a partition's arrays is poisoned (R288). -/
def savePoison (s : State) (p : PartId) : Bool := (saveRanges s p).any (rangePoison s)

/-- The buffers and accumulators of a partition's arrays as they are in another state. -/
def putArrays (s t : State) (p : PartId) : State :=
  (partArrs s p).foldl (fun st a => st.setArr a { st.arr a with buf := (s.arr a).buf, acc := (s.arr a).acc }) t

/-- Work on the array memories of context `c`: in its partition's arrays, or in the save areas where the context is parked
and another may hold the arrays (R300, R306, R310). Nothing happens where the work cannot be done yet. -/
def withArrays (s : State) (c : CtxId) (f : State → Option State) : State :=
  let p := (s.ctx c).part
  if (s.part p).parked = some c then
    match f (restoreArrays s p) with
    | none => s
    | some t =>
      let u := putArrays s (storeArrays t p) p
      { u with tiers := { u.tiers with sramPoison := s.tiers.sramPoison } }
  else (f s).getD s

end Sys2Proof.Machine
end

