-- ==== Sys2Proof/Machine/Elem.lean ====
section
/-! DEFINITION. Element values with block scales (R122, R146, R147), computed and learned scales (R172,
R173, R176), conversion through a destination's scales (R174), the fallbacks of a PREF (R278, R280), and
the order of an instruction's accesses: bounds, prefetches, poison, frames, body (R97, R99, R126, R288). -/

namespace Sys2Proof.Machine

/-! ## Element values -/

/-- `NANIN` for an operand element that holds a NaN code (R162). -/
def nanFl (v : XVal) : Fl := if xisNan v then flNan else flNone

/-- The value of an element as stored, with the flags of reading it. -/
def plainVal (d : Desc) (code : Nat) : XVal × Fl :=
  let v := elemVal d.fmt code
  (v, nanFl v)

/-- The value of an element with its block's scale applied exactly (R122). -/
def scaledVal (d : Desc) (code sc : Nat) : XVal × Fl :=
  let p := plainVal d code
  if d.smode = 1 then
    if sc = 0xFF then (.nan, p.2 ||| flNan)
    else
      match p.1 with
      | .fin n a b => let q := qscale a b (127 - (sc : Int)); (.fin n q.1 q.2, p.2)
      | v => (v, p.2)
  else if d.smode = 2 then
    let k := iscaleParts sc
    match p.1 with
    | .fin n a b => (.fin n (a * k.1) (b * 2 ^ k.2.1), p.2 ||| (if k.2.2 then flInv else flNone))
    | v => (v, p.2)
  else p

/-- The value of element `i` of row `r` with its scale applied. -/
def rdVal (s : State) (x : Ctx) (d : Desc) (a : ArrId) (r i : Nat) : XVal × Fl :=
  scaledVal d (rdCode s x d a r i) (rdScale s x d a r (i / 32))

/-! ## Scales -/

/-- The largest magnitude among the finite values, as a fraction; zero for none (R172, R173). -/
def amaxOf (l : List XVal) : Nat × Nat :=
  l.foldl (fun m v =>
    match v with
    | .fin _ a b => if m.1 * b < a * m.2 then (a, b) else m
    | _ => m) (0, 1)

/-- ⌈log2 (a/b)⌉ of a positive fraction. -/
def ceilLog2 (a b : Nat) : Int :=
  let l := qlog2 a b
  let q := qscale a b l
  if q.1 = q.2 then l else l + 1

/-- `maxfin` of R172. -/
def maxfinOf : Fmt → Nat
  | .e2m1 => 6
  | .e4m3 => 448
  | _ => 57344

/-- The computed float block scale code (R172). -/
def fScale (f : Fmt) (l : List XVal) : Nat :=
  let m := amaxOf l
  if m.1 = 0 then 0x7F
  else
    let e := ceilLog2 m.1 (m.2 * maxfinOf f)
    if e < -127 then 0 else if 127 < e then 0xFE else (127 + e).toNat

/-- `qmax` of R173. -/
def qmaxOf : Fmt → Nat
  | .int4 => 7
  | .uint4 => 15
  | .int8 => 127
  | _ => 255

/-- The largest shift below `n` with ⌈t·2^e⌉ at most 65,535, for t = a/b (R173). -/
def iShift (a b : Nat) : Nat → Option Nat
  | 0 => none
  | n + 1 => if ceilDiv (a * 2 ^ n) b ≤ 65535 then some n else iShift a b n

/-- The computed integer block scale word (R173). -/
def iScale (f : Fmt) (l : List XVal) : Nat :=
  let m := amaxOf l
  if m.1 = 0 then 1
  else
    match iShift m.1 (m.2 * qmaxOf f) 64 with
    | some e => ceilDiv (m.1 * 2 ^ e) (m.2 * qmaxOf f) + e * 65536
    | none => 65535

/-- The computed scale of a block of values for a descriptor's format and mode. -/
def calcScale (d : Desc) (l : List XVal) : Nat := if d.smode = 1 then fScale d.fmt l else iScale d.fmt l

/-- The learned scale that a BF16 parameter gives, with its flags (R176). -/
def learnScale (smode sigma : Nat) : Nat × Fl :=
  let e := sigma / 128 % 256
  let m := sigma % 128
  if e = 255 then
    if m = 0 then (if smode = 1 then (0xFE, flOvf) else (65535, flOvf))
    else (if smode = 1 then (0xFF, flNan) else (0, flInv))
  else if e = 0 then
    if smode = 1 then (0, flUnf) else (0, if m = 0 then flNone else flUnf)
  else if smode = 1 then
    if e + m / 64 = 255 then (0xFE, flOvf) else (e + m / 64, flNone)
  else if 143 ≤ e then (65535, flOvf)
  else if 79 ≤ e then ((128 + m) * 256 + (142 - e) * 65536, flNone)
  else
    let v := (rnda false (128 + m) (2 ^ (71 - e))).toNat
    if 71 ≤ e then ((128 + m) * 2 ^ (e - 71) + 63 * 65536, flNone)
    else (v + 63 * 65536, if v = 0 then flUnf else flNone)

/-- A value converted into a descriptor's format through a block scale: integer results without stochastic
rounding round ties away from zero where `ties` is set or the tensor has block scales (R118, R158, R174). -/
def toDesc (d : Desc) (sc : Nat) (md : Mode) (ties : Bool) (v : XVal) : Nat × Fl :=
  convScaled d.fmt d.smode sc md (ties || d.smode == 2) v

/-! ## Accumulator values -/

/-- An accumulator value of either path (R154, R155). -/
inductive Acc where
  | int (v : Int)
  | flt (c : BitVec 32)
deriving DecidableEq, Repr

/-- The exact value of an accumulator. -/
def accVal : Acc → XVal
  | .int v => xint v
  | .flt c => val32 c

/-- The 32-bit layout of an accumulator in `ACC` (R111). -/
def accCode : Acc → Nat
  | .int v => intCode 32 v
  | .flt c => c.toNat

/-- The accumulator that a 32-bit word holds on a path (R111). -/
def accOf (isInt : Bool) (c : Nat) : Acc :=
  if isInt then .int (if c < 2 ^ 31 then (c : Int) else (c : Int) - 2 ^ 32) else .flt (BitVec.ofNat 32 c)

/-- An accumulator converted into a destination element: unchanged in `ACC`, as a distance code, or into the
format through its scale (R111, R158 to R160). -/
def accOut (d : Desc) (sc : Nat) (md : Mode) (v : Acc) : Nat × Fl :=
  if d.space = .acc then (accCode v, flNone)
  else if d.fmt = .dist then
    let r := rne32 (accVal v)
    ((distOf r.1).toNat, r.2)
  else toDesc d sc md false (accVal v)

/-! ## Prefetches -/

/-- Whether a prefetch covers some byte of the ranges. -/
def prefHits (p : Pref) (l : List Range) : Bool :=
  p.rows.any fun r => l.any fun q => decide (r.1 < q.2) && decide (q.1 < r.2)

/-- The state with prefetch `i` of a context replaced. -/
def setPref (s : State) (c : CtxId) (i : Nat) (p : Pref) : State :=
  s.setCtx c { s.ctx c with prefs := (s.ctx c).prefs.set i p }

/-- `DEGRADED` raised with a reason: the flag is recorded, and traps once the instruction completes (R71, R280). -/
def degrade (s : State) (c : CtxId) (reason : Nat) : State :=
  let x := s.ctx c
  s.setCtx c { x with flags := x.flags ||| ctxDegraded
                      reason := if x.reason = 0 then BitVec.ofNat 8 reason
                                else if x.degNow && decide (reason < x.reason.toNat) then BitVec.ofNat 8 reason
                                else x.reason
                      degNow := true
                      degTrap := x.degTrap || bitOf x.trapMask 4 }

/-- The array whose memories an instruction without an array range uses. DESIGN CHOICE: the partition's first, where R129 and the other
storage and fabric instructions leave `AFIRST` unused and name none (assumption 31). -/
def arr0 (s : State) (x : Ctx) : ArrId := (partArrs s x.part).headD 0

/-- The state whose arrays hold what context `c` sees in them: those of the save areas where it is parked (R300, R306). -/
def arraysSeen (s : State) (c : CtxId) : State :=
  if isParked s c then restoreArrays s (s.ctx c).part else s

/-- One row of a coarse copy, with C's values read from `q`: the scales of R172 or R173 where A carries block scales, then the
elements (R278 fallback 2). -/
def coarseRow (q : State) (x : Ctx) (ad cd : Desc) (ar cr m : Nat) (s : State) (c : CtxId) : State × Exc :=
  let vals := (List.range ad.e0).map fun i => rdVal q x cd (arr0 q x) cr i
  let scales := (List.range ad.nblk).map fun b => calcScale ad (((vals.map Prod.fst).drop (32 * b)).take 32)
  let s1 := if ad.sw = 0 then s
            else (List.range ad.nblk).foldl (fun st b => wrScale st c ad 0 ar b (scales.getD b 0)) s
  (List.range ad.e0).foldl (fun acc i =>
    let v := vals.getD i (xzero, flNone)
    let r := toDesc ad (scales.getD (i / 32) 0) .rne false v.1
    (wrCode acc.1 c ad 0 ar i r.1, excJoin acc.2 (raiseAt (v.2 ||| r.2) m i 0))) (s1, .none)

/-- The coarse copy written over the whole range of a prefetch (R278 fallback 2). -/
def coarseCopy (s : State) (c : CtxId) (p : Pref) : State × Exc :=
  match descOf p.aDesc, descOf p.cDesc with
  | some ad, some cd =>
    let s0 := preWrite s p.rows
    let r := (List.range p.m).foldl (fun acc i =>
      let q := coarseRow (arraysSeen s c) (s0.ctx c) ad cd (p.aOff + i) (p.cOff + i) i acc.1 c
      (q.1, excJoin acc.2 q.2)) (s0, Exc.none)
    (pushFar (settleDev r.1 p.rows) p.rows, r.2)
  | _, _ => (s, .none)

/-- The code pages of ranges. -/
def codePagesOf (l : List Range) : List Nat :=
  l.flatMap fun r => if r.2 ≤ r.1 then [] else (List.range ((r.2 - 1) / 2048 + 1 - r.1 / 2048)).map fun i => r.1 / 2048 + i

/-- What a fallback leads to: the instruction goes on, waits for a frame (R267), for tokens (R316) or for a block under reset (R27), or
the context faults. -/
inductive Fell where
  | goOn (s : State)
  | wait
  | hold
  | busy
  | fault (cause : Cause) (unit : BitVec 8) (detail : BitVec 28)
deriving DecidableEq, Repr

/-- The segments of the rows of C that a coarse copy reads (R278 fallback 2). -/
def coarseSegs (s : State) (x : Ctx) (p : Pref) : List Seg :=
  match descOf p.cDesc with
  | some d => rowsSegs p.ct d (arr0 s x) p.cOff p.m d.e0
  | none => []

/-- What a coarse copy reads of lease windows (R278, R357). -/
def coarseFar (s : State) (c : CtxId) (p : Pref) : List (Lease × Nat × Nat) :=
  if p.fallback = 2 then farPieces s (devRanges s (s.ctx c) (coarseSegs s (s.ctx c) p)) else []

/-- A code page read again from its flash source: it is whole again, or poisoned where no level reads the source (R278,
R369). -/
def rereadCode (s : State) (n : Nat) : State :=
  let s0 := s.draw 1
  if sourceLost s0 then poisonCode (readSource (s0.draw 1) true) n (frameSite s n)
  else
    let s1 := readSource (s0.draw 1) false
    { s1 with tiers := { s1.tiers with poison := s1.tiers.poison.filter fun k => k != n } }

/-- Whether the rows of C of a coarse copy lie in a parked context's save areas and one of these is poisoned (R288). -/
def parkedPoison (s : State) (c : CtxId) (gs : List Seg) : Bool :=
  isParked s c && savePoison s (s.ctx c).part && gs.any fun g => g.sp == .buf

/-- Whether code pages are read again from flash while a forager takes no new request (R27, R369). -/
def sourceBusy (s : State) (pages : List Nat) : Bool := pages != [] && allChan.any (foragerBusy s)

/-- The fallback of prefetch `i` (R278). Its reads and writes, with the promotions that they cause, count as the partition's
(R317) and wait for its tokens (R316). -/
def runFallback (s : State) (c : CtxId) (i : Nat) (p : Pref) : Fell :=
  let p' := { p with done := true, fired := true }
  if p.fallback = 1 then
    let pages := codePagesOf p.rows
    let old (n : Nat) : Option (Nat × Bytes) := s.tiers.stale.find? fun q => q.1 == n
    if pages.all fun n => hasSource s n || (old n).isSome then
      match touchRanges s p.rows with
      | none => .wait
      | some s0 =>
      if p.rows.any (rangeBusy s) || sourceBusy s pages then .busy
      else if inDebt (s.part (s.ctx c).part) (dues s s0 p.rows) then .hold
      else
      let dirty := pages.any fun n => (old n).isSome
      let mem := pages.foldl (fun m n =>
        match old n with
        | some q => memPuts m (n * 2048) q.2
        | none => m) s0.tiers.mem
      let s1 := { s0 with tiers := { s0.tiers with
                    mem := mem
                    source := (pages.filter fun n => (old n).isSome) ++ s0.tiers.source
                    stale := s0.tiers.stale.filter fun q => !pages.contains q.1 } }
      let s2 := setPref (charge (pages.foldl rereadCode s1) (s.ctx c).part (dues s s0 p.rows)) c i p'
      .goOn (if dirty then degrade s2 c (if p.failed then 4 else 3) else s2)
    else .fault .deadline 0xE1 0
  else if p.fallback = 2 then
    let gs := coarseSegs s (s.ctx c) p
    match boundFault s c gs [] with
    | some t => .fault .addrRange 0xE0 (BitVec.ofNat 28 t.val)
    | none =>
      let l := devRanges s (s.ctx c) gs ++ p.rows
      match touchRanges s l with
      | none => .wait
      | some s0 =>
      if l.any (rangeBusy s) || gs.any (segBusy s (s.ctx c)) then .busy
      else if inDebt (s.part (s.ctx c).part) (dues s s0 l) then .hold
      else
      match gs.find? (segPoison s0 (s0.ctx c)) with
      | some g => .fault .poison (segUnit g) 0
      | none =>
        if parkedPoison s0 c gs then .fault .poison 0xE1 0
        else
        let r := coarseCopy (charge s0 (s.ctx c).part (dues s s0 l)) c p
        let s1 := setPref r.1 c i p'
        let x := s1.ctx c
        let trap := decide (trapping x (flToCtx r.2.fl) &&& 15#6 ≠ 0)
        let s2 := unitRaise (recordFlags (s1.setCtx c { x with numTrap := x.numTrap || trap }) c (flToCtx r.2.fl)) c 0xE1 r.2
        .goOn (degrade s2 c (if p.failed then 2 else 1))
  else .fault .deadline 0xE1 0

/-- What an instruction's accesses lead to. -/
inductive Gate where
  | go (s : State)
  | stop (s : State)
deriving DecidableEq, Repr

/-- Whether a prefetch that accesses of ranges hit has a say in them: it is not behind its first access, and has not moved
its data or has lost its tier (R126, R278). -/
def prefStands (l : List Range) (p : Pref) : Bool := !p.fired && (!p.done || p.failed) && prefHits p l

/-- Takes the prefetches that an instruction's accesses hit, in order: one whose move has finished has no effect, one whose
deadline has passed before that or whose tier failed runs its fallback, any other makes the instruction wait (R126, R278). -/
def gatePrefs (c : CtxId) (l : List Range) : List (Nat × Pref) → State → Gate
  | [], s => .go s
  | (i, p) :: t, s =>
    if !prefStands l p then gatePrefs c l t s
    else if p.failed || (p.deadline != 0 && decide (p.deadline.toNat ≤ s.time.now.toNat)) then
      if !(coarseFar s c p).all (farHere s) then .stop (blockCtx (askFar s (coarseFar s c p)) c .far)
      else match runFallback s c i p with
      | .goOn s1 => gatePrefs c l t s1
      | .wait => .stop (blockCtx s c .frame)
      | .hold => .stop s
      | .busy => .stop (stallCtx s c)
      | .fault k u d => .stop (faultCtx (setPref s c i { p with done := true, fired := true }) c k u 0 d)
    else .stop (blockCtx s c (.access i))

/-- The prefetches that accesses of ranges hit are behind their first access (R278). -/
def takePrefs (s : State) (c : CtxId) (l : List Range) : State :=
  let x := s.ctx c
  s.setCtx c { x with prefs := x.prefs.map fun p => if prefHits p l then { p with done := true, fired := true } else p }

/-- The prefetches of a context with their numbers. -/
def numbered (l : List Pref) : List (Nat × Pref) := (List.range l.length).zip l

/-- The accesses of an instruction that has passed its checks: bounds, prefetches, poison of what it reads, frames,
the tokens that its partition's regulators had in `s0`, where the instruction began, and the data of lease windows; then its
body, whose writes the segments `wr` name. An instruction that waits for tokens stays as it was (R316, R317, assumption 13); one
that waits for a block under reset, or reads a lease window and waits for the lender's data, is Blocked (R27, R84, R276, R357). -/
def accessAs (s0 s : State) (c : CtxId) (rd wr : List Seg) (body : State → State) : State :=
  match boundFault s c rd wr with
  | some t => faultCtx (scramble s c (wr.filter (segInBound s c true))) c .addrRange 0xE0 0 (BitVec.ofNat 28 t.val)
  | none =>
    let x := s.ctx c
    let ranges := devRanges s x (rd ++ wr)
    match gatePrefs c ranges (numbered x.prefs) s with
    | .stop s1 => s1
    | .go s1 =>
      match rd.find? (segPoison s1 (s1.ctx c)) with
      | some g => faultCtx (scramble s1 c wr) c .poison (segUnit g) 0 0
      | none =>
        match touchRanges s1 ranges with
        | none => blockCtx s1 c .frame
        | some s2 =>
        let l := dues s1 s2 ranges
        let s3 := charge s2 (s1.ctx c).part (moveDues s1 s2 ranges)
        let far := farPieces s2 (devRanges s2 (s2.ctx c) rd)
        if (rd ++ wr).any (segBusy s1 (s1.ctx c)) || (rd ++ wr).any (segBusy s2 (s2.ctx c)) then stallCtx s0 c
        else if inDebt (s0.part (s0.ctx c).part) l then s0
        else
        match rd.find? (segPoison s2 (s2.ctx c)) with
        | some g => faultCtx (scramble s3 c wr) c .poison (segUnit g) 0 0
        | none =>
          if !far.all (farHere s2) then blockCtx (askFar s3 far) c .far
          else body (preWrite (takeFar (charge (takePrefs s2 c ranges) (s1.ctx c).part l) far) (devRanges s2 (s2.ctx c) wr))

/-- The first accesses of an instruction. -/
def access (s : State) (c : CtxId) (rd wr : List Seg) (body : State → State) : State := accessAs s s c rd wr body

/-- Writes made through `wr` are settled and the instruction ends with its flags (R71, R289). -/
def finishWrites (s : State) (c : CtxId) (wr : List Seg) (fl : BitVec 6) : State :=
  finishInsn (settle s c wr) c fl

end Sys2Proof.Machine
end

