-- ==== Sys2Proof/Machine/Steps.lean ====
section
/-! DEFINITION. Batch steps of a context: fetching the next (R40, R84), starting one on cleared arrays (R42,
R301), the ratio monitor (R191 to R193), the answer header (R258), and ending one (R80, R280, R302). -/

namespace Sys2Proof.Machine

/-- A step request becomes the step of a Ready context: it is Runnable, and its flags, cause and fault record
are cleared (R42, R84, R506). -/
def takeStep (s : State) (c : CtxId) (r : StepReq) : State :=
  let x := s.ctx c
  s.setCtx c { x with st := .runnable, cur := some r, flags := 0, exc := .clear, frec := .clear, fpc := 0, count := r.count,
                      hout := [], houtFree := s.free, sums := [], views := [], scan1 := none, durs := [],
                      reason := 0, degTrap := false, degNow := false, numTrap := false, wait := .none, inStep := false }

/-- A Ready context takes the next step of its queue, if one waits (R40). -/
def nextStep (s : State) (c : CtxId) : State :=
  let x := s.ctx c
  match x.queue with
  | r :: rest =>
    if x.st = .ready then
      dispatch ((takeStep (s.setCtx c { x with queue := rest }) c r).draw r.outLen) x.part
    else s
  | [] => s

/-- Whether a step is a hive step (R351). -/
def StepReq.isHive (r : StepReq) : Bool :=
  match r.src with
  | .hive _ _ _ => true
  | .host _ _ => false

/-- The s-registers at the start of a step (R42): counts, then the parameters below `NPARAM`; a hive step's s15 always
holds the round in which it must send (R351). -/
def startRegs (s : State) (x : Ctx) (r : StepReq) : Vector (BitVec 64) 64 :=
  let np := fieldAt (s.slot x.slot).img 0x25 1
  vgen 64 fun i =>
    if i = 0 then BitVec.ofNat 64 r.count.toNat
    else if i = 1 then x.steps
    else if i < 16 then (if i - 2 < np ∨ (i = 15 ∧ r.isHive = true) then r.params.getD (i - 2) 0 else 0)
    else sget x (Fin.ofNat 64 i)

/-- Entry point of a slot's image (R47). -/
def entryOf (k : Slot) : BitVec 32 := BitVec.ofNat 32 (fieldAt k.img 0x0C 4)

/-- A context starts its step on cleared arrays and runs, in the slice that giving it the arrays begins or carries on (R42,
R301, R303). -/
def startStep (s : State) (c : CtxId) (p : PartId) : State :=
  let x := s.ctx c
  match x.cur with
  | none => s
  | some r =>
    let s1 := clearArrays s p
    let x' := { x with st := .running, sreg := startRegs s x r, preg := x.preg.set 0 (BitVec.allOnes 64),
                       pc := entryOf (s.slot x.slot), stack := [], flags := 0, exc := .clear, inStep := true, stepAt := s.time.now, sliceAt := s.time.now }
    (s1.setCtx c x').setPart p { giveSlice (s1.part p) c with sw := .idle, holder := some c }

/-! ## The ratio monitor -/

/-- The value of a BF16 code. -/
def bf16 (c : Nat) : XVal := ffDecode ffBF16 c

/-- Whether a closed ratio lies in a band (R192). -/
def inBand (b : Band) (r : BitVec 16) : Bool :=
  let le (x y : XVal) : Bool := xlt x y || xeq x y
  le (bf16 b.lo.toNat) (bf16 r.toNat) && le (bf16 r.toNat) (bf16 b.hi.toNat)

/-- A fresh monitor entry of a tensor with the band set on it (R193). -/
def monNew (tid : BitVec 32) (b : Option Band) : MonEnt :=
  { tid := tid, step := 0, count := 0, next := 0, band := b.isSome, outside := false,
    lo := (b.map fun q => q.lo).getD 0, hi := (b.map fun q => q.hi).getD 0,
    ratio := Vector.replicate 16 0, dd := 0, ww := 0, tag := false }

/-- A closed ratio recorded in an entry (R193). -/
def monClose (e : MonEnt) (step : BitVec 32) (r : BitVec 16) (out : Bool) (q : MonSum) : MonEnt :=
  { e with step := step, count := if e.count.toNat < 16 then e.count + 1 else e.count
           next := BitVec.ofNat 8 ((e.next.toNat + 1) % 16), outside := out
           ratio := e.ratio.set (e.next.toNat % 16) r (Nat.mod_lt _ (by decide)), dd := q.dd, ww := q.ww, tag := true }

/-- The entry that a tensor without one takes when none is free: the lowest `STEP`, then the lowest `TID`,
among those not closed in this step (R193). -/
def monVictim (l : List MonEnt) : Option MonEnt :=
  minBy (fun e => e.step.toNat * 2 ^ 32 + e.tid.toNat) (l.filter fun e => !e.tag)

/-- One tensor's sums closed into the table (R193). -/
def monRecord (l : List MonEnt) (step : BitVec 32) (b : Option Band) (r : BitVec 16) (q : MonSum) : List MonEnt :=
  let out := (b.map fun v => !inBand v r).getD false
  if l.any fun e => e.tid == q.tid then l.map fun e => if e.tid = q.tid then monClose e step r out q else e
  else
    let new := monClose (monNew q.tid b) step r out q
    if l.length < 64 then l ++ [new]
    else
      match monVictim l with
      | some v => l.map fun e => if e.tid = v.tid then new else e
      | none => l

/-- Every tensor's sums of the step closed in ascending `TID`, with event 0x0001 for a ratio outside its band
(R191 to R193). -/
def closeMonitor (s : State) (c : CtxId) : State :=
  let x := s.ctx c
  let step : BitVec 32 := x.steps.truncate 32
  let s0 := s.setCtx c { x with mon := x.mon.map fun e => { e with tag := false }, sums := [] }
  (sortBy (fun q => q.tid.toNat) x.sums).foldl (fun st q =>
    let b := x.bands.find? fun v => v.tid == q.tid
    let r := closeRatio q.dd q.ww
    let y := st.ctx c
    let s1 := st.setCtx c { y with mon := monRecord y.mon step b r q }
    match b with
    | some v =>
      if inBand v r then s1
      else raiseEvent s1 c 0x0001 (BitVec.ofNat 64 (q.tid.toNat + r.toNat * 2 ^ 32))
    | none => s1) s0

/-! ## The answer header -/

/-- The 64 bytes of the answer header (R258). -/
def answerHeader (x : Ctx) (v : ScanInfo) : Bytes :=
  [0x4F, 0x58, 0x41, 0x48] ++ toLe 2 1 ++ toLe 1 x.count.toNat ++ toLe 1 v.view.idx.val ++
  toLe 4 v.view.g.toNat ++ toLe 4 (v.view.b.toNat - v.view.sbase.toNat) ++ toLe 8 v.view.b.toNat ++
  toLe 6 v.view.stamp.toNat ++ toLe 2 v.view.seq.toNat ++ toLe 2 v.k.toNat ++
  toLe 2 (if v.mode = 0 then v.nprobe.toNat else 0) ++
  toLe 1 (b2n (bitOf x.flags 5) + 2 * b2n (bitOf x.flags 4) + 4 * b2n v.view.pinned + 8 * v.mode.toNat) ++
  toLe 1 x.reason.toNat ++ toLe 26 0

/-- Writes as much of the answer header as the output range holds (R258). -/
def writeHeader (s : State) (c : CtxId) : State :=
  let x := s.ctx c
  match x.scan1, x.cur with
  | some v, some r => putN s c .hout 0 0 ((answerHeader x v).take r.outLen)
  | _, _ => s

/-! ## The end of a step -/

/-- Whether every APND of the step is durable (R64). -/
def allDurable (s : State) (x : Ctx) : Bool :=
  x.durs.all fun p => decide (p.2.toNat ≤ (s.index p.1).durable.toNat)

/-- The answers a hive step sent carry the drive's own coverage bit once it has completed without fault (R352). -/
def sentOk (s : State) (c : CtxId) : State :=
  if ((s.ctx c).cur.map StepReq.isHive).getD false = false then s
  else { s with fab := { s.fab with slots := s.fab.slots.map fun m => if m.ctx = c ∧ m.ready = true then { m with own := true } else m } }

/-- The slice of a context that ends its step: its time in Running so far (R303). -/
def sliceKept (s : State) (x : Ctx) (c : CtxId) : Option (CtxId × Nat) :=
  some (c, sliceUsed (s.part x.part) c + (s.time.now.toNat - x.sliceAt.toNat))

/-- The slice goes on only where the scheduler keeps the arrays with the context (R303). -/
def keepSlice (s : State) (p : PartId) (c : CtxId) : State :=
  if (s.part p).sw = .clear c then s else s.setPart p (noSlice (s.part p))

/-- A step ends: the header, the monitor, event 0x0003, the completion, and the context is Ready with nothing
held (R80, R191, R258, R280, R302). DEDUCED: R80's number of bytes the step wrote counts a byte of the output range
once, however often it was written (assumption 29). -/
def endStep (s : State) (c : CtxId) : State :=
  let s1 := closeMonitor (writeHeader (leaveRunning s c) c) c
  let s2 := if bitOf (s1.ctx c).flags 4 then raiseEvent s1 c 0x0003 0 else s1
  let x := s2.ctx c
  let s3 := match x.cur with
    | some r => completeStep s2 r .success ((x.flags.zeroExtend 32)) (BitVec.ofNat 32 x.hout.length) (houtBytes x r.outLen)
    | none => s2
  let pt := s3.part x.part
  let s4 := s3.setPart x.part { pt with holder := (if pt.holder = some c then none else pt.holder), slice := sliceKept s x c }
  let s5 := (sentOk s4 c).setCtx c { s4.ctx c with
    st := .ready, cur := none, hout := [], views := [], scan1 := none, durs := [], wait := .none, inStep := false, sending := none,
    steps := x.steps + 1, prefs := x.prefs.filter fun p => !p.fired }
  keepSlice (dispatch (nextStep s5 c) x.part) x.part c

end Sys2Proof.Machine
end

