-- ==== Sys2Proof/Machine/Control.lean ====
section
/-! DEFINITION. The control instructions and the events that end their waits (03, R87, R101 to R104; 02, R45,
R46, R64). -/

namespace Sys2Proof.Machine

/-- `IMMA` of a control instruction (R89). -/
def fIMMA (w : Insn) : BitVec 32 := w.opr.extractLsb' 32 32

/-- `IMMB` of a control instruction (R89). -/
def fIMMB (w : Insn) : BitVec 32 := w.opr.extractLsb' 64 32

/-- `LEN` of LOOP (R89). -/
def fLEN (w : Insn) : Nat := bitsOf w.opr 55 32

/-- The state with a context's program counter and loop stack set. -/
def jump (s : State) (c : CtxId) (pc : BitVec 32) (st : List Frame) : State :=
  s.setCtx c { s.ctx c with pc := pc, stack := st }

/-- The operand fields LOOP uses: `SA` or `IMMB`, `SB` where `IDX` is set, `LEN`. -/
def loopMask (w : Insn) : Nat :=
  (if modB w 96 then maskBits 95 64 else maskBits 5 0) + (if modB w 97 then maskBits 11 6 else 0) + maskBits 55 32

/-- Checks at issue of LOOP (R97, R103). -/
def loopIss (w : Insn) : List Iss :=
  layoutIss w 0 (loopMask w) 0x3 ++ failIf (fLEN w == 0) (iss .rsvdField)

/-- LOOP takes effect (R101): a count of zero skips the body, any other pushes a frame (R46). -/
def loopBody (c : CtxId) (w : Insn) (s : State) : State :=
  let x := s.ctx c
  let n : BitVec 64 := if modB w 96 then (fIMMB w).zeroExtend 64 else sget x (sreg w 0)
  if n = 0 then jump s c (x.pc + BitVec.ofNat 32 (fLEN w) + 1) x.stack
  else if 8 ≤ x.stack.length then faultSeq s c .stackOver 0 0
  else
    let idx := if modB w 97 then some (sreg w 6) else none
    let x' := match idx with
      | some i => sput x i 0
      | none => x
    jump (s.setCtx c x') c (x.pc + 1) (.loop (x.pc + 1) (BitVec.ofNat 32 (fLEN w)) n idx :: x.stack)

/-- LOOP (R101). -/
def execLoop (c : CtxId) (w : Insn) (s : State) : Res := .next (issue s c w false (loopIss w) (loopBody c w))

/-- Pops the loop frames whose bodies do not hold the target (R101). -/
def popTo (target : BitVec 32) : List Frame → List Frame
  | .loop start len left idx :: t =>
    if start.toNat ≤ target.toNat ∧ target.toNat ≤ start.toNat + len.toNat - 1 then .loop start len left idx :: t
    else popTo target t
  | st => st

/-- The lanes BR tests: bits below min(count, 64) (R88, R101). -/
def brLanes (x : Ctx) : BitVec 64 := BitVec.ofNat 64 (2 ^ min x.count.toNat 64 - 1)

/-- Whether BR is taken (R101). -/
def brTaken (x : Ctx) (w : Insn) : Bool :=
  let v := predVal x w &&& brLanes x
  match modF w 97 96 with
  | 0 => v != 0
  | 1 => v == brLanes x
  | _ => v == 0

/-- BR takes effect (R101). -/
def brBody (c : CtxId) (w : Insn) (s : State) : State :=
  let x := s.ctx c
  if brTaken x w then jump s c (x.pc + fIMMA w) (popTo (x.pc + fIMMA w) x.stack) else finishInsn s c 0

/-- BR (R101); its predicate is the tested register (R87). -/
def execBr (c : CtxId) (w : Insn) (s : State) : Res :=
  .next (issue s c w true (layoutIss w 0 (maskBits 63 32) 0x3 ++ failIf (modF w 97 96 == 3) (iss .rsvdField)) (brBody c w))

/-- CALL takes effect (R46, R101). -/
def callBody (c : CtxId) (w : Insn) (s : State) : State :=
  let x := s.ctx c
  if 8 ≤ x.stack.length then faultSeq s c .stackOver 0 0
  else jump s c (x.pc + fIMMA w) (.call (x.pc + 1) :: x.stack)

/-- CALL (R101). -/
def execCall (c : CtxId) (w : Insn) (s : State) : Res :=
  .next (issue s c w false (layoutIss w 0 (maskBits 63 32) 0) (callBody c w))

/-- RET takes effect (R46, R80, R101): on an empty stack it ends the step once the step's APNDs are durable
(R64). DESIGN CHOICE: the wait is a Blocked one, which R84 does not list (assumption 31). -/
def retBody (c : CtxId) (s : State) : State :=
  let x := s.ctx c
  match x.stack with
  | [] => if allDurable s x then endStep s c else blockCtx s c .fence
  | .loop _ _ _ _ :: _ => faultSeq s c .stackMismatch 0 0
  | .call r :: t => jump s c r t

/-- RET (R101). -/
def execRet (c : CtxId) (w : Insn) (s : State) : Res :=
  .next (issue s c w false (layoutIss w 0 0 0) (retBody c))

/-- The time WAITT waits for: the exact sum of s[`SA`] and the signed adjustment (R104). -/
def waitTarget (x : Ctx) (w : Insn) : Int := (sv x (sreg w 0) : Int) + (fIMMB w).toInt

/-- WAITT takes effect (R101, R104). -/
def waittBody (c : CtxId) (w : Insn) (s : State) : State :=
  let t := waitTarget (s.ctx c) w
  if t ≤ s.time.now.toNat then finishInsn s c 0 else blockCtx s c (.time t)

/-- WAITT (R101). -/
def execWaitt (c : CtxId) (w : Insn) (s : State) : Res :=
  .next (issue s c w false (layoutIss w 0 (maskBits 5 0 + maskBits 95 64) 0) (waittBody c w))

/-- The end of a waiting instruction: it completes, and the context's wait is satisfied (R84). -/
def finishWait (s : State) (c : CtxId) (fl : BitVec 6) : State := unblockCtx (finishInsn s c fl) c

/-- WAITT_EXPIRY: the time counter has reached the target of a waiting WAITT (R104). -/
def execWaittExpiry (c : CtxId) (s : State) : Res :=
  match (s.ctx c).wait with
  | .time t => .next (if t ≤ s.time.now.toNat then finishWait s c 0 else s)
  | _ => .next s

/-- BAR takes effect: every earlier instruction has completed, so a local BAR completes; with `SCOPE` 1 it
waits for the next round, and faults with no schedule loaded (R101, R104). -/
def barBody (c : CtxId) (w : Insn) (s : State) : State :=
  if modB w 96 then
    if s.fab.sched.isNone && s.fab.pend.isNone then faultCtx s c .fabric 0xE2 0 0
    else blockCtx s c (.bar s.fab.round)
  else finishInsn s c 0

/-- BAR (R101). -/
def execBar (c : CtxId) (w : Insn) (s : State) : Res := .next (issue s c w false (layoutIss w 0 0 0x1) (barBody c w))

/-- BAR_RELEASE: a hive round has started since a waiting BAR issued (R101). -/
def execBarRelease (c : CtxId) (s : State) : Res :=
  match (s.ctx c).wait with
  | .bar r => .next (if (s.ctx c).rang || decide (r.toNat < s.fab.round.toNat) then finishWait s c 0 else s)
  | _ => .next s

/-- FENCE takes effect: `DUR` waits until every earlier APND is durable; `ORD` finds every earlier write
complete, since an instruction is one step (R101). DESIGN CHOICE: the wait is a Blocked one, which R84 does not list (assumption 31). -/
def fenceBody (c : CtxId) (w : Insn) (s : State) : State :=
  if modB w 96 && !allDurable s (s.ctx c) then blockCtx s c .fence else finishInsn s c 0

/-- FENCE (R101). -/
def execFence (c : CtxId) (w : Insn) (s : State) : Res :=
  .next (issue s c w false (layoutIss w 0 0 0x3) (fenceBody c w))

end Sys2Proof.Machine
end

