-- ==== Sys2Proof/Machine/Scalar.lean ====
section
/-! DEFINITION. The scalar instructions (03, R90, R105, R106). -/

namespace Sys2Proof.Machine

/-- `SD` as an s-register (R90). -/
def fSD (w : Insn) : Fin 64 := sreg w 0

/-- `SA` as an s-register (R90). -/
def fSA (w : Insn) : Fin 64 := sreg w 6

/-- `IMM` (R90). -/
def fIMM (w : Insn) : Bool := bitOf w.opr 23

/-- `IMM64` (R90). -/
def fIMM64 (w : Insn) : BitVec 64 := w.opr.extractLsb' 32 64

/-- `TR` (R90). -/
def fTR (w : Insn) : Fin 32 := treg w 18

/-- The second source x: s[`SB`], or `IMM64` where `IMM` is 1 (R105). -/
def srcX (x : Ctx) (w : Insn) : BitVec 64 := if fIMM w then fIMM64 w else sget x (sreg w 12)

/-- The second source's field, used by form (R90, R92). -/
def mX (w : Insn) : Nat := if fIMM w then maskBits 23 23 + maskBits 95 32 else maskBits 17 12

/-- A two-source scalar instruction that writes s[`SD`]. -/
def runAlu (s : State) (c : CtxId) (w : Insn) (f : BitVec 64 → BitVec 64 → BitVec 64) : Res :=
  .next (issue s c w false (layoutIss w 1 (maskBits 11 0 + mX w) 0) fun st =>
    let x := st.ctx c
    finishInsn (st.setCtx c (sput x (fSD w) (f (sget x (fSA w)) (srcX x w)))) c 0)

/-- The shift count x[5:0] (R105). -/
def sh (x : BitVec 64) : Nat := x.toNat % 64

/-- ADD (R105). -/
def execAdd (c : CtxId) (w : Insn) (s : State) : Res := runAlu s c w fun a x => a + x

/-- SUB (R105). -/
def execSub (c : CtxId) (w : Insn) (s : State) : Res := runAlu s c w fun a x => a - x

/-- MUL (R105). -/
def execMul (c : CtxId) (w : Insn) (s : State) : Res := runAlu s c w fun a x => a * x

/-- AND (R105). -/
def execAnd (c : CtxId) (w : Insn) (s : State) : Res := runAlu s c w fun a x => a &&& x

/-- OR (R105). -/
def execOr (c : CtxId) (w : Insn) (s : State) : Res := runAlu s c w fun a x => a ||| x

/-- XOR (R105). -/
def execXor (c : CtxId) (w : Insn) (s : State) : Res := runAlu s c w fun a x => a ^^^ x

/-- SHL (R105). -/
def execShl (c : CtxId) (w : Insn) (s : State) : Res := runAlu s c w fun a x => a <<< sh x

/-- SHR (R105). -/
def execShr (c : CtxId) (w : Insn) (s : State) : Res := runAlu s c w fun a x => a >>> sh x

/-- SRA (R105). -/
def execSra (c : CtxId) (w : Insn) (s : State) : Res := runAlu s c w fun a x => a.sshiftRight (sh x)

/-- MINU (R105). -/
def execMinu (c : CtxId) (w : Insn) (s : State) : Res :=
  runAlu s c w fun a x => if a.toNat ≤ x.toNat then a else x

/-- MAXU (R105). -/
def execMaxu (c : CtxId) (w : Insn) (s : State) : Res :=
  runAlu s c w fun a x => if a.toNat ≤ x.toNat then x else a

/-- The condition of CMP (R105). -/
def cmpCond (q : Nat) (a x : BitVec 64) : Bool :=
  match q with
  | 0 => a == x
  | 1 => a != x
  | 2 => decide (a.toNat < x.toNat)
  | 3 => decide (x.toNat ≤ a.toNat)
  | 4 => decide (a.toInt < x.toInt)
  | _ => decide (x.toInt ≤ a.toInt)

/-- The p-register that the field at `lo` names (R90). -/
def pregAt (w : Insn) (lo : Nat) : Fin 8 := Fin.ofNat 8 (bitsOf w.opr (lo + 2) lo)

/-- CMP (R105): all ones or zero into a p-register. -/
def execCmp (c : CtxId) (w : Insn) (s : State) : Res :=
  .next (issue s c w false
    (layoutIss w 1 (maskBits 2 0 + maskBits 11 6 + mX w) 0xF ++ failIf (decide (6 ≤ modF w 99 96)) (iss .rsvdField))
    fun st =>
      let x := st.ctx c
      let v := if cmpCond (modF w 99 96) (sget x (fSA w)) (srcX x w) then BitVec.allOnes 64 else 0
      finishInsn (st.setCtx c (pput x (pregAt w 0) v)) c 0)

/-- LDI (R105). -/
def execLdi (c : CtxId) (w : Insn) (s : State) : Res :=
  .next (issue s c w false (layoutIss w 1 (maskBits 5 0 + maskBits 95 32) 0) fun st =>
    finishInsn (st.setCtx c (sput (st.ctx c) (fSD w) (fIMM64 w))) c 0)

/-- PMOV (R105): between an s-register and a p-register, by `DIR`. -/
def execPmov (c : CtxId) (w : Insn) (s : State) : Res :=
  .next (issue s c w false
    (layoutIss w 1 (if modB w 96 then maskBits 5 0 + maskBits 8 6 else maskBits 2 0 + maskBits 11 6) 1) fun st =>
      let x := st.ctx c
      let x' := if modB w 96 then sput x (fSD w) (pget x (pregAt w 6)) else pput x (pregAt w 0) (sget x (fSA w))
      finishInsn (st.setCtx c x') c 0)

/-- Byte offset s[`SA`] + x of LDS and STS (R105). -/
def lsOff (x : Ctx) (w : Insn) : Nat := (sget x (fSA w) + srcX x w).toNat

/-- The 8 bytes that LDS or STS names. -/
def lsSeg (s : State) (x : Ctx) (w : Insn) (d : Desc) : Seg :=
  { t := fTR w, sp := d.space, arr := arr0 s x, off := d.base + lsOff x w, len := 8 }

/-- Checks at issue of LDS and STS (R97, R106, R527). -/
def lsIss (s : State) (c : CtxId) (w : Insn) (store : Bool) : List Iss :=
  let x := s.ctx c
  layoutIss w 1 (maskBits 11 0 + maskBits 22 18 + mX w) 0 ++
  match descOf (tget x (fTR w)) with
  | none => [iss .rsvdField]
  | some d =>
    failIf (d.space == .acc) (iss .rsvdField) ++
    failIf (decide (lsOff x w % 8 ≠ 0) || decide (d.dataEnd - d.base < lsOff x w + 8))
      { cause := .descRange, dim := 0, detail := (fTR w).val } ++
    (if store then rdonlyIss (fTR w) d ++ devWriteIss s c [lsSeg s x w d] else [])

/-- LDS (R105, R106). -/
def execLds (c : CtxId) (w : Insn) (s : State) : Res :=
  .next (issue s c w false (lsIss s c w false) fun st =>
    match descOf (tget (st.ctx c) (fTR w)) with
    | none => st
    | some d =>
      let g := lsSeg st (st.ctx c) w d
      access st c [g] [] fun st1 =>
        let x := st1.ctx c
        finishInsn (st1.setCtx c (sput x (fSD w) (BitVec.ofNat 64 (leNat (readN st1 x g.sp g.arr g.off 8))))) c 0)

/-- STS (R105, R106, R60). -/
def execSts (c : CtxId) (w : Insn) (s : State) : Res :=
  .next (issue s c w false (lsIss s c w true) fun st =>
    match descOf (tget (st.ctx c) (fTR w)) with
    | none => st
    | some d =>
      let g := lsSeg st (st.ctx c) w d
      access st c [] [g] fun st1 =>
        finishWrites (putN st1 c g.sp g.arr g.off (toLe 8 (sget (st1.ctx c) (fSD w)).toNat)) c [g] 0)

end Sys2Proof.Machine
end

