-- ==== Sys2Proof/Machine/ElemOps.lean ====
section
/-! DEFINITION. The instructions that work row by row or element by element: TOPK, REQ, SRND and UPDW (03,
R116 to R122, R527; 05, R170 to R191). -/

namespace Sys2Proof.Machine

/-- The run-time M and row length of an elementwise instruction against its operands (R122). -/
def elemShape (m l : Nat) (ds : List Desc) : List Iss :=
  shapeIss 0 m ((ds.map Desc.rows).foldl min (2 ^ 64)) ++ shapeIss 1 l ((ds.map fun d => d.e0).foldl min (2 ^ 64))

/-! ## TOPK -/

/-- The IDs that never count as entries (R116). -/
def noId : Nat := 0xFFFFFFFFFFFFFFFF

/-- A candidate of TOPK. -/
structure Cand where
  code : Nat
  id   : Nat
  src  : Nat
  pos  : Nat
deriving DecidableEq, Repr

/-- The sort key of a candidate: distance code, ID, source, position (R116). -/
def candKey (q : Cand) : Nat := q.code * 2 ^ 128 + q.id * 2 ^ 64 + q.src * 2 ^ 63 + q.pos

/-- The k best of the candidates (R33, R116). -/
def bestOf (k : Nat) (l : List Cand) : List Cand :=
  (sortBy candKey (l.filter fun q => q.id != noId)).take k

/-- Writes one row of distance codes and IDs, padded to k with +∞ codes and IDs of all ones (R116, R241). -/
def putBest (s : State) (c : CtxId) (d d1 : Desc) (a : ArrId) (row k : Nat) (best : List (Nat × Nat)) : State :=
  (List.range k).foldl (fun st j =>
    let e := best.getD j (distInf.toNat, noId)
    wrCode (wrCode st c d a row j e.1) c d1 a row j e.2) s

/-- The operands of TOPK: A, B unless `POSID`, D and the next descriptor. -/
structure TopkOps where
  da : Desc
  db : Option Desc
  dd : Desc
  dn : Desc
deriving Repr

/-- The operands of TOPK, none where a descriptor holds a reserved code. -/
def topkOps (x : Ctx) (w : Insn) : Option TopkOps :=
  match descOf (tget x (fTA w)), descOf (tget x (fTD w)), descOf (tget x (fTD w + 1)),
      (if modB w 104 then some none else (descOf (tget x (fTB w))).map some) with
  | some da, some dd, some dn, some db => some { da := da, db := db, dd := dd, dn := dn }
  | _, _, _, _ => none

/-- What TOPK reads. -/
def topkRd (x : Ctx) (w : Insn) (o : TopkOps) (a : ArrId) : List Seg :=
  let m := sv x (fSM w)
  let k := sv x (fSN w)
  let l := sv x (fSK w)
  let f := offsOf x w
  let rows := (List.range m).filter (laneActs x w)
  rows.flatMap fun i =>
    rowsSegs (fTA w) o.da a (f.a + i) 1 l ++
    (match o.db with
     | some d => rowsSegs (fTB w) d a (f.b + i) 1 l
     | none => []) ++
    (if modB w 102 then rowsSegs (fTD w) o.dd a (f.d + i) 1 k ++ rowsSegs (fTD w + 1) o.dn a (f.d + i) 1 k else [])

/-- What a pair of outputs writes: k codes and IDs in each acting row. -/
def pairWr (x : Ctx) (w : Insn) (dd dn : Desc) (a : ArrId) (m k d : Nat) (all : Bool) : List Seg :=
  ((List.range m).filter fun i => all || laneActs x w i).flatMap fun i =>
    rowsSegs (fTD w) dd a (d + i) 1 k ++ rowsSegs (fTD w + 1) dn a (d + i) 1 k

/-- Checks at issue of TOPK (R97, R116, R527). -/
def topkIss (s : State) (c : CtxId) (w : Insn) : List Iss :=
  let x := s.ctx c
  let m := sv x (fSM w)
  let k := sv x (fSN w)
  let l := sv x (fSK w)
  let f := offsOf x w
  layoutIss w 2 (mTD + mTA + (if modB w 104 then 0 else mTB) + mSM + mSN + mSK + mOFF w) 0x1C0 ++ offsIss w ++
  failIf (fTD w == 31) (iss .rsvdField) ++
  match topkOps x w with
  | none => [iss .rsvdField]
  | some o =>
    let bs := o.db.toList
    failIf (o.da.fmt != .dist || o.dd.fmt != .dist || o.dn.fmt != .vid || bs.any (fun d => d.fmt != .vid) ||
        (o.da :: o.dd :: o.dn :: bs).any (fun d => d.space == .acc)) (iss .rsvdField) ++
    shapeIss 0 m ((([o.da, o.dd, o.dn] ++ bs).map Desc.rows).foldl min (2 ^ 64)) ++
    shapeIss 1 k (min 1024 (min o.dd.e0 o.dn.e0)) ++
    shapeIss 2 l (((o.da :: bs).map fun d => d.e0).foldl min (2 ^ 64)) ++
    rowsIss (fTA w) (f.a + m) o.da ++ (bs.flatMap fun d => rowsIss (fTB w) (f.b + m) d) ++
    rowsIss (fTD w) (f.d + m) o.dd ++ rowsIss (fTD w + 1) (f.d + m) o.dn ++
    rdonlyIss (fTD w) o.dd ++ rdonlyIss (fTD w + 1) o.dn ++
    devWriteIss s c (pairWr x w o.dd o.dn 0 m k f.d true)

/-- The candidates of row `i` (R116). -/
def topkCands (s : State) (x : Ctx) (w : Insn) (o : TopkOps) (a : ArrId) (i : Nat) : List Cand :=
  let k := sv x (fSN w)
  let l := sv x (fSK w)
  let f := offsOf x w
  (if modB w 102 then (List.range k).map fun j =>
      { code := rdCode s x o.dd a (f.d + i) j, id := rdCode s x o.dn a (f.d + i) j, src := 0, pos := j : Cand }
   else []) ++
  (List.range l).map fun j =>
    { code := rdCode s x o.da a (f.a + i) j
      id := (match o.db with
        | some d => rdCode s x d a (f.b + i) j
        | none => (j + f.b) % 2 ^ 64)
      src := 1, pos := j : Cand }

/-- One row of TOPK, from the bytes as the rows before it left them, and whether it or one before it came short (R116). -/
def topkRow (x : Ctx) (c : CtxId) (w : Insn) (o : TopkOps) (a : ArrId) (acc : State × Bool) (i : Nat) : State × Bool :=
  let k := sv x (fSN w)
  let best := bestOf k (topkCands acc.1 (acc.1.ctx c) w o a i)
  (putBest acc.1 c o.dd o.dn a ((offsOf x w).d + i) k (best.map fun q => (q.code, q.id)), acc.2 || decide (best.length < k))

/-- TOPK takes effect (R116, R117). -/
def topkBody (c : CtxId) (w : Insn) (s : State) : State :=
  let x := s.ctx c
  let m := sv x (fSM w)
  let k := sv x (fSN w)
  match topkOps x w with
  | none => s
  | some o =>
    if m = 0 ∨ k = 0 then finishInsn s c 0
    else
      let a := arr0 s x
      let wr := pairWr x w o.dd o.dn a m k (offsOf x w).d false
      access s c (topkRd x w o a) wr fun s0 =>
        let r := ((List.range m).filter (laneActs x w)).foldl (topkRow x c w o a) (s0, false)
        finishWrites r.1 c wr (if r.2 then ctxShort else 0)

/-- TOPK (R116). -/
def execTopk (c : CtxId) (w : Insn) (s : State) : Res := .next (issue s c w true (topkIss s c w) (topkBody c w))

/-! ## REQ and SRND -/

/-- The operands of REQ and SRND: A, C where `USEC` is 1, D. -/
structure ReqOps where
  da : Desc
  dc : Option Desc
  dd : Desc
deriving Repr

/-- The operands of REQ and SRND, none where a descriptor holds a reserved code. -/
def reqOps (x : Ctx) (w : Insn) (isReq : Bool) : Option ReqOps :=
  match descOf (tget x (fTA w)), descOf (tget x (fTD w)),
      (if isReq && modB w 102 then (descOf (tget x (fTC w))).map some else some none) with
  | some da, some dd, some dc => some { da := da, dc := dc, dd := dd }
  | _, _, _ => none

/-- Whether the conversion rounds stochastically. -/
def reqSrm (w : Insn) (isReq : Bool) : Bool := !isReq || modB w 104

/-- Whether D's scales are computed or published first (`SCALC`). -/
def reqScalc (w : Insn) (isReq : Bool) (d : Desc) : Bool := isReq && modB w 105 && d.smode != 0

/-- The parameter bytes that a learned destination reads (R175, R176). -/
def sigmaSegs (w : Insn) (d : Desc) (a : ArrId) (r m : Nat) : List Seg :=
  (List.range m).map fun i => { t := fTD w, sp := d.space, arr := a, off := d.sigmaOff (r + i) 0, len := 2 * d.nblk }

/-- The bound of a space whose extents are checked at load (R57, R177); none for the others. -/
def spaceBound (s : State) (x : Ctx) : Space → Option Nat
  | .buf => some Config.bufBytes
  | .acc => some Config.accBytes
  | .const => some (constSize (s.slot x.slot))
  | .workn => some x.wnSize
  | .workf => some x.wfSize
  | _ => none

/-- A parameter array read beyond the bound of its space (R177). -/
def sigmaIss (s : State) (x : Ctx) (w : Insn) (d : Desc) (r m : Nat) : List Iss :=
  match spaceBound s x d.space with
  | some b => failIf (decide (0 < m) && decide (b < d.sigmaOff (r + m - 1) (d.nblk - 1) + 2))
      { cause := .addrRange, dim := 0, detail := (fTD w).val }
  | none => []

/-- What REQ and SRND read. -/
def reqRd (x : Ctx) (w : Insn) (isReq : Bool) (o : ReqOps) (a : ArrId) : List Seg :=
  let m := sv x (fSM w)
  let l := sv x (fSK w)
  let f := offsOf x w
  rowsSegs (fTA w) o.da a f.a m l ++
  (match o.dc with
   | some d => rowsSegs (fTC w) d a f.c m l
   | none => []) ++
  (if reqScalc w isReq o.dd then (if o.dd.learned then sigmaSegs w o.dd a f.d m else [])
   else (List.range m).flatMap fun i => scaleSegs (fTD w) o.dd a (f.d + i) (List.range (ceilDiv l 32)))

/-- What REQ and SRND write. -/
def reqWr (x : Ctx) (w : Insn) (isReq : Bool) (o : ReqOps) (a : ArrId) : List Seg :=
  let m := sv x (fSM w)
  let l := sv x (fSK w)
  let f := offsOf x w
  (List.range m).flatMap fun i =>
    (if l = 0 then [] else [rowSeg (fTD w) o.dd a (f.d + i) l]) ++
    (if reqScalc w isReq o.dd then scaleSegs (fTD w) o.dd a (f.d + i) (List.range o.dd.nblk) else [])

/-- Operand and modifier masks of REQ and SRND (R92, R118, R119). -/
def reqMasks (w : Insn) (isReq : Bool) : Nat × Nat :=
  let base := mTD + mTA + mSM + mSK + mOFF w
  if isReq then
    (base + mSP1 + (if modB w 102 then mTC + mSP2 else 0) + (if modB w 104 then mSS else 0), 0x3C0)
  else (base + mSS, 0x80)

/-- Checks at issue of REQ and SRND (R97, R118, R119, R122, R177, R527). -/
def reqIss (s : State) (c : CtxId) (w : Insn) (isReq : Bool) : List Iss :=
  let x := s.ctx c
  let k := reqMasks w isReq
  let m := sv x (fSM w)
  let l := sv x (fSK w)
  let f := offsOf x w
  layoutIss w 2 k.1 k.2 ++ offsIss w ++
  match reqOps x w isReq with
  | none => [iss .rsvdField]
  | some o =>
    let cs := o.dc.toList
    failIf ((o.da :: o.dd :: cs).any (fun d => !fmtArith d.fmt || d.space == .acc) ||
      (reqSrm w isReq && decide (2 ^ 48 < o.dd.elems))) (iss .rsvdField) ++
    elemShape m l (o.da :: o.dd :: cs) ++
    rowsIss (fTA w) (f.a + m) o.da ++ rowsIss (fTD w) (f.d + m) o.dd ++ (cs.flatMap fun d => rowsIss (fTC w) (f.c + m) d) ++
    rdonlyIss (fTD w) o.dd ++ devWriteIss s c (reqWr x w isReq o 0) ++
    (if reqScalc w isReq o.dd && o.dd.learned then sigmaIss s x w o.dd f.d m else [])

/-- A BF16 parameter in bits [15:0] of an s-register. -/
def bfParam (x : Ctx) (i : Fin 64) : XVal := ffDecode ffBF16 (sv x i % 65536)

/-- A product with a BF16 parameter, rounded to binary32 (R118). -/
def scaleBy (p : XVal) (v : XVal × Fl) : BitVec 32 × Fl :=
  let r := rne32f (xmul p v.1)
  (r.1, nanFl p ||| v.2 ||| r.2)

/-- v of element `i` of run-time row `m` (R118, R119). -/
def reqVal (s : State) (x : Ctx) (w : Insn) (isReq : Bool) (o : ReqOps) (a : ArrId) (m i : Nat) : XVal × Fl :=
  let f := offsOf x w
  let v := rdVal s x o.da a (f.a + m) i
  if !isReq then v
  else
    let p := scaleBy (bfParam x (fSP1 w)) v
    match o.dc with
    | none => (val32 p.1, p.2)
    | some d =>
      let q := scaleBy (bfParam x (fSP2 w)) (rdVal s x d a (f.c + m) i)
      let r := fadd p.1 q.1
      (val32 r.1, p.2 ||| q.2 ||| r.2)

/-- The block scales that a row converts with, and the records of publishing learned ones (R172 to R176, R185). DESIGN CHOICE: a
flag of publishing one records the first element of its block in n, where R165 has an element index (assumption 31). -/
def reqScales (s : State) (x : Ctx) (w : Insn) (isReq : Bool) (o : ReqOps) (a : ArrId) (m : Nat) (vals : List XVal) :
    List (Nat × Exc) :=
  let r := (offsOf x w).d + m
  (List.range o.dd.nblk).map fun b =>
    if reqScalc w isReq o.dd then
      (if o.dd.learned then
        let q := learnScale o.dd.smode (leNat (readN s x o.dd.space a (o.dd.sigmaOff r b) 2))
        (q.1, raiseAt q.2 m (32 * b) 0)
       else (calcScale o.dd ((vals.drop (32 * b)).take 32), .none))
    else (rdScale s x o.dd a r b, .none)

/-- One row of REQ or SRND: its scales where `SCALC` writes them, then its elements. DESIGN CHOICE: where D's earlier rows overlap
A, C or the scales, what is read is what they held before the instruction, since R118 and R122 give no order (assumption 31). -/
def reqRow (s0 : State) (x : Ctx) (c : CtxId) (w : Insn) (isReq : Bool) (o : ReqOps) (a : ArrId)
    (acc : State × Exc) (m : Nat) : State × Exc :=
  let l := sv x (fSK w)
  let r := (offsOf x w).d + m
  let vals := (List.range l).map (reqVal s0 x w isReq o a m)
  let scs := reqScales s0 x w isReq o a m (vals.map Prod.fst)
  let s1 := if reqScalc w isReq o.dd then
      (List.range o.dd.nblk).foldl (fun st b => wrScale st c o.dd a r b (scs.getD b (0, .none)).1) acc.1
    else acc.1
  let e1 := excJoin acc.2 (excJoinAll (scs.map Prod.snd))
  (List.range l).foldl (fun q i =>
    let v := vals.getD i (xzero, flNone)
    let md : Mode := if reqSrm w isReq then
        .sto (hashU x.seed o.dd.tid ((sget x (fSS w)).truncate 32) (o.dd.idx r i)) else .rne
    let out := toDesc o.dd (scs.getD (i / 32) (0, .none)).1 md true v.1
    (wrCode q.1 c o.dd a r i out.1, excJoin q.2 (raiseAt (v.2 ||| out.2) m i 0))) (s1, e1)

/-- REQ or SRND takes effect. -/
def reqBody (c : CtxId) (w : Insn) (isReq : Bool) (s : State) : State :=
  let x := s.ctx c
  match reqOps x w isReq with
  | none => s
  | some o =>
    let a := arr0 s x
    let wr := reqWr x w isReq o a
    access s c (reqRd x w isReq o a) wr fun s0 =>
      let r := (List.range (sv x (fSM w))).foldl (reqRow s0 x c w isReq o a) (s0, Exc.none)
      finishWrites (unitRaise r.1 c 0xE0 r.2) c wr (flToCtx r.2.fl)

/-- REQ (R118). -/
def execReq (c : CtxId) (w : Insn) (s : State) : Res := .next (issue s c w false (reqIss s c w true) (reqBody c w true))

/-- SRND (R119). -/
def execSrnd (c : CtxId) (w : Insn) (s : State) : Res := .next (issue s c w false (reqIss s c w false) (reqBody c w false))

/-! ## UPDW -/

/-- The operands of UPDW: weights D, source A, lees B. -/
structure UpdOps where
  da : Desc
  db : Desc
  dd : Desc
deriving Repr

/-- The operands of UPDW, none where a descriptor holds a reserved code. -/
def updOps (x : Ctx) (w : Insn) : Option UpdOps :=
  match descOf (tget x (fTA w)), descOf (tget x (fTB w)), descOf (tget x (fTD w)) with
  | some da, some db, some dd => some { da := da, db := db, dd := dd }
  | _, _, _ => none

/-- BF16 or FP16 (R120). -/
def fmt16 (f : Fmt) : Bool := f == .bf16 || f == .fp16

/-- What UPDW writes: weights and lees. -/
def updWr (x : Ctx) (w : Insn) (o : UpdOps) (a : ArrId) : List Seg :=
  let m := sv x (fSM w)
  let l := sv x (fSK w)
  rowsSegs (fTD w) o.dd a (offsOf x w).d m l ++ rowsSegs (fTB w) o.db a (offsOf x w).b m l

/-- Checks at issue of UPDW (R97, R120 to R122, R190, R527). -/
def updIss (s : State) (c : CtxId) (w : Insn) : List Iss :=
  let x := s.ctx c
  let m := sv x (fSM w)
  let l := sv x (fSK w)
  let f := offsOf x w
  layoutIss w 2 (mTD + mTA + mTB + mSM + mSK + mSP2 + mOFF w) 0x80 ++ offsIss w ++
  match updOps x w with
  | none => [iss .rsvdField]
  | some o =>
    failIf (!fmt16 o.dd.fmt || !fmt16 o.da.fmt || o.db.fmt != .int8 || o.db.smode != 0 ||
      [o.da, o.db, o.dd].any (fun d => d.space == .acc)) (iss .rsvdField) ++
    elemShape m l [o.da, o.db, o.dd] ++
    rowsIss (fTA w) (f.a + m) o.da ++ rowsIss (fTB w) (f.b + m) o.db ++ rowsIss (fTD w) (f.d + m) o.dd ++
    rdonlyIss (fTB w) o.db ++ rdonlyIss (fTD w) o.dd ++ devWriteIss s c (updWr x w o 0)

/-- One element of UPDW: new weight code, new lees, d, flags (R120, R189, R190). -/
def updElem (f : FF) (alpha g : XVal) (wc : Nat) (l : Int) : Nat × Int × XVal × Fl :=
  let w := ffDecode f wc
  let n := nanFl alpha ||| nanFl g ||| nanFl w
  let d := xmul alpha g
  let lees := if xisFin w then (xmul (xmul (xint l) (ulpOf f wc)).1 (.fin false 1 256)).1 else xzero
  let v1 := xadd w d.1
  let v := xadd v1.1 lees
  let r := ffRound f .rne v.1
  let w2 := ffDecode f r.1
  let fl := n ||| d.2 ||| v1.2 ||| v.2 ||| r.2
  if xisFin w2 then
    match (xsub v.1 w2).1, ulpOf f r.1 with
    | .fin s a b, .fin _ p q =>
      let t := rneInt s (a * 256 * q) (b * p)
      (r.1, (satTo (-128) 127 t).1, d.1, fl)
    | _, _ => (r.1, 0, d.1, fl)
  else (r.1, 0, d.1, fl ||| flOvf)

/-- A tensor's running sums with one element added (R120, R191). -/
def addSums (l : List MonSum) (tid : BitVec 32) (d w : XVal) : List MonSum :=
  if l.any fun q => q.tid == tid then
    l.map fun q => if q.tid = tid then { q with dd := addSquare q.dd d, ww := addSquare q.ww w } else q
  else l ++ [{ tid := tid, dd := addSquare 0 d, ww := addSquare 0 w }]

/-- One element of UPDW, in ascending element index, from the bytes as the elements before it left them (R120). -/
def updStep (x : Ctx) (c : CtxId) (w : Insn) (o : UpdOps) (a : ArrId) (acc : State × Exc) (mi : Nat × Nat) :
    State × Exc :=
  let f := offsOf x w
  let ff := ffOf o.dd.fmt
  let code (d : Desc) (r : Nat) : Nat := rdCode acc.1 (acc.1.ctx c) d a r mi.2
  let g := elemVal o.da.fmt (code o.da (f.a + mi.1))
  let wc := code o.dd (f.d + mi.1)
  let l := intVal .int8 (code o.db (f.b + mi.1))
  let r := updElem ff (bfParam x (fSP2 w)) g wc l
  let s1 := wrCode (wrCode acc.1 c o.dd a (f.d + mi.1) mi.2 r.1) c o.db a (f.b + mi.1) mi.2 (intCode 8 r.2.1)
  let y := s1.ctx c
  (s1.setCtx c { y with sums := addSums y.sums o.dd.tid r.2.2.1 (ffDecode ff wc) },
   excJoin acc.2 (raiseAt r.2.2.2 mi.1 mi.2 0))

/-- UPDW takes effect. -/
def updBody (c : CtxId) (w : Insn) (s : State) : State :=
  let x := s.ctx c
  match updOps x w with
  | none => s
  | some o =>
    let a := arr0 s x
    let m := sv x (fSM w)
    let l := sv x (fSK w)
    let wr := updWr x w o a
    access s c (rowsSegs (fTA w) o.da a (offsOf x w).a m l ++ wr) wr fun s0 =>
      let r := ((List.range m).flatMap fun i => (List.range l).map fun j => (i, j)).foldl (updStep x c w o a) (s0, Exc.none)
      finishWrites (unitRaise r.1 c 0xE0 r.2) c wr (flToCtx r.2.fl)

/-- UPDW (R120). -/
def execUpdw (c : CtxId) (w : Insn) (s : State) : Res := .next (issue s c w false (updIss s c w) (updBody c w))

end Sys2Proof.Machine
end

