-- ==== Sys2Proof/Machine/Tensor.lean ====
section
/-! DEFINITION. MMA, DIST and CMPK (03, R107 to R115, R527; 04, R145, R154 to R160, R165, R168; 05, R179 to
R182; 06, R200 to R221): their checks, tile plan, reductions and writes. -/

namespace Sys2Proof.Machine

/-! ## Reductions -/

/-- The three tensor instructions that arrays run, DIST with its `DOP` and CMPK with `CMPOP` and `TREE`. -/
inductive TOp where
  | mma
  | dist (dop : Nat)
  | cmpk (cmpop tree : Nat)
deriving DecidableEq, Repr

/-- The slices of R107 as pairs of first k and end: ⌈K/(S·G)⌉·G products each, the last the remainder. -/
def sliceList (k g s : Nat) : List (Nat × Nat) :=
  let l := ceilDiv k (s * g) * g
  (List.range s).map fun j => (min (j * l) k, min ((j + 1) * l) k)

/-- A value with the record of what it raised. -/
abbrev Rec (α : Type) := α × Exc

/-- The term of one pair on the float path, rounded to binary32 (R155, R157). -/
def fTerm (op : TOp) (a b : XVal) : BitVec 32 × Fl :=
  let n := nanFl a ||| nanFl b
  match op with
  | .dist 0 =>
    let d := rne32f (xsub a b)
    let q := rne32f (xmul (val32 d.1) (val32 d.1))
    (q.1, n ||| d.2 ||| q.2)
  | .dist 1 =>
    let d := rne32f (xsub a b)
    ((rne32 (xabs (val32 d.1))).1, n ||| d.2)
  | .dist _ =>
    let p := xmul a b
    let q := rne32f (xneg p.1, p.2)
    (q.1, n ||| q.2)
  | _ =>
    let q := rne32f (xmul a b)
    (q.1, n ||| q.2)

/-- Adds a flagged binary32 value into a running sum, with its flags at k (R156). -/
def fJoin (m n k : Nat) (acc : Option (Rec (BitVec 32))) (p : BitVec 32 × Fl) : Option (Rec (BitVec 32)) :=
  match acc with
  | none => some (p.1, raiseAt p.2 m n k)
  | some a =>
    let r := fadd a.1 p.1
    some (r.1, excJoin a.2 (excJoin (raiseAt p.2 m n k) (raiseAt r.2 m n k)))

/-- One block of 32 positions on the float path, with its block scales (R156, R168). -/
def fBlock (op : TOp) (fmt : Option Fmt) (pair : Nat → XVal × XVal) (sc : Nat → Nat × Nat) (m n b : Nat) :
    Rec (BitVec 32) :=
  let s := (List.range 32).foldl (fun acc i =>
    let ab := pair (32 * b + i)
    fJoin m n (32 * b + i) acc (fTerm op ab.1 ab.2)) none
  match s with
  | none => (0, .none)
  | some v =>
    let c := sc b
    let r := bscale fmt v.1 c.1 c.2
    (r.1, excJoin v.2 (raiseAt r.2 m n (32 * b)))

/-- One slice on the float path (R156); an empty slice contributes zero. DESIGN CHOICE: a flag of adding a block's result into
the slice sum records the first k of the block added, where R165 names no k (assumption 31). -/
def fSlice (op : TOp) (fmt : Option Fmt) (pair : Nat → XVal × XVal) (sc : Nat → Nat × Nat) (m n lo hi : Nat) :
    Rec (BitVec 32) :=
  let blocks := (List.range (ceilDiv hi 32 - lo / 32)).map fun i => lo / 32 + i
  let r := blocks.foldl (fun acc b =>
    let v := fBlock op fmt pair sc m n b
    match acc with
    | none => some v
    | some a =>
      let q := fadd a.1 v.1
      some (q.1, excJoin a.2 (excJoin v.2 (raiseAt q.2 m n (32 * b))))) none
  if hi ≤ lo then (0, .none) else r.getD (0, .none)

/-- The term of one pair on the integer path, exact (R181). -/
def iTerm (op : TOp) (a b : Int) : Int :=
  match op with
  | .dist 0 => (a - b) * (a - b)
  | .dist 1 => (a - b).natAbs
  | .dist _ => -(a * b)
  | _ => a * b

/-- Multiplier and shift of a group (R181). -/
def groupScale (op : TOp) (a b : Nat × Nat) : Nat × Nat :=
  match op with
  | .dist 0 => (a.1 * a.1, 2 * a.2)
  | .dist 1 => (a.1, a.2)
  | _ => (a.1 * b.1, a.2 + b.2)

/-- Whether an instruction reads B's block scales on the integer path (R182). -/
def readsBScale : TOp → Bool
  | .dist d => decide (2 ≤ d)
  | .cmpk _ _ => false
  | .mma => true

/-- Mantissa and shift of an integer scale word, with `INV` for reserved bits (R147). -/
def iscaleF (w : Nat) : (Nat × Nat) × Fl :=
  let p := iscaleParts w
  ((p.1, p.2.1), if p.2.2 then flInv else flNone)

/-- One slice on the integer path, group by group (R179). DESIGN CHOICE: the `OVF` of a group's addition and the `INV` of its
scale word record the first k of the group, where R165 names no k (assumption 31). -/
def iSlice (op : TOp) (g : Nat) (pair : Nat → Int × Int) (sc : Nat → Nat × Nat) (m n lo hi : Nat) : Rec Int :=
  (List.range (ceilDiv (hi - lo) g)).foldl (fun acc j =>
    let k0 := lo + j * g
    let p := (List.range (min g (hi - k0))).foldl (fun t i => t + iTerm op (pair (k0 + i)).1 (pair (k0 + i)).2) (0 : Int)
    let a := iscaleF (sc (k0 / 32)).1
    let b := iscaleF (sc (k0 / 32)).2
    let f := a.2 ||| (if readsBScale op then b.2 else flNone)
    let ms := groupScale op a.1 b.1
    let q := p * ms.1
    let r := sat32 (acc.1 + rnda (decide (q < 0)) q.natAbs (2 ^ ms.2))
    (r.1, excJoin acc.2 (raiseAt (f ||| r.2) m n k0))) (0, .none)

/-- Addition of two accumulators (R154, R155). -/
def accAdd : Acc → Acc → Acc × Fl
  | .int a, .int b => let r := sat32 (a + b); (.int r.1, r.2)
  | a, b =>
    let r := fadd (BitVec.ofNat 32 (accCode a)) (BitVec.ofNat 32 (accCode b))
    (.flt r.1, r.2)

/-- Two nodes of the combining tree: an absent one drops out; a flag takes the first k of the right one
(R108, R165). A node carries its first k. -/
def treeJoin (m n : Nat) : Option (Nat × Rec Acc) → Option (Nat × Rec Acc) → Option (Nat × Rec Acc)
  | none, b => b
  | a, none => a
  | some a, some b =>
    let r := accAdd a.2.1 b.2.1
    some (a.1, (r.1, excJoin a.2.2 (excJoin b.2.2 (raiseAt r.2 m n b.1))))

/-- The fixed tree over slices P0 to P7 (R108). -/
def treeSum (m n : Nat) (l : List (Nat × Rec Acc)) : Rec Acc :=
  let p (i : Nat) : Option (Nat × Rec Acc) := l[i]?
  let r := treeJoin m n (treeJoin m n (treeJoin m n (p 0) (p 1)) (treeJoin m n (p 2) (p 3)))
    (treeJoin m n (treeJoin m n (p 4) (p 5)) (treeJoin m n (p 6) (p 7)))
  (r.map Prod.snd).getD (.int 0, .none)

/-- Slices that STATISTICAL mode may cut: one to eight, at multiples of G. One raw number gives the number of cuts and seven
give their points, from 0 up to K itself, so that every permitted cut comes from some numbers: a slice may hold nothing, as in
the cut of R107 (R109). -/
def statCuts (raw : List Nat) (k g : Nat) : List (Nat × Nat) :=
  let cuts := sortBy id ((List.range (raw.getD 14 0 % 8)).map fun i => min k (raw.getD i 0 % (ceilDiv k g + 1) * g))
  ([0] ++ cuts).zip (cuts ++ [k])

/-- Two sums of a list, named by a raw number, added into one (R109); a flag of the addition takes the first k of
either (R167). -/
def joinTwo (m n : Nat) (either : Bool) (l : List (Nat × Rec Acc)) (raw : Nat) : List (Nat × Rec Acc) :=
  let i := raw % l.length
  let rest := l.eraseIdx i
  let j := raw / l.length % rest.length
  match l[i]?, rest[j]? with
  | some a, some b =>
    let q := accAdd a.2.1 b.2.1
    (min a.1 b.1, (q.1, excJoin a.2.2 (excJoin b.2.2 (raiseAt q.2 m n (if either then a.1 else b.1))))) :: rest.eraseIdx j
  | _, _ => l

/-- Slice sums added two at a time, in the order that raw numbers name, until one is left. DESIGN CHOICE: R109's "added
in any order" is read as letting partial sums be added to each other, as the tree of R108 does, and not one chain
alone (assumption 8). -/
def seqSum (m n : Nat) (either : Bool) (raw : List Nat) (l : List (Nat × Rec Acc)) : Rec Acc :=
  let r := (List.range (l.length - 1)).foldl (fun acc i => joinTwo m n either acc (raw.getD (7 + i) 0)) l
  (r.head?.map Prod.snd).getD (.int 0, .none)

/-! ## One instruction -/

/-- A tensor instruction with its operands, tile plan and arrays. -/
structure Tens where
  op   : TOp
  w    : Insn
  x    : Ctx
  da   : Desc
  db   : Desc
  dd   : Desc
  dc   : Option Desc
  m    : Nat
  n    : Nat
  k    : Nat
  g    : Nat
  sl   : Nat
  tra  : Bool
  trb  : Bool
  rowb : Bool
  srm  : Bool
  off  : Offs
  tm   : Nat
  tn   : Nat
  nM   : Nat
  nN   : Nat
  arrs : List ArrId
deriving Repr

/-- Planned M, N and K of an instruction's A and B (R94, R200). -/
def planned (tra trb rowb : Bool) (da db : Desc) : Nat × Nat × Nat :=
  (if tra then da.e0 else da.rows,
   if rowb then db.e1 else if trb then db.e0 else db.rows,
   if tra then da.rows else da.e0)

/-- The largest power of two whose square is at most `n`, tried up to 16 (R201). -/
def pow2Root (n : Nat) : Nat := if 256 ≤ n then 16 else if 64 ≤ n then 8 else if 16 ≤ n then 4 else if 4 ≤ n then 2 else 1

/-- The halving loop of R201; planned M and N are at most 2^64 each, so fewer than 128 halvings end it. -/
def shrink : Nat → Nat → Nat → Nat → Nat × Nat
  | 0, tm, tn, _ => (tm, tn)
  | f + 1, tm, tn, s =>
    if 32768 < tm * tn * s then
      (if 32 < tn then shrink f tm (32 * ceilDiv tn 64) s else shrink f (32 * ceilDiv tm 64) tn s)
    else (tm, tn)

/-- Tile shape TM × TN (R201). -/
def tileShape (mp np ar s : Nat) : Nat × Nat :=
  let bM := ceilDiv mp 32
  let bN := ceilDiv np 32
  let q := pow2Root ar
  let gN := min bN q
  let gM := min bM (ar / gN)
  let gN := min bN (ar / gM)
  shrink 256 (32 * ceilDiv bM gM) (32 * ceilDiv bN gN) s

/-- The range of arrays an instruction names, as active arrays of the partition (R95). -/
def arrRange (s : State) (x : Ctx) (w : Insn) : List ArrId :=
  ((partArrs s x.part).drop (fAF w)).take (fAN w + 1)

/-- Whether the range reaches beyond the partition's active arrays (R95). -/
def arrRangeBad (s : State) (x : Ctx) (w : Insn) : Bool :=
  decide ((partArrs s x.part).length ≤ fAF w + fAN w)

/-- The operands of a tensor instruction; none where a descriptor holds a reserved code. -/
def tensOf (s : State) (c : CtxId) (w : Insn) (op : TOp) : Option Tens :=
  let x := s.ctx c
  let isM := op == .mma
  let usec := isM && modB w 102
  match descOf (tget x (fTA w)), descOf (tget x (fTB w)), descOf (tget x (fTD w)),
      (if usec then (descOf (tget x (fTC w))).map some else some none) with
  | some da, some db, some dd, some dc =>
    let tra := isM && modB w 100
    let trb := isM && modB w 101
    let rowb := !isM && modB w 100
    let pl := planned tra trb rowb da db
    let ar := fAN w + 1
    let sl := 2 ^ modF w 99 98
    let tt := tileShape pl.1 pl.2.1 ar sl
    some {
      op := op, w := w, x := x, da := da, db := db, dd := dd, dc := dc
      m := sv x (fSM w), n := sv x (fSN w), k := sv x (fSK w)
      g := 32 * 2 ^ modF w 97 96, sl := sl, tra := tra, trb := trb, rowb := rowb
      srm := isM && modB w 104, off := offsOf x w, tm := tt.1, tn := tt.2
      nM := ceilDiv pl.1 tt.1, nN := ceilDiv pl.2.1 tt.2, arrs := arrRange s x w }
  | _, _, _, _ => none

/-- Whether an instruction runs on the integer path (R144). -/
def Tens.isInt (t : Tens) : Bool := fmtIsInt t.da.fmt

/-- Tiles each array holds (R206, R208). -/
def Tens.tr (t : Tens) : Nat := ceilDiv (t.nM * t.nN) (fAN t.w + 1)

/-- Bytes of the slot layout of one array (R206). -/
def Tens.slots (t : Tens) : Nat := 4 * t.tm * t.tn * t.tr

/-- Operand masks and modifier masks of the three instructions (R92, R107, R110, R112, R114). -/
def tensMasks (w : Insn) (op : TOp) : Nat × Nat :=
  let base := mTD + mTA + mTB + mSM + mSN + mSK + mARR + mOFF w
  match op with
  | .mma => (base + (if modB w 102 then mTC else 0) + (if modB w 104 then mSS else 0), 0x01FF)
  | .dist _ => (base, 0x039F)
  | .cmpk _ _ => (base, 0xFF9F)

/-- Field codes that are reserved (R107, R112, R114). -/
def tensCodesBad (w : Insn) (op : TOp) : Bool :=
  modF w 97 96 == 3 ||
  match op with
  | .mma => false
  | .dist d => d == 3
  | .cmpk q t => decide (6 ≤ q) || t == 3

/-- Formats, spaces and block-scale modes that the instruction does not accept (R111, R112, R114, R144,
R145, R527). -/
def tensKindBad (t : Tens) : Bool :=
  let dOk := match t.op with
    | .mma => fmtArith t.dd.fmt
    | .dist _ => fmtArith t.dd.fmt || t.dd.fmt == .dist
    | .cmpk _ _ => fmtIsInt t.dd.fmt && t.dd.smode == 0
  let cBad := match t.dc with
    | some c => c.space != .acc && !(fmtArith c.fmt && fmtIsInt c.fmt == t.isInt)
    | none => false
  !fmtArith t.da.fmt || !fmtArith t.db.fmt || fmtIsInt t.da.fmt != fmtIsInt t.db.fmt ||
    t.da.space == .acc || t.db.space == .acc || !dOk || cBad ||
    (t.tra && t.da.smode != 0) || (t.trb && t.db.smode != 0) || (t.rowb && t.db.rank != 3)

/-- The reserved uses of R93, R119, R206 and R214. -/
def tensUseBad (t : Tens) : Bool :=
  let accC := match t.dc with
    | some c => c.space == .acc && t.off.c != 0
    | none => false
  (t.dd.space == .acc && (t.sl != 1 || t.off.d != 0)) || accC ||
    (t.srm && decide (2 ^ 48 < t.dd.elems)) || (t.dd.space != .acc && t.dd.overlaps)

/-- Run-time extents against planned ones, the lowest `DIM` first (R209, R221). An operand in `ACC` has slots
in place of rows and takes no part (R206). -/
def tensShape (t : Tens) : List Iss :=
  let pl := planned t.tra t.trb t.rowb t.da t.db
  let kb := if t.trb then t.db.rows else t.db.e0
  let ext (f : Desc → Nat) : List Nat :=
    (if t.dd.space = .acc then [] else [f t.dd]) ++
    (match t.dc with
     | some c => if c.space = .acc then [] else [f c]
     | none => [])
  let mMax := (ext Desc.rows ++ (if t.rowb then [t.db.e2] else [])).foldl min pl.1
  let nMax := (ext Desc.e0).foldl min pl.2.1
  shapeIss 0 t.m mMax ++ shapeIss 1 t.n nMax ++ shapeIss 2 t.k (min pl.2.2 kb)

/-- Accumulator limits (R208, R209). -/
def tensAcc (t : Tens) : List Iss :=
  let dim := if t.nN = 1 then 0 else 1
  let tooBig (words : Nat) : Iss := { cause := .accOver, dim := dim, detail := words }
  failIf (t.dd.space == .acc && decide (Config.accBytes < t.dd.base + t.slots)) (tooBig ((t.dd.base + t.slots) / 4)) ++
  match t.dc with
  | some c =>
    if c.space ≠ .acc then []
    else
      let e := c.base + t.slots
      if t.dd.space = .acc then
        failIf (decide (Config.accBytes < e) ||
          (c.base != t.dd.base && decide (c.base < t.dd.base + t.slots) && decide (t.dd.base < e))) (tooBig (e / 4))
      else failIf (decide (Config.accBytes < e + 4 * t.tm * t.tn * t.sl)) (tooBig (e / 4 + t.tm * t.tn * t.sl))
  | none => []

/-- Element width plus scale bytes per element, in thirty-seconds of a byte (R208). -/
def widthQ (d : Desc) : Nat := fmtBits d.fmt * 4 + (if d.smode = 1 then 1 else if d.smode = 2 then 4 else 0)

/-- The buffer limit (R208, R209). -/
def tensBuf (t : Tens) : List Iss :=
  let ds := [t.da, t.db, t.dd] ++ (match t.dc with
    | some c => [c]
    | none => [])
  let held := (ds.filter fun d => d.space == .buf).foldl (fun n d => n + (d.fin - d.base)) 0
  let need := 2 * t.g * (t.tm * widthQ t.da * b2n (t.da.space != .buf) + t.tn * widthQ t.db * b2n (t.db.space != .buf))
  failIf (decide (Config.bufBytes * 32 < need + held * 32)) { cause := .bufOver, dim := 3, detail := t.g }

/-- Offsets and extents against planned rows (R97). An operand in `ACC` has no rows (R93). -/
def tensRows (t : Tens) : List Iss :=
  let needB := if t.rowb then (if t.m = 0 ∨ t.n = 0 then t.off.b else t.off.b + (t.m - 1) * t.db.e1 + t.n)
               else t.off.b + (if t.trb then t.k else t.n)
  rowsIss (fTA t.w) (t.off.a + (if t.tra then t.k else t.m)) t.da ++ rowsIss (fTB t.w) needB t.db ++
  (if t.dd.space = .acc then [] else rowsIss (fTD t.w) (t.off.d + t.m) t.dd) ++
  (match t.dc with
   | some c => if c.space = .acc then [] else rowsIss (fTC t.w) (t.off.c + t.m) c
   | none => [])

/-- The tiles that run, as their numbers with row and column indices (R202, R203). -/
def Tens.tiles (t : Tens) : List (Nat × Nat × Nat) :=
  (List.range t.nM).flatMap fun i => (List.range t.nN).filterMap fun j =>
    if i * t.tm < t.m ∧ j * t.tn < t.n then some (i * t.nN + j, i, j) else none

/-- The array of a tile (R95). -/
def Tens.arrOf (t : Tens) (tile : Nat) : ArrId := t.arrs.getD (tile % (fAN t.w + 1)) 0

/-- Whether lane `m` writes: MMA acts as a whole, DIST and CMPK per lane (R87). -/
def Tens.acts (t : Tens) (m : Nat) : Bool :=
  match t.op with
  | .mma => true
  | _ => laneActs t.x t.w m

/-- Byte offset in an array's accumulator memory of output (m, n) under the slot layout (R206). -/
def Tens.slotOff (t : Tens) (base tile i j m n : Nat) : Nat :=
  base + tile / (fAN t.w + 1) * (4 * t.tm * t.tn) + 4 * ((m - i * t.tm) * t.tn + (n - j * t.tn))

/-- Row of A that holds output row `m` at reduction position `k`, and the element in it. -/
def Tens.aAt (t : Tens) (m k : Nat) : Nat × Nat := if t.tra then (t.off.a + k, m) else (t.off.a + m, k)

/-- Row of B that holds output column `n` at reduction position `k`, and the element in it. -/
def Tens.bAt (t : Tens) (m n k : Nat) : Nat × Nat :=
  if t.trb then (t.off.b + k, n) else if t.rowb then (t.off.b + m * t.db.e1 + n, k) else (t.off.b + n, k)

/-- The code of A at (m, k) as an array reads it. -/
def Tens.aCode (t : Tens) (s : State) (a : ArrId) (m k : Nat) : Nat :=
  rdCode s t.x t.da a (t.aAt m k).1 (t.aAt m k).2

/-- The code of B at (m, n, k) as an array reads it. -/
def Tens.bCode (t : Tens) (s : State) (a : ArrId) (m n k : Nat) : Nat :=
  rdCode s t.x t.db a (t.bAt m n k).1 (t.bAt m n k).2

/-- The neutral scale of the path (R148). -/
def Tens.neutral (t : Tens) : Nat := if t.isInt then 1 else 0x7F

/-- The scales of block `b` for output (m, n); the neutral scale beyond K and without block scales (R148, R215). -/
def Tens.scales (t : Tens) (s : State) (a : ArrId) (m n b : Nat) : Nat × Nat :=
  (if t.da.smode = 0 ∨ t.k ≤ 32 * b then t.neutral else rdScale s t.x t.da a (t.aAt m 0).1 b,
   if t.db.smode = 0 ∨ t.k ≤ 32 * b then t.neutral else rdScale s t.x t.db a (t.bAt m n 0).1 b)

/-- The pair of element values at k on the float path; zero beyond K (R215). -/
def Tens.fpair (t : Tens) (s : State) (a : ArrId) (m n k : Nat) : XVal × XVal :=
  if k < t.k then (elemVal t.da.fmt (t.aCode s a m k), elemVal t.db.fmt (t.bCode s a m n k)) else (xzero, xzero)

/-- The pair of element values at k on the integer path. -/
def Tens.ipair (t : Tens) (s : State) (a : ArrId) (m n k : Nat) : Int × Int :=
  if k < t.k then (intVal t.da.fmt (t.aCode s a m k), intVal t.db.fmt (t.bCode s a m n k)) else (0, 0)

/-- D's format for `maxfin`: none in `ACC` and for distance codes (R168). -/
def Tens.maxFmt (t : Tens) : Option Fmt := if t.dd.space = .acc ∨ t.dd.fmt = .dist then none else some t.dd.fmt

/-- The sum of one slice of output (m, n), with its first k. -/
def Tens.slice (t : Tens) (s : State) (a : ArrId) (m n : Nat) (p : Nat × Nat) : Nat × Rec Acc :=
  if t.isInt then
    let r := iSlice t.op t.g (t.ipair s a m n) (t.scales s a m n) m n p.1 p.2
    (p.1, (.int r.1, r.2))
  else
    let r := fSlice t.op t.maxFmt (t.fpair s a m n) (t.scales s a m n) m n p.1 p.2
    (p.1, (.flt r.1, r.2))

/-- The reduction of output (m, n) over K: in the fixed order (R108), or in STATISTICAL mode in a permitted
order that the free number `ch` chooses (R109). -/
def Tens.reduce (t : Tens) (s : State) (a : ArrId) (m n ch : Nat) : Rec Acc :=
  if t.x.stat then
    let raw := Config.statChoice ch
    seqSum m n (Config.freeBit ch) raw ((statCuts raw t.k t.g).map (t.slice s a m n))
  else treeSum m n ((sliceList t.k t.g t.sl).map (t.slice s a m n))

/-- C[m,n] as an accumulator of the path, with its flags at K (R145, R206). -/
def Tens.cVal (t : Tens) (s : State) (a : ArrId) (c : Desc) (tile i j m n : Nat) : Acc × Fl :=
  if c.space = .acc then
    let v := accOf t.isInt (leNat (readN s t.x .acc a (t.slotOff c.base tile i j m n) 4))
    (v, nanFl (accVal v))
  else
    let code := rdCode s t.x c a (t.off.c + m) n
    let sc := rdScale s t.x c a (t.off.c + m) (n / 32)
    if t.isInt then
      let v := intVal c.fmt code
      if c.smode = 2 then
        let k := iscaleF sc
        (.int (rnda (decide (v < 0)) (v.natAbs * k.1.1) (2 ^ k.1.2)), k.2)
      else (.int v, flNone)
    else
      let v := scaledVal c code sc
      let r := rne32 v.1
      (.flt r.1, v.2 ||| r.2)

/-- The accumulator with a NaN made canonical (R143). -/
def canonAcc (v : Acc) : Acc :=
  match v with
  | .int i => .int i
  | .flt c => .flt (if xisNan (val32 c) then 0x7FC00000 else c)

/-- The accumulator of output (m, n), C included. With K zero and `USEC`, R219 writes C converted, and the pseudocode of R110
adds C to zero, which differ for a C of −0: which of the two holds is free, and the same for every output of the drive (R65, assumption
29). -/
def Tens.acc (t : Tens) (s : State) (a : ArrId) (tile i j m n ch : Nat) : Rec Acc :=
  let zero : Acc := if t.isInt then .int 0 else .flt 0
  match t.dc with
  | none => if t.k = 0 then (zero, .none) else t.reduce s a m n ch
  | some c =>
    let v := t.cVal s a c tile i j m n
    if t.k = 0 then (if Config.zeroKKeeps then canonAcc v.1 else (accAdd zero v.1).1, raiseAt v.2 m n t.k)
    else
      let r := t.reduce s a m n ch
      let q := accAdd r.1 v.1
      (q.1, excJoin r.2 (raiseAt (v.2 ||| q.2) m n t.k))

/-- `CMPOP` on two values, false on a NaN except under NE (R114). -/
def cmpVals (q : Nat) (a b : XVal) : Bool :=
  match q with
  | 0 => xlt a b
  | 1 => xlt a b || xeq a b
  | 2 => xlt b a
  | 3 => xlt b a || xeq a b
  | 4 => xeq a b
  | _ => !xeq a b

/-- The reduction of CMPK for output (m, n): count, minimum or maximum over K (R114, R217). -/
def Tens.compare (t : Tens) (s : State) (a : ArrId) (q tree m n : Nat) : Rec Acc :=
  let r := (List.range t.k).foldl (fun acc k =>
    let p := t.fpair s a m n k
    let hit := cmpVals q p.1 p.2
    (acc.1 + b2n hit, excJoin acc.2 (raiseAt (nanFl p.1 ||| nanFl p.2) m n k))) ((0 : Nat), Exc.none)
  let v : Nat := if tree = 0 then r.1 else if tree = 1 then b2n (r.1 == t.k) else b2n (r.1 != 0)
  (.int v, r.2)

/-- The code and record of output (m, n) of a tile. DESIGN CHOICE: with K zero the zero of R112 and R219 is converted through D's own
scale as any value is (R174), so that a scale of 0xFF or zero gives what that conversion gives (assumption 31). -/
def Tens.out (t : Tens) (s : State) (a : ArrId) (tile i j m n ch : Nat) : Rec Nat :=
  let v := match t.op with
    | .cmpk q tree => t.compare s a q tree m n
    | _ => t.acc s a tile i j m n ch
  let md : Mode := if t.srm then
      .sto (hashU t.x.seed t.dd.tid ((sget t.x (fSS t.w)).truncate 32) (t.dd.idx (t.off.d + m) n))
    else .rne
  let sc := if t.dd.space = .acc then 0 else rdScale s t.x t.dd a (t.off.d + m) (n / 32)
  let r := accOut t.dd sc md v.1
  (r.1, excJoin v.2 (raiseAt r.2 m n t.k))

/-- The outputs of a tile that are written, in ascending row and column (R216). -/
def Tens.outs (t : Tens) (i j : Nat) : List (Nat × Nat) :=
  ((List.range (min t.tm (t.m - i * t.tm))).filter fun r => t.acts (i * t.tm + r)).flatMap fun r =>
    (List.range (min t.tn (t.n - j * t.tn))).map fun q => (i * t.tm + r, j * t.tn + q)

/-- Writes output (m, n) of a tile (R206, R213). -/
def Tens.put (t : Tens) (s : State) (c : CtxId) (a : ArrId) (tile i j m n v : Nat) : State :=
  if t.dd.space = .acc then putN s c .acc a (t.slotOff t.dd.base tile i j m n) (toLe 4 v)
  else wrCode s c t.dd a (t.off.d + m) n v

/-- One tile: every output is computed from the state before the instruction and written once (R213). -/
def Tens.runTile (t : Tens) (s0 : State) (c : CtxId) (s : State × BitVec 6) (tl : Nat × Nat × Nat) : State × BitVec 6 :=
  let a := t.arrOf tl.1
  (t.outs tl.2.1 tl.2.2).foldl (fun st mn =>
    let o := t.out s0 a tl.1 tl.2.1 tl.2.2 mn.1 mn.2 (s0.free + mn.1 * t.n + mn.2)
    (arrayRaise (t.put st.1 c a tl.1 tl.2.1 tl.2.2 mn.1 mn.2 o.1) a c o.2, st.2 ||| flToCtx o.2.fl)) s

/-- The running-sum region of every array that ran a tile holds unspecified values afterwards (R205). -/
def Tens.smear (t : Tens) (s : State) : State :=
  if t.dd.space = .acc then s
  else
    let n := 4 * t.tm * t.tn * t.sl
    (t.arrs.filter fun a => t.tiles.any fun tl => t.arrOf tl.1 == a).foldl (fun st a =>
      (st.setArr a { st.arr a with acc := memOver (st.arr a).acc (Config.accBytes - n) (freeBytes st n) }).draw n) s

/-- The bits of p[`PDST`] after CMPK (R115, R220). -/
def Tens.pdst (t : Tens) (s0 : State) (old : BitVec 64) (q tree : Nat) : BitVec 64 :=
  BitVec.ofNat 64 ((List.range 64).foldl (fun v m =>
    let bit := if t.m ≤ m then false
      else if !t.acts m || t.n == 0 then old.getLsbD m
      else
        let tile := m / t.tm * t.nN
        let a := t.arrOf tile
        (accOut t.dd 0 .rne (t.compare s0 a q tree m 0).1).1 != 0
    v + b2n bit * 2 ^ m) 0)

/-! ## Accesses -/

/-- The blocks whose scales a reduction reads (R156, R180, R182). -/
def Tens.blocks (t : Tens) : List Nat :=
  match t.op with
  | .cmpk _ _ => []
  | _ => (List.range (ceilDiv t.k 32)).filter fun b => !t.isInt || 32 * b % t.g == 0

/-- The arrays on whose own memories an operand is read: each running tile's with its rows and columns, or
once for an operand outside them (R207). -/
def Tens.spots (t : Tens) (d : Desc) : List (ArrId × Nat × Nat × Nat × Nat) :=
  if t.m = 0 ∨ t.n = 0 then []
  else if d.space = .buf ∨ d.space = .acc then
    t.tiles.map fun tl => (t.arrOf tl.1, tl.2.1 * t.tm, min t.m ((tl.2.1 + 1) * t.tm), tl.2.2 * t.tn, min t.n ((tl.2.2 + 1) * t.tn))
  else [(0, 0, t.m, 0, t.n)]

/-- What an instruction reads of A. -/
def Tens.aSegs (t : Tens) : List Seg :=
  if t.k = 0 then []
  else (t.spots t.da).flatMap fun q =>
    if t.tra then (List.range t.k).map fun k => rowSeg (fTA t.w) t.da q.1 (t.off.a + k) q.2.2.1
    else (List.range (q.2.2.1 - q.2.1)).flatMap fun i =>
      rowSeg (fTA t.w) t.da q.1 (t.off.a + q.2.1 + i) t.k :: scaleSegs (fTA t.w) t.da q.1 (t.off.a + q.2.1 + i) t.blocks

/-- What an instruction reads of B. -/
def Tens.bSegs (t : Tens) : List Seg :=
  if t.k = 0 then []
  else
    let bs := if t.isInt && !readsBScale t.op then [] else t.blocks
    (t.spots t.db).flatMap fun q =>
      if t.trb then (List.range t.k).map fun k => rowSeg (fTB t.w) t.db q.1 (t.off.b + k) q.2.2.2.2
      else
        let ms := if t.rowb then (List.range (q.2.2.1 - q.2.1)).map fun i => (q.2.1 + i) * t.db.e1 else [0]
        ms.flatMap fun r => (List.range (q.2.2.2.2 - q.2.2.2.1)).flatMap fun i =>
          rowSeg (fTB t.w) t.db q.1 (t.off.b + r + q.2.2.2.1 + i) t.k ::
            scaleSegs (fTB t.w) t.db q.1 (t.off.b + r + q.2.2.2.1 + i) bs

/-- The slot rows of a tile in `ACC` as segments (R206). -/
def Tens.slotSegs (t : Tens) (tr : Fin 32) (base : Nat) : List Seg :=
  t.tiles.flatMap fun tl => (List.range (min t.tm (t.m - tl.2.1 * t.tm))).map fun r =>
    { t := tr, sp := .acc, arr := t.arrOf tl.1,
      off := t.slotOff base tl.1 tl.2.1 tl.2.2 (tl.2.1 * t.tm + r) (tl.2.2 * t.tn),
      len := 4 * min t.tn (t.n - tl.2.2 * t.tn) }

/-- What an instruction reads of C, and of D's block scales (R145, R174). -/
def Tens.cSegs (t : Tens) : List Seg :=
  (match t.dc with
   | none => []
   | some c =>
     if c.space = .acc then t.slotSegs (fTC t.w) c.base
     else (t.spots c).flatMap fun q => (List.range (q.2.2.1 - q.2.1)).flatMap fun i =>
       rowsSegs (fTC t.w) c q.1 (t.off.c + q.2.1 + i) 1 q.2.2.2.2) ++
  (if t.dd.space = .acc then []
   else (t.spots t.dd).flatMap fun q => (List.range (q.2.2.1 - q.2.1)).flatMap fun i =>
     scaleSegs (fTD t.w) t.dd q.1 (t.off.d + q.2.1 + i) (List.range (ceilDiv q.2.2.2.2 32)))

/-- What an instruction writes of D. -/
def Tens.dSegs (t : Tens) : List Seg :=
  if t.dd.space = .acc then t.slotSegs (fTD t.w) t.dd.base
  else (t.spots t.dd).flatMap fun q =>
    ((List.range (q.2.2.1 - q.2.1)).filter fun i => t.acts (q.2.1 + i)).map fun i =>
      { t := fTD t.w, sp := t.dd.space, arr := q.1,
        off := t.dd.rowOff (t.off.d + q.2.1 + i) + t.dd.span q.2.2.2.1,
        len := t.dd.span q.2.2.2.2 - t.dd.span q.2.2.2.1 }

/-- What the lanes would write of D whatever their predicate (R60 is checked before the predicate, R98): its elements, since
its block scales are only read (R174). -/
def Tens.dAll (t : Tens) : List Seg :=
  if t.n = 0 then [] else (List.range t.m).map fun i => rowSeg (fTD t.w) t.dd 0 (t.off.d + i) t.n

/-- Every check at issue of a tensor instruction (R97). -/
def tensIss (s : State) (c : CtxId) (w : Insn) (op : TOp) : List Iss :=
  let k := tensMasks w op
  layoutIss w 2 k.1 k.2 ++ offsIss w ++ failIf (tensCodesBad w op || arrRangeBad s (s.ctx c) w) (iss .rsvdField) ++
  match tensOf s c w op with
  | none => [iss .rsvdField]
  | some t =>
    failIf (tensKindBad t || tensUseBad t) (iss .rsvdField) ++ tensShape t ++ tensAcc t ++ tensBuf t ++ tensRows t ++
      rdonlyIss (fTD w) t.dd ++ devWriteIss s c t.dAll

/-- A tensor instruction runs: its tiles, its predicate result and its flags. -/
def tensBody (c : CtxId) (op : TOp) (w : Insn) (s : State) : State :=
  match tensOf s c w op with
  | none => s
  | some t =>
    access s c (t.aSegs ++ t.bSegs ++ t.cSegs) t.dSegs fun s0 =>
      let r := t.tiles.foldl (t.runTile s0 c) (s0, 0)
      let s1 := t.smear (r.1.draw (if t.x.stat ∨ (t.k = 0 ∧ t.dc.isSome) then t.m * t.n else 0))
      let s2 := match op with
        | .cmpk q tree =>
          let pd := modF w 111 109
          if pd = 0 then s1
          else s1.setCtx c (pput (s1.ctx c) (Fin.ofNat 8 pd) (t.pdst s0 (pget t.x (Fin.ofNat 8 pd)) q tree))
        | _ => s1
      finishWrites s2 c t.dSegs r.2

/-- A tensor instruction issues. -/
def runTensor (s : State) (c : CtxId) (w : Insn) (op : TOp) : Res :=
  .next (issue s c w (op != .mma) (tensIss s c w op) (tensBody c op w))

/-- MMA (R110). -/
def execMma (c : CtxId) (w : Insn) (s : State) : Res := runTensor s c w .mma

/-- DIST (R112). -/
def execDist (c : CtxId) (w : Insn) (s : State) : Res := runTensor s c w (.dist (modF w 105 104))

/-- CMPK (R114, R115). -/
def execCmpk (c : CtxId) (w : Insn) (s : State) : Res :=
  runTensor s c w (.cmpk (modF w 108 106) (modF w 105 104))

end Sys2Proof.Machine
end

