-- ==== Sys2Proof/Machine/Movement.lean ====
section
/-! DEFINITION. The movement instructions and the prefetch events (03, R123 to R127, R527; 06, R207; 08, R267
to R269, R276 to R280). -/

namespace Sys2Proof.Machine

/-- The three copying instructions. -/
inductive MOp where
  | ldt
  | stt
  | gath
deriving DecidableEq, Repr

/-- The operands of a copying instruction: A, B of GATH, D. -/
structure MoveOps where
  da : Desc
  db : Option Desc
  dd : Desc
deriving Repr

/-- The operands, none where a descriptor holds a reserved code. -/
def moveOps (x : Ctx) (w : Insn) (op : MOp) : Option MoveOps :=
  match descOf (tget x (fTA w)), descOf (tget x (fTD w)),
      (if op = .gath then (descOf (tget x (fTB w))).map some else some none) with
  | some da, some dd, some db => some { da := da, db := db, dd := dd }
  | _, _, _ => none

/-- Buffer or accumulator memory. -/
def inArray (d : Desc) : Bool := d.space == .buf || d.space == .acc

/-- The spaces D may lie in (R123, R125). -/
def moveSpaceOk (op : MOp) (sp : Space) : Bool :=
  match op with
  | .stt => sp == .dev || sp == .workn || sp == .workf || sp == .hout
  | _ => sp == .buf || sp == .acc || sp == .workn || sp == .workf

/-- Some operand lies in an array's memories (R207). -/
def moveUses (o : MoveOps) : Bool := inArray o.da || inArray o.dd || (o.db.map inArray).getD false

/-- Rows of D that the elements of B reach, counted with dimension 0 innermost. -/
def idxRows (d : Desc) (m : Nat) : Nat := ceilDiv m d.e0

/-- Element `i` of an index operand, dimension 0 innermost from its offset row (R131). DESIGN CHOICE: B[m] of GATH is found so too,
where R125 does not say how a B of several rows is counted (assumption 31). -/
def idxElem (s : State) (x : Ctx) (d : Desc) (a : ArrId) (off i : Nat) : Nat := rdCode s x d a (off + i / d.e0) (i % d.e0)

/-- The segments of the first `n` elements of an index operand. -/
def idxSegs (t : Fin 32) (d : Desc) (a : ArrId) (off n : Nat) : List Seg :=
  rowsSegs t d a off (n / d.e0) d.e0 ++ rowsSegs t d a (off + n / d.e0) 1 (n % d.e0)

/-- Whether block scales go with the rows (R123, R124). -/
def moveScales (o : MoveOps) : Bool := o.da.sw != 0 && o.da.space != .acc && o.dd.space != .acc

/-- Checks at issue of LDT, STT and GATH (R97, R123 to R125, R207, R527); the scales of D are written only where they go with
the rows (R60, R124). DESIGN CHOICE: a row length beyond the planned one reports dimension 1, as R122 has it for REQ, SRND and UPDW;
exactly one of A and D in `ACC` with a format that is neither an integer nor a floating one is a reserved field, as R124 gives it
no path; and M beyond B's elements is beyond B's planned extent, `DESC_RANGE` (assumption 31). -/
def moveIss (s : State) (c : CtxId) (w : Insn) (op : MOp) : List Iss :=
  let x := s.ctx c
  let m := sv x (fSM w)
  let l := sv x (fSK w)
  let f := offsOf x w
  let arrUsed := match moveOps x w op with
    | some o => moveUses o
    | none => true
  layoutIss w 3 (mTD + mTA + (if op = .gath then mTB else 0) + mSM + mSK + mOFF w + (if arrUsed then mARR else 0)) 0x80 ++
  offsIss w ++
  match moveOps x w op with
  | none => [iss .rsvdField]
  | some o =>
    let bs := o.db.toList
    failIf (!moveSpaceOk op o.dd.space || o.da.fmt != o.dd.fmt || o.da.smode != o.dd.smode ||
      (decide ((o.da.space = .acc) ≠ (o.dd.space = .acc)) && !fmtArith o.da.fmt) ||
      (op == .gath && o.da.space == .acc) || bs.any (fun d => d.fmt != .vid || d.space == .acc) ||
      (arrUsed && arrRangeBad s x w) || (inArray o.da && !inArray o.dd && fAN w != 0)) (iss .rsvdField) ++
    shapeIss 0 m (((o.dd :: (if op = .gath then [] else [o.da])).map Desc.rows).foldl min (2 ^ 64)) ++
    shapeIss 1 l (min o.da.e0 o.dd.e0) ++
    (if op = .gath then [] else rowsIss (fTA w) (f.a + m) o.da) ++
    (bs.flatMap fun d => rowsIss (fTB w) (f.b + idxRows d m) d) ++ rowsIss (fTD w) (f.d + m) o.dd ++
    rdonlyIss (fTD w) o.dd ++ devWriteIss s c (if moveScales o then rowsSegs (fTD w) o.dd 0 f.d m l
      else if l = 0 then [] else (List.range m).map fun i => rowSeg (fTD w) o.dd 0 (f.d + i) l)

/-- The arrays a copy writes in, each with the array it reads from: each array copies within its own memories
where A and D both lie there; otherwise A is read from `AFIRST` (R207). -/
def moveLanes (s : State) (x : Ctx) (w : Insn) (o : MoveOps) : List (ArrId × ArrId) :=
  let l := arrRange s x w
  let a0 := l.headD 0
  if inArray o.dd then l.map fun a => (if inArray o.da then a else a0, a) else [(a0, a0)]

/-- One element copied, converted out of `ACC` or widened into it (R124): its code and flags. DESIGN CHOICE: a NaN converted
out of `ACC` raises `NANIN` and one widened into it raises no flag, which R124, R158 and R162 leave open (assumption 31). -/
def moveElem (s : State) (x : Ctx) (o : MoveOps) (a : ArrId) (ra rd i : Nat) : Nat × Fl :=
  let code := rdCode s x o.da a ra i
  if o.da.space = .acc ∧ o.dd.space ≠ .acc then
    let v := accOf (fmtIsInt o.da.fmt) code
    let r := accOut o.dd (rdScale s x o.dd a rd (i / 32)) .rne v
    (r.1, nanFl (accVal v) ||| r.2)
  else if o.da.space ≠ .acc ∧ o.dd.space = .acc then
    if fmtIsInt o.da.fmt then (intCode 32 (intVal o.da.fmt code), flNone)
    else ((rne32 (elemVal o.da.fmt code)).1.toNat, flNone)
  else (code, flNone)

/-- One row copied into row `rd` of D from row `ra` of A, or zeros with neutral scales where there is none (R125). DESIGN
CHOICE: a flag of converting records the row, the element and k zero, since these instructions have no K (R165; assumption
31). DESIGN CHOICE: every row is read from the state before the instruction, so where A and D overlap D gets A's old elements; the
spec gives no order (assumption 31). -/
def moveRow (s0 : State) (x : Ctx) (c : CtxId) (o : MoveOps) (l : Nat) (lane : ArrId × ArrId) (m rd : Nat)
    (ra : Option Nat) (acc : State × BitVec 6) : State × BitVec 6 :=
  let s1 := if moveScales o then
      (List.range (ceilDiv l 32)).foldl (fun st b =>
        let v := match ra with
          | some r => rdScale s0 x o.da lane.1 r b
          | none => if o.da.smode = 1 then 0x7F else 1
        wrScale st c o.dd lane.2 rd b v) acc.1
    else acc.1
  (List.range l).foldl (fun q i =>
    let e := match ra with
      | some r => moveElem s0 x o lane.1 r rd i
      | none => (0, flNone)
    (arrayRaise (wrCode q.1 c o.dd lane.2 rd i e.1) lane.1 c (raiseAt e.2 m i 0), q.2 ||| flToCtx e.2)) (s1, acc.2)

/-- What a copy writes. -/
def moveWr (s : State) (x : Ctx) (w : Insn) (o : MoveOps) : List Seg :=
  let m := sv x (fSM w)
  let l := sv x (fSK w)
  (moveLanes s x w o).flatMap fun q => (List.range m).flatMap fun i =>
    if l = 0 then [] else
    rowSeg (fTD w) o.dd q.2 ((offsOf x w).d + i) l ::
      (if moveScales o then scaleSegs (fTD w) o.dd q.2 ((offsOf x w).d + i) (List.range (ceilDiv l 32)) else [])

/-- What a copy reads of the given rows of A, and of D's scales where values leave `ACC` (R124). -/
def moveRd (s : State) (x : Ctx) (w : Insn) (o : MoveOps) (rows : List (Option Nat)) : List Seg :=
  let l := sv x (fSK w)
  (moveLanes s x w o).flatMap fun q =>
    (rows.flatMap fun r =>
      match r with
      | some r =>
        if l = 0 then [] else
        rowSeg (fTA w) o.da q.1 r l :: (if moveScales o then scaleSegs (fTA w) o.da q.1 r (List.range (ceilDiv l 32)) else [])
      | none => []) ++
    (if o.da.space = .acc ∧ o.dd.space ≠ .acc then
      (List.range (sv x (fSM w))).flatMap fun i =>
        scaleSegs (fTD w) o.dd q.2 ((offsOf x w).d + i) (List.range (ceilDiv l 32))
     else [])

/-- Copies the given rows of A into consecutive rows of D, for an instruction that began in state `b`. -/
def moveRows (b : State) (c : CtxId) (w : Insn) (o : MoveOps) (rows : List (Option Nat)) (s : State) : State :=
  let x := s.ctx c
  let wr := moveWr s x w o
  accessAs b s c (moveRd s x w o rows) wr fun s0 =>
    let r := (moveLanes s x w o).foldl (fun acc lane =>
      ((List.range rows.length).zip rows).foldl (fun q p =>
        moveRow s0 x c o (sv x (fSK w)) lane p.1 ((offsOf x w).d + p.1) p.2 q) acc) (s0, (0 : BitVec 6))
    finishWrites r.1 c wr r.2

/-- LDT or STT takes effect (R123, R124). -/
def moveBody (c : CtxId) (w : Insn) (op : MOp) (s : State) : State :=
  let x := s.ctx c
  match moveOps x w op with
  | none => s
  | some o => moveRows s c w o ((List.range (sv x (fSM w))).map fun i => some ((offsOf x w).a + i)) s

/-- LDT (R123). -/
def execLdt (c : CtxId) (w : Insn) (s : State) : Res := .next (issue s c w false (moveIss s c w .ldt) (moveBody c w .ldt))

/-- STT (R123). -/
def execStt (c : CtxId) (w : Insn) (s : State) : Res := .next (issue s c w false (moveIss s c w .stt) (moveBody c w .stt))

/-- GATH takes effect (R125): the indices are read, then their rows. -/
def gathBody (c : CtxId) (w : Insn) (s : State) : State :=
  let x := s.ctx c
  match moveOps x w .gath with
  | none => s
  | some o =>
    match o.db with
    | none => s
    | some db =>
      let m := sv x (fSM w)
      let f := offsOf x w
      let a0 := (arrRange s x w).headD (arr0 s x)
      access s c (idxSegs (fTB w) db a0 f.b m) [] fun s1 =>
        let ids := (List.range m).map fun i => idxElem s1 x db a0 f.b i
        if ids.any fun v => v != noId && decide (o.da.rows ≤ f.a + v) then
          faultCtx (scramble s1 c (moveWr s1 x w o)) c .descRange 0xE0 0 (BitVec.ofNat 28 (fTA w).val)
        else moveRows s c w o (ids.map fun v => if v = noId then none else some (f.a + v)) s1

/-- GATH (R125). -/
def execGath (c : CtxId) (w : Insn) (s : State) : Res := .next (issue s c w false (moveIss s c w .gath) (gathBody c w))

/-! ## Prefetches -/

/-- `TIER` of PREF (R126). -/
def fTier (w : Insn) : Nat := modF w 105 104

/-- Fallback of PREF (R126). -/
def fFall (w : Insn) : Nat := modF w 107 106

/-- The operands of PREF: A, and C where the fallback is 2. -/
def prefOps (x : Ctx) (w : Insn) : Option (Desc × Option Desc) :=
  match descOf (tget x (fTA w)), (if fFall w = 2 then (descOf (tget x (fTC w))).map some else some none) with
  | some da, some dc => some (da, dc)
  | _, _ => none

/-- Whether two descriptors have the same planned extents (R279). -/
def sameExtents (a b : Desc) : Bool := a.e0 == b.e0 && a.e1 == b.e1 && a.e2 == b.e2 && a.e3 == b.e3

/-- The rows a PREF names, with their scales. -/
def prefSegs (x : Ctx) (w : Insn) (d : Desc) : List Seg := rowsSegs (fTA w) d 0 (offsOf x w).a (sv x (fSM w)) d.e0

/-- Checks at issue of PREF (R97, R126, R279, R527). DESIGN CHOICE: with fallback 2, an A in `DEV` that reaches outside the
context's own areas faults with `ADDR_RANGE` as PREF issues, since the coarse copy would write it; R60, R126 and R279 do not say
whether the fault comes then or only with the copy (assumption 31). -/
def prefIss (s : State) (c : CtxId) (w : Insn) : List Iss :=
  let x := s.ctx c
  let m := sv x (fSM w)
  let f := offsOf x w
  layoutIss w 3 (mTA + (if fFall w = 2 then mTC else 0) + mSM + mSP1 + mOFF w) 0xF80 ++ offsIss w ++
  failIf (decide (2 ≤ fTier w) || fFall w == 3) (iss .rsvdField) ++
  match prefOps x w with
  | none => [iss .rsvdField]
  | some (da, dc) =>
    failIf (!(da.space == .dev || da.space == .const || da.space == .workn || da.space == .workf)) (iss .rsvdField) ++
    (match dc with
     | some d => failIf (!sameExtents da d || !fmtArith d.fmt || !fmtArith da.fmt || d.space == .acc ||
         da.space == .const || da.rdonly) (iss .rsvdField) ++ rowsIss (fTC w) (f.c + m) d ++
         devWriteIss s c (prefSegs x w da)
     | none => []) ++
    shapeIss 0 m da.rows ++ rowsIss (fTA w) (f.a + m) da

/-- Whether a device address already lies in a tier at or above the target (R127, R269). -/
def pageIn (s : State) (target no : Nat) : Bool :=
  match s.tiers.pages.find? fun p => p.no == no with
  | some p => p.loc == .tierN || (target == 1 && p.loc == .tierF)
  | none => decide (no * Config.pageBytes < Config.tierXBase) && (target == 1 || homeN no)

/-- The deadline of a PREF: s[`SP1`], or the context's default from now, or none (R126, R136). DESIGN CHOICE: the sum of now and the
default is taken modulo 2^64, where R126 gives no width, so that a very large default wraps (assumption 31). -/
def prefDeadline (s : State) (x : Ctx) (w : Insn) : BitVec 64 :=
  if sget x (fSP1 w) ≠ 0 then sget x (fSP1 w) else if x.deadline ≠ 0 then s.time.now + x.deadline else 0

/-- The earlier of two deadlines, zero being none (R127). -/
def earlier (a b : BitVec 64) : BitVec 64 := if a = 0 then b else if b = 0 then a else if a.toNat ≤ b.toNat then a else b

/-- Ranges joined where they touch or overlap, in falling order: equal for lists of ranges that cover the same bytes. -/
def joinRanges (l : List Range) : List Range :=
  (sortBy Prod.fst l).foldl (fun acc r =>
    match acc with
    | (a, b) :: t => if r.1 ≤ b then (a, max b r.2) :: t else r :: (a, b) :: t
    | [] => [r]) []

/-- Whether a prefetch under way has the same range as another (R127). -/
def samePref (p q : Pref) : Bool := !q.done && !q.fired && joinRanges q.rows == joinRanges p.rows

/-- Adds a prefetch, joining one to the same range (R127). DESIGN CHOICE: where their tiers differ the later one's is kept, as R127
names deadline and fallback only (assumption 31). -/
def addPref (l : List Pref) (p : Pref) : List Pref :=
  if l.any (samePref p) then
    l.map fun q => if samePref p q then { p with deadline := earlier q.deadline p.deadline } else q
  else l ++ [p]

/-- Ranges widened to whole pages. -/
def wholePages (l : List Range) : List Range :=
  l.map fun r => (r.1 / Config.pageBytes * Config.pageBytes, (r.2 + Config.pageBytes - 1) / Config.pageBytes * Config.pageBytes)

/-- What a move brings from lease windows: whole pages (R269, R357). -/
def prefFar (s : State) (p : Pref) : List (Lease × Nat × Nat) := farPieces s (wholePages p.rows)

/-- PREF takes effect (R126, R127); it waits to issue while a block that holds its pages takes no new request (R27). -/
def prefBody (c : CtxId) (w : Insn) (s : State) : State :=
  let x := s.ctx c
  match prefOps x w with
  | none => s
  | some (da, _) =>
    let gs := prefSegs x w da
    match boundFault s c gs [] with
    | some t => faultCtx s c .addrRange 0xE0 0 (BitVec.ofNat 28 t.val)
    | none =>
      let rows := devRanges s x gs
      if (rows.flatMap pagesOf).all (pageIn s (fTier w)) then finishInsn s c 0
      else if rows.any (rangeBusy s) then stallCtx s c
      else
        let p : Pref := { rows := rows, target := BitVec.ofNat 2 (fTier w), deadline := prefDeadline s x w
                          fallback := BitVec.ofNat 2 (fFall w), done := false, failed := false, fired := false
                          aDesc := tget x (fTA w), aOff := (offsOf x w).a, m := sv x (fSM w)
                          cDesc := tget x (fTC w), cOff := (offsOf x w).c, ct := fTC w }
        finishInsn (askFar (s.setCtx c { x with prefs := addPref x.prefs p }) (prefFar s p)) c 0

/-- PREF (R126). -/
def execPref (c : CtxId) (w : Insn) (s : State) : Res := .next (issue s c w false (prefIss s c w) (prefBody c w))

/-- Whether a page lies below the target tier of a prefetch (R269). -/
def belowTarget (target : BitVec 2) (p : Page) : Bool :=
  if target = 0 then p.loc != .tierN else p.loc != .tierN && p.loc != .tierF

/-- The lease in whose window a page number lies. -/
def windowLease (s : State) (n : Nat) : Option Lease :=
  s.fab.leases.find? fun l => l.granted && !l.lost && decide (l.window < 48) &&
    decide (windowBase l.window ≤ n * Config.pageBytes ∧ n * Config.pageBytes < windowBase l.window + l.pages * Config.pageBytes)

/-- Brings the pages of a range into the target tier, those of a lease window too (R126, R269); none when a frame must be
waited for. -/
def bringPages (target : BitVec 2) (busy : List Range) : List Nat → State → Option State
  | [], s => some s
  | n :: t, s =>
    match s.tiers.pages.find? fun p => p.no == n with
    | none =>
      match windowLease s n with
      | none => bringPages target busy t s
      | some l =>
        let p : Page := { no := n, owner := .lease l.req, pinned := false, loc := .none, age := 0, stk := 0, xat := none }
        match movePage { s with tiers := { s.tiers with pages := insertPage p s.tiers.pages } } busy p (if target = 0 then .tierN else .tierF) with
        | none => none
        | some s1 => bringPages target busy t s1
    | some p =>
      if belowTarget target p then
        match movePage s busy p (if target = 0 then .tierN else .tierF) with
        | none => none
        | some s1 => bringPages target busy t s1
      else bringPages target busy t s

/-- PREF_MOVE_COMPLETE: the move of a prefetch finishes, once the data of lease windows have come (R357), the partition's
regulators have tokens for it (R316) and no tier controller that it needs is being reset (R27, R459). Before its deadline the first access then finds it done; after it the fallback still runs at that access (R126, R278). -/
def execPrefMoveComplete (c : CtxId) (i : Nat) (s : State) : Res :=
  match (s.ctx c).prefs[i]? with
  | none => .next s
  | some p =>
    if p.done || p.fired || p.failed || !(prefFar s p).all (farHere s) then .next s
    else
      match bringPages p.target (p.rows ++ movingPages s) (p.rows.flatMap pagesOf) (takeFar s (prefFar s p)) with
      | none => .next s
      | some s0 =>
        let l := moveDues s s0 p.rows
        let s1 := charge s0 (s.ctx c).part l
        if inDebt (s.part (s.ctx c).part) l || p.rows.any (rangeDown s) || p.rows.any (rangeDown s0) then .next s
        else if p.deadline ≠ 0 ∧ p.deadline.toNat ≤ s.time.now.toNat then .next s1
        else
          let s2 := setPref s1 c i { p with done := true }
          .next (if (s2.ctx c).wait = .access i then unblockCtx s2 c else s2)

/-- PREF_FALLBACK: a waiting access finds the deadline passed or the tier failed, and the fallback runs (R278). -/
def execPrefFallback (c : CtxId) (s : State) : Res :=
  match (s.ctx c).wait with
  | .access i =>
    match (s.ctx c).prefs[i]? with
    | none => .next s
    | some p =>
      if p.failed || (p.deadline != 0 && decide (p.deadline.toNat ≤ s.time.now.toNat)) then
        if !(coarseFar s c p).all (farHere s) then .next (askFar s (coarseFar s c p))
        else match runFallback s c i p with
        | .goOn s1 => .next (unblockCtx s1 c)
        | .wait => .next s
        | .hold => .next s
        | .busy => .next s
        | .fault k u d => .next (faultCtx s c k u 0 d)
      else .next s
  | _ => .next s

/-- DEMOTION_RESUME: a frame has freed, and the accesses that waited for one go on, those of commands too (R267, R271). -/
def execDemotionResume (s : State) : Res :=
  .next (wakeParked (allCtx.foldl (fun st c => if (st.ctx c).wait = .frame then unblockCtx st c else st) s))

end Sys2Proof.Machine
end

