-- ==== Sys2Proof/Machine/Storage.lean ====
section
/-! DEFINITION. The storage instructions: the view of an index (07, R233 to R235), filter programs (R242 to
R246), SCAN and the foragers' return (R128, R236 to R241, R257), PGRD (R129, R130, R252) and APND (R131, R247
to R254). -/

namespace Sys2Proof.Machine

/-! ## Index objects -/

/-- `ADDR_RANGE` for an index, a namespace or a forager, which no descriptor names (R132). -/
def noObject : Iss := iss .addrRange

/-- The generation record that a view reads. -/
def viewGen (s : State) (v : View) : Gen := (s.index v.idx).gens[v.rcd]

/-- The brood entries of a view (R233). -/
def viewBrood (s : State) (v : View) : List BroodEnt :=
  (s.index v.idx).brood.filter fun e => decide (v.sbase.toNat < e.seq.toNat) && decide (e.seq.toNat ≤ v.b.toNat)

/-- Whether an ID has a brood entry among the given ones (R251). -/
def shadowed (l : List BroodEnt) (id : BitVec 64) : Bool := l.any fun e => e.id == id

/-- The live brood entries among the given ones, in ascending sequence order (R251). -/
def liveBrood (l : List BroodEnt) : List BroodEnt :=
  sortBy (fun e => e.seq.toNat) (l.filter fun e =>
    !e.tomb && !l.any fun f => f.id == e.id && decide (e.seq.toNat < f.seq.toNat))

/-- An attribute row of a generation; a handle beyond its rows names a row of zeros (R230). -/
def attrRow (g : Gen) (h : BitVec 32) : Bytes :=
  if g.arows.toNat ≤ h.toNat then [] else ((g.attrs.find? fun p => p.1 == h.toNat).map Prod.snd).getD []

/-- The list that a probe of a centroid ID scans: the survivor of a retired one, none of a free one (R238). -/
def resolveCent (g : Gen) (id : Nat) : Option Nat :=
  match g.fwd.find? fun p => p.1.toNat == id with
  | some p => if p.2 = BitVec.allOnes 64 then none else some p.2.toNat
  | none => some id

/-- The live centroids of a generation (R257). -/
def liveCents (g : Gen) : List Nat :=
  (List.range g.ncent.toNat).filter fun c => !g.fwd.any fun p => p.1.toNat == c

/-- The posting list of a centroid; an absent one is empty (R227). -/
def listOf (g : Gen) (c : Nat) : PList := (g.lists.find? fun l => l.cent == c).getD { cent := c, gen := 0, scales := [], ents := [] }

/-- The instruction that `METRIC` compares with (R223, R239). -/
def metricOp (x : Idx) : TOp := .dist x.metric.toNat

/-- A descriptor that carries a format and a block-scale mode only, for values that no t-register describes. -/
def bareDesc (f : Fmt) (sm : Nat) : Desc :=
  { base := 0, space := .dev, fmt := f, rank := 1, smode := sm, learned := false, rdonly := false, tid := 0, soff := 0
    e0 := 1, e1 := 1, e2 := 1, e3 := 1, s1 := 0, s2 := 0, s3 := 0 }

/-- The list code format of an index with its block scales (R223, R228). -/
def codeDesc (x : Idx) : Desc :=
  let f := (fmtOf x.codeFmt.toNat).getD .int8
  bareDesc f (if f = .e4m3 then 1 else 2)

/-- Element `k` of a byte string of elements of one format (R139). -/
def packedAt (bits : Nat) (b : Bytes) (k : Nat) : Nat :=
  if bits = 4 then
    let v := (b.getD (k / 2) 0).toNat
    if k % 2 = 0 then v % 16 else v / 16
  else fieldAt b (k * (bits / 8)) (bits / 8)

/-- Bytes of one list entry (R229). -/
def entBytes (x : Idx) : Nat := x.dim.toNat * fmtBits (codeDesc x).fmt / 8 + 12

/-- H, the bytes of an extent's header (R228). -/
def extHeader (x : Idx) : Nat := roundUp (64 + (if x.codeFmt = 5 then 1 else 4) * (x.dim.toNat / 32)) 64

/-- Entries that one extent holds (R229). -/
def extEnts (x : Idx) : Nat := (262144 - extHeader x) / entBytes x

/-- The header of extent `j` of a list, H bytes (R228). -/
def extentHeader (i : IdxId) (x : Idx) (l : PList) (j : Nat) : Bytes :=
  let n := l.ents.length
  let h := [0x4F, 0x58, 0x4C, 0x45] ++ toLe 1 i.val ++ toLe 1 x.codeFmt.toNat ++ toLe 2 x.dim.toNat ++ toLe 4 l.gen.toNat ++
    toLe 4 l.cent ++ toLe 2 j ++ toLe 2 (b2n (j + 1 == ceilDiv n (extEnts x))) ++ toLe 4 (min (extEnts x) (n - j * extEnts x)) ++
    toLe 40 0 ++ l.scales.flatMap fun v => toLe (if x.codeFmt = 5 then 1 else 4) v.toNat
  h ++ toLe (extHeader x - h.length) 0

/-- A list entry as it is stored (R229). -/
def entryBytes (e : ListEnt) : Bytes := e.code ++ toLe 8 e.id.toNat ++ toLe 4 e.handle.toNat

/-- Extent `j` of a list as it is stored: its header and its entries (R228, R229). -/
def extentBytes (i : IdxId) (x : Idx) (l : PList) (j : Nat) : Bytes :=
  extentHeader i x l j ++ ((l.ents.drop (j * extEnts x)).take (extEnts x)).flatMap entryBytes

/-- The channels of an index in ascending order (R223). -/
def chansOf (mask : BitVec 32) : List ChanId := allChan.filter fun n => mask.getLsbD n

/-- The channel of extent `j` of list `c` (R227). -/
def extChan (g : Gen) (c j : Nat) : ChanId :=
  let l := chansOf g.chans
  l.getD ((c + j) % l.length) 0

/-- Bytes a scan reads of extent `j` of a list of `n` entries, in whole logical blocks (R227). -/
def extRead (x : Idx) (n j : Nat) : Nat :=
  roundUp (extHeader x + min (extEnts x) (n - j * extEnts x) * entBytes x) 4096

/-- Byte offset of a bank's scale array (R225, R59). `CENT_SOFF` shows its low 32 bits: DESIGN CHOICE, a bank whose rows
take 4 GiB or more has an offset that the field cannot hold (assumption 14). -/
def centSoffOf (x : Idx) : Nat := if x.centFmt = 7 then 0 else x.ncentCap.toNat * x.dim.toNat

/-- The device ranges of a centroid's row and block scales in a generation's bank (R225). -/
def centRanges (x : Idx) (g : Gen) (c : Nat) : List Range :=
  let n := x.dim.toNat * centElem x
  let a := g.centAddr.toNat + c * n
  let k := x.dim.toNat / 32 * 4
  let b := g.centAddr.toNat + centSoffOf x + c * k
  (a, a + n) :: (if x.centFmt = 7 then [] else [(b, b + k)])

/-- The device range of the attribute row of a handle, none for a handle that names a row of zeros (R230). -/
def attrRanges (x : Idx) (g : Gen) (h : BitVec 32) : List Range :=
  let a := x.attrAddr.toNat + h.toNat * x.attrWidth.toNat
  if g.arows.toNat ≤ h.toNat then [] else [(a, a + x.attrWidth.toNat)]

/-- The value of element `k` of a centroid of a generation, with the flags of reading it (R225, R239). -/
def centVal (s : State) (x : Idx) (g : Gen) (c k : Nat) : XVal × Fl :=
  if x.centFmt = 7 then
    plainVal (bareDesc .bf16 0) (leNat (memGets s.tiers.mem (g.centAddr.toNat + (c * x.dim.toNat + k) * 2) 2))
  else
    scaledVal (bareDesc .int8 2) (memGet s.tiers.mem (g.centAddr.toNat + c * x.dim.toNat + k)).toNat
      (leNat (memGets s.tiers.mem (g.centAddr.toNat + centSoffOf x + (c * (x.dim.toNat / 32) + k / 32) * 4) 4))

/-- Element `k` of a BF16 vector. -/
def bf16At (b : Bytes) (k : Nat) : XVal × Fl := plainVal (bareDesc .bf16 0) (fieldAt b (2 * k) 2)

/-- Element `k` of a list entry, rebuilt from its centroid and its residual code (R239). -/
def entVal (s : State) (x : Idx) (g : Gen) (l : PList) (e : ListEnt) (k : Nat) : XVal × Fl :=
  let d := codeDesc x
  let r := scaledVal d (packedAt (fmtBits d.fmt) e.code k) ((l.scales.getD (k / 32) 0).toNat)
  let c := centVal s x g l.cent k
  let v := rne32f (xadd c.1 r.1)
  (val32 v.1, c.2 ||| r.2 ||| v.2)

/-- The distance of R239 between a query and a vector, block by block, with its flags at (m, n, k). -/
def distance (op : TOp) (dim m n : Nat) (q x : Nat → XVal × Fl) : Rec (BitVec 32) :=
  let blocks := (List.range (dim / 32)).foldl (fun (acc : Option (Rec (BitVec 32))) b =>
    let v := ((List.range 32).foldl (fun a i =>
      let k := 32 * b + i
      let t := fTerm op (q k).1 (x k).1
      fJoin m n k a (t.1, t.2 ||| (q k).2 ||| (x k).2)) none).getD (0, .none)
    match acc with
    | none => some v
    | some a =>
      let r := fadd a.1 v.1
      some (r.1, excJoin a.2 (excJoin v.2 (raiseAt r.2 m n (32 * b))))) none
  blocks.getD (0, .none)

/-! ## Views -/

/-- The view that a step holds on an index (R233). -/
def heldView (x : Ctx) (i : IdxId) : Option View := x.views.find? fun v => v.idx == i

/-- The record that a pinned generation names, if it is readable (R235). -/
def pinRecord (x : Idx) (g : BitVec 32) : Option (Fin 2) :=
  [(0 : Fin 2), 1].find? fun r => x.gens[r].gen == g && x.gens[r].valid

/-- The pinned view (g, `SBASE` of g + Δ), if R235 accepts it. -/
def pinView (s : State) (i : IdxId) (g : BitVec 32) (delta : Nat) : Option View :=
  let x := s.index i
  match pinRecord x g with
  | none => none
  | some r =>
    let sb := x.gens[r].sbase
    let top := if r = x.cur then x.head.toNat else x.gens[(r + 1 : Fin 2)].sbase.toNat
    if sb.toNat + delta ≤ top then
      some { idx := i, rcd := r, g := g, b := BitVec.ofNat 64 (sb.toNat + delta), sbase := sb, pinned := true
             stamp := stampOf s, seq := s.time.seq }
    else none

/-- The current view of an index (R233). -/
def curView (s : State) (i : IdxId) : View :=
  let x := s.index i
  let g := x.gens[x.cur]
  { idx := i, rcd := x.cur, g := g.gen, b := x.head, sbase := g.sbase, pinned := false, stamp := stampOf s, seq := s.time.seq }

/-- The view an instruction reads through: the one the step holds, or the current one (R233). -/
def viewFor (s : State) (x : Ctx) (i : IdxId) : View := (heldView x i).getD (curView s i)

/-- The state with the step's view of an index fixed; fixing it takes one stamp (R233, R258, R329). -/
def fixView (s : State) (c : CtxId) (v : View) : State :=
  match heldView (s.ctx c) v.idx with
  | some _ => s
  | none => (s.tickSeq).setCtx c { s.ctx c with views := (s.ctx c).views ++ [v] }

/-! ## Filter programs -/

/-- `FOP` of a filter instruction (R243). -/
def fopOf (w : Nat) : Nat := w % 256
/-- `OFF` of a filter instruction (R243). -/
def foffOf (w : Nat) : Nat := w / 256 % 256
/-- `TYPE` of a filter instruction (R243). -/
def ftypOf (w : Nat) : Nat := w / 65536 % 16
/-- Reserved bits of a filter instruction (R243). -/
def fresOf (w : Nat) : Nat := w / 2 ^ 20 % 4096
/-- `IMM` of a filter instruction (R243). -/
def fimmOf (w : Nat) : Nat := w / 2 ^ 32

/-- Bytes of a field type (R245). -/
def ftypBytes (t : Nat) : Nat := if t = 0 ∨ t = 3 then 1 else if t = 2 ∨ t = 5 then 4 else 2

/-- Whether a comparison is well formed against an attribute width (R244 to R246). -/
def fcmpOk (width w : Nat) : Bool :=
  decide (ftypOf w ≤ 6) && fresOf w == 0 && decide (foffOf w + ftypBytes (ftypOf w) ≤ width) &&
    (ftypOf w != 6 || (decide (fopOf w ≤ 6) && decide (fimmOf w < 65536)))

/-- Whether an operation other than a comparison has its other fields zero (R245). -/
def fzeroOk (w : Nat) : Bool := foffOf w == 0 && ftypOf w == 0 && fresOf w == 0 && fimmOf w == 0

/-- Whether a filter program meets R246, from a stack depth on. -/
def filterOk (width : Nat) : Nat → List Nat → Bool
  | _, [] => false
  | d, w :: t =>
    if fopOf w = 0 then fzeroOk w && decide (d ≤ 1)
    else if fopOf w ≤ 8 then fcmpOk width w && decide (d < 8) && filterOk width (d + 1) t
    else if fopOf w = 0x10 ∨ fopOf w = 0x11 then fzeroOk w && decide (2 ≤ d) && filterOk width (d - 1) t
    else if fopOf w = 0x12 then fzeroOk w && decide (1 ≤ d) && filterOk width d t
    else if fopOf w = 0x13 ∨ fopOf w = 0x14 then fzeroOk w && decide (d < 8) && filterOk width (d + 1) t
    else false

/-- A value of `n` bits as signed or unsigned. -/
def widen (signed : Bool) (n v : Nat) : Int := if signed && decide (2 ^ (n - 1) ≤ v) then (v : Int) - 2 ^ n else (v : Int)

/-- One comparison against an attribute row (R244, R245). -/
def fcompare (row : Bytes) (w : Nat) : Bool :=
  let n := ftypBytes (ftypOf w)
  let raw := fieldAt row (foffOf w) n
  if ftypOf w = 6 then
    let a := bf16 raw
    let b := bf16 (fimmOf w)
    match fopOf w with
    | 1 => xeq a b
    | 2 => !xeq a b
    | 3 => xlt a b
    | 4 => xlt a b || xeq a b
    | 5 => xlt b a
    | _ => xlt b a || xeq a b
  else
    let sg := decide (3 ≤ ftypOf w)
    let a := widen sg (8 * n) raw
    let b := widen sg 32 (fimmOf w)
    let bitsA := (a % 2 ^ 32).toNat
    match fopOf w with
    | 1 => decide (a = b)
    | 2 => decide (a ≠ b)
    | 3 => decide (a < b)
    | 4 => decide (a ≤ b)
    | 5 => decide (b < a)
    | 6 => decide (b ≤ a)
    | 7 => bitsA &&& fimmOf w != 0
    | _ => bitsA &&& fimmOf w == fimmOf w

/-- Runs a filter program that meets R246 against an attribute row (R242, R244). -/
def filterRun (row : Bytes) : List Bool → List Nat → Bool
  | st, [] => st.headD true
  | st, w :: t =>
    if fopOf w = 0 then st.headD true
    else if fopOf w ≤ 8 then filterRun row (fcompare row w :: st) t
    else
      match fopOf w, st with
      | 0x10, a :: b :: r => filterRun row ((a && b) :: r) t
      | 0x11, a :: b :: r => filterRun row ((a || b) :: r) t
      | 0x12, a :: r => filterRun row ((!a) :: r) t
      | 0x13, r => filterRun row (true :: r) t
      | 0x14, r => filterRun row (false :: r) t
      | _, r => filterRun row r t

/-- The first 32 instructions of a filter row, or fewer where it is shorter (R242, R246). -/
def filterWords (s : State) (x : Ctx) (d : Desc) (a : ArrId) (r : Nat) : List Nat :=
  (List.range (min 32 (d.e0 / 8))).map fun i => leNat (readN s x d.space a (d.rowOff r + 8 * i) 8)

/-- The bytes of a filter row that the drive reads: up to its first `END` (R242). -/
def filterSpan (l : List Nat) : Nat := 8 * (min l.length ((l.takeWhile fun w => fopOf w != 0).length + 1))

/-- Whether a filter program looks at the attribute row. -/
def filterLooks (l : List Nat) : Bool := (l.takeWhile fun w => fopOf w != 0).any fun w => decide (fopOf w ≤ 8)

/-- The segment of a filter row. -/
def filterSeg (s : State) (x : Ctx) (t : Fin 32) (d : Desc) (a : ArrId) (r : Nat) : Seg :=
  { t := t, sp := d.space, arr := a, off := d.rowOff r, len := filterSpan (filterWords s x d a r) }

/-- Whether filter rows within reach break R246. A row out of reach faults as it is read. -/
def filtersBad (s : State) (c : CtxId) (t : Fin 32) (d : Desc) (a : ArrId) (width : Nat) (rows : List Nat) : Bool :=
  rows.any fun r => segInBound s c false (filterSeg s (s.ctx c) t d a r) &&
    !filterOk width 0 (filterWords s (s.ctx c) d a r)

/-! ## SCAN -/

/-- The fields of the SCAN descriptor word (R236). -/
structure ScanW where
  idx   : IdxId
  mode  : Nat
  pin   : Bool
  delta : Nat
  gen   : BitVec 32
deriving DecidableEq, Repr

/-- The descriptor word of a SCAN. -/
def scanW (v : BitVec 64) : ScanW :=
  { idx := Fin.ofNat 64 (bitsOf v 5 0), mode := bitsOf v 7 6, pin := bitOf v 8, delta := bitsOf v 31 9
    gen := v.extractLsb' 32 32 }

/-- The operands of SCAN: A, B in `MODE` 0, C, D and the next descriptor. -/
structure ScanOps where
  da : Desc
  db : Option Desc
  dc : Desc
  dd : Desc
  dn : Desc
deriving Repr

/-- The operands of SCAN, none where a descriptor holds a reserved code. -/
def scanOps (x : Ctx) (w : Insn) : Option ScanOps :=
  match descOf (tget x (fTA w)), descOf (tget x (fTC w)), descOf (tget x (fTD w)), descOf (tget x (fTD w + 1)),
      (if (scanW (sget x (fSP1 w))).mode = 0 then (descOf (tget x (fTB w))).map some else some none) with
  | some da, some dc, some dd, some dn, some db => some { da := da, db := db, dc := dc, dd := dd, dn := dn }
  | _, _, _, _, _ => none

/-- Row of C that filters lane `m` (R237, R239). -/
def filterRow (d : Desc) (off m : Nat) : Nat := if d.rows = 1 then off else off + m

/-- The view a SCAN would read through: none where its pin is refused (R235). -/
def scanView (s : State) (x : Ctx) (q : ScanW) : Option View :=
  match heldView x q.idx with
  | none => if q.pin then pinView s q.idx q.gen q.delta else some (curView s q.idx)
  | some v =>
    if q.pin then
      match pinView s q.idx q.gen q.delta with
      | some p => if p.g = v.g ∧ p.b = v.b then some v else none
      | none => none
    else some v

/-- Checks at issue of SCAN (R97, R128, R132, R235 to R237, R246, R527). DEDUCED: in `MODE` 1 and 2, which read neither B nor
s[`SK`], a non-zero `TB` or `SK` is no unused field, since R128's layout names both (assumption 29). -/
def scanIss (s : State) (c : CtxId) (w : Insn) : List Iss :=
  let x := s.ctx c
  let m := sv x (fSM w)
  let k := sv x (fSN w)
  let np := sv x (fSK w)
  let f := offsOf x w
  let q := scanW (sget x (fSP1 w))
  let ix := s.index q.idx
  layoutIss w 4 (mTD + mTA + mTB + mTC + mSM + mSN + mSK + mSP1 + mOFF w) 0x80 ++ offsIss w ++
  failIf (fTD w == 31 || q.mode == 3 || (!q.pin && (q.delta != 0 || q.gen != 0))) (iss .rsvdField) ++
  failIf (!ix.live) noObject ++
  failIf (ix.live && ((scanView s x q).isNone ||
    !(chansOf ix.chanMask).all (ownsForager s x.part))) noObject ++
  match scanOps x w with
  | none => [iss .rsvdField]
  | some o =>
    let bs := o.db.toList
    failIf (!fmt16 o.da.fmt || o.da.smode != 0 || o.dc.fmt != .uint8 || o.dd.fmt != .dist || o.dn.fmt != .vid ||
        bs.any (fun d => d.fmt != .vid) || o.dc.e0 % 8 != 0 ||
        (o.da :: o.dc :: o.dd :: o.dn :: bs).any (fun d => d.space == .acc)) (iss .rsvdField) ++
    failIf (ix.live && o.da.e0 != ix.dim.toNat) { cause := .descRange, dim := 0, detail := (fTA w).val } ++
    failIf (o.dc.rows != 1 && o.dc.rows != m) { cause := .descRange, dim := 0, detail := (fTC w).val } ++
    failIf (ix.live && filtersBad s c (fTC w) o.dc (arr0 s x) ix.attrWidth.toNat (List.range o.dc.rows)) (iss .rsvdField) ++
    shapeIss 0 m ((([o.da, o.dd, o.dn] ++ bs).map Desc.rows).foldl min 64) ++
    shapeIss 1 k (min 1024 (min o.dd.e0 o.dn.e0)) ++
    (bs.flatMap fun d => shapeIss 2 np (min 4096 d.e0)) ++
    rowsIss (fTA w) (f.a + m) o.da ++ (bs.flatMap fun d => rowsIss (fTB w) (f.b + m) d) ++
    rowsIss (fTC w) (f.c + (if o.dc.rows = 1 then 1 else m)) o.dc ++
    rowsIss (fTD w) (f.d + m) o.dd ++ rowsIss (fTD w + 1) (f.d + m) o.dn ++
    rdonlyIss (fTD w) o.dd ++ rdonlyIss (fTD w + 1) o.dn ++ devWriteIss s c (pairWr x w o.dd o.dn 0 m k f.d true)

/-- The acting lanes of a SCAN (R87). -/
def scanLanes (x : Ctx) (w : Insn) : List Nat := (List.range (sv x (fSM w))).filter (laneActs x w)

/-- What a SCAN reads. -/
def scanRd (s : State) (x : Ctx) (w : Insn) (o : ScanOps) (a : ArrId) : List Seg :=
  let f := offsOf x w
  (scanLanes x w).flatMap fun m =>
    rowsSegs (fTA w) o.da a (f.a + m) 1 o.da.e0 ++
    (match o.db with
     | some d => rowsSegs (fTB w) d a (f.b + m) 1 (sv x (fSK w))
     | none => []) ++
    [filterSeg s x (fTC w) o.dc a (filterRow o.dc f.c m)]

/-- The IDs that row `m` of B probes (R238). -/
def probeIds (s : State) (x : Ctx) (w : Insn) (d : Desc) (a : ArrId) (m : Nat) : List Nat :=
  (List.range (sv x (fSK w))).map fun i => rdCode s x d a ((offsOf x w).b + m) i

/-- The list set of lane `m`: the lists of its IDs without repeats, or every list with a live centroid (R238, R257). -/
def laneLists (s : State) (x : Ctx) (w : Insn) (o : ScanOps) (a : ArrId) (g : Gen) (m : Nat) : List Nat :=
  match o.db with
  | none => liveCents g
  | some d => (((probeIds s x w d a m).filter (· != noId)).filterMap (resolveCent g)).eraseDups

/-- Whether some acting lane probes an ID at or above `NCENT` (R238). -/
def badProbe (s : State) (x : Ctx) (w : Insn) (o : ScanOps) (a : ArrId) (g : Gen) : Bool :=
  match o.db with
  | none => false
  | some d => (scanLanes x w).any fun m =>
      (probeIds s x w d a m).any fun v => v != noId && decide (g.ncent.toNat ≤ v)

/-- The first SCAN of a step names what its answer header reports (R258). -/
def noteScan (s : State) (c : CtxId) (v : View) (q : ScanW) (k np : Nat) : State :=
  match (s.ctx c).scan1 with
  | some _ => s
  | none => s.setCtx c { s.ctx c with
      scan1 := some { view := v, mode := BitVec.ofNat 2 q.mode, k := BitVec.ofNat 16 k, nprobe := BitVec.ofNat 16 np } }

/-- A SCAN takes its place in its partition's line as it issues (R307). -/
def joinScan (s : State) (c : CtxId) (p : PartId) : State :=
  if (s.part p).scans.contains c then s else s.setPart p { s.part p with scans := (s.part p).scans ++ [c] }

/-- SCAN takes effect: its view is fixed, its lists are formed, and the context is Blocked until the foragers
return (R128, R233, R238). DESIGN CHOICE: a probe ID at or above `NCENT` faults with `DETAIL` 0, since R69 asks for the number of a
t-register and R238 names none: the IDs are data that came through t[`TB`] (assumption 31). -/
def scanBody (c : CtxId) (w : Insn) (s : State) : State :=
  let x := s.ctx c
  let q := scanW (sget x (fSP1 w))
  match scanOps x w, scanView s x q with
  | some o, some v =>
    let s0 := noteScan (fixView s c v) c v q (sv x (fSN w)) (if q.mode = 0 then sv x (fSK w) else 0)
    if sv x (fSN w) = 0 ∨ scanLanes x w = [] then finishInsn s0 c 0
    else
      let a := arr0 s x
      let wr := pairWr x w o.dd o.dn a (sv x (fSM w)) (sv x (fSN w)) (offsOf x w).d false
      let sj := joinScan s0 c x.part
      if allChan.any fun n => ownsForager s x.part n && foragerBusy s n then stallCtx sj c
      else access sj c (scanRd s0 x w o a) wr fun s1 =>
        if badProbe s1 x w o a (viewGen s1 v) then faultCtx (scramble s1 c wr) c .addrRange 0xE0 0 0
        else blockCtx s1 c (.scan w)
  | _, _ => s

/-- SCAN (R128). -/
def execScan (c : CtxId) (w : Insn) (s : State) : Res := .next (issue s c w true (scanIss s c w) (scanBody c w))

/-- A list entry that a lane's filter passes, with what the foragers make of it. -/
structure Hit where
  cand : Cand
  exc  : Exc
  unit : BitVec 8

/-- The distance of entry `n` of a list from lane `m`'s query, and its records (R165, R239). -/
def scanEntry (s : State) (x : Ctx) (w : Insn) (o : ScanOps) (a : ArrId) (ix : Idx) (g : Gen) (mode m : Nat)
    (l : PList) (n : Nat) (e : ListEnt) : Hit :=
  let q := fun k => plainVal o.da (rdCode s x o.da a ((offsOf x w).a + m) k)
  let v := if mode = 2 then bf16At e.full else entVal s ix g l e
  let r := distance (metricOp ix) ix.dim.toNat m n q v
  { cand := { code := (distOf r.1).toNat, id := e.id.toNat, src := 0, pos := 0 }, exc := r.2
    unit := 0xC0 + BitVec.ofNat 8 (standinOf s (extChan g l.cent (n / extEnts ix))).val }

/-- The entries of a list that lane `m` scores: not shadowed, and passing its filter (R239, R251). -/
def scanList (s : State) (x : Ctx) (w : Insn) (o : ScanOps) (a : ArrId) (ix : Idx) (v : View) (mode m c : Nat) : List Hit :=
  let g := viewGen s v
  let brood := viewBrood s v
  let l := listOf g c
  let prog := filterWords s x o.dc a (filterRow o.dc (offsOf x w).c m)
  ((List.range l.ents.length).zip l.ents).filterMap fun p =>
    if p.2.id = BitVec.allOnes 64 ∨ shadowed brood p.2.id = true ∨ filterRun (attrRow g p.2.handle) [] prog = false then none
    else some (scanEntry s x w o a ix g mode m l p.1 p.2)

/-! ## Reads of index objects from flash -/

/-- A block of 4,096 bytes of an index's objects: the channel that carries it, whether no level read it before it was moved, and its
place, none where nothing has been programmed of it (R227, R232, R369). -/
structure IdxBlk where
  chan  : ChanId
  lost  : Bool
  place : Option Place
deriving DecidableEq, Repr

/-- Extents of a list (R227, R229). -/
def extCount (ix : Idx) (l : PList) : Nat := ceilDiv l.ents.length (extEnts ix)

/-- The `k`-th block of run `o` of a list. -/
def idxBlk (s : State) (i : IdxId) (g : Gen) (l : PList) (o k : Nat) : IdxBlk :=
  match s.media.runs.find? fun r => !r.dead && r.idx == i && r.cent == l.cent && r.gen == l.gen && r.ord == o with
  | some r => { chan := chanOf r.place.die, lost := r.lost.contains (k / 4), place := some (r.at k) }
  | none => { chan := extChan g l.cent o, lost := false, place := none }

/-- The blocks that a scan reads of extent `j` of a list (R227). -/
def extentBlks (s : State) (i : IdxId) (g : Gen) (l : PList) (j : Nat) : List IdxBlk :=
  (List.range (extRead (s.index i) l.ents.length j / 4096)).map (idxBlk s i g l j)

/-- The blocks that hold the full vector of entry `n` of a list. DESIGN CHOICE: the vectors of a list lie packed in its order,
in runs behind its extents; their layout is the drive's own (R232, assumption 15). -/
def vectorBlks (s : State) (i : IdxId) (g : Gen) (l : PList) (n : Nat) : List IdxBlk :=
  let ix := s.index i
  let v := 2 * ix.dim.toNat
  let a := n * v / 4096
  (List.range ((n * v + v - 1) / 4096 + 1 - a)).map fun k => idxBlk s i g l (extCount ix l + (a + k) / 64) ((a + k) % 64)

/-- Blocks of an index's objects read by SCAN or PGRD: their levels, and the bytes that the channels count (R368, R370, R372,
R508). -/
def readBlks (s : State) (l : List IdxBlk) : State :=
  l.foldl (fun st b =>
    match b.place with
    | some p => readCounted st [p]
    | none => addBytes st b.chan 4096) s

/-- Whether no level reads a block of an index's objects (R369). -/
def idxLost (s : State) (b : IdxBlk) : Bool := b.lost || b.place.any (placeLost s)

/-- The channel of the first of some blocks that no level reads (R369). -/
def lostChan (s : State) (l : List IdxBlk) : Option ChanId := (l.find? (idxLost s)).map fun b => b.chan

/-- Whether reads of some blocks wait for a forager under reset (R27). -/
def blksBusy (s : State) (l : List IdxBlk) : Bool := placesBusy s (l.filterMap fun b => b.place)

/-- The entries of a list that a scan looks at, with their positions: not skipped and not shadowed (R239, R251). -/
def scanEnts (s : State) (v : View) (c : Nat) : List (Nat × ListEnt) :=
  let l := (listOf (viewGen s v) c).ents
  ((List.range l.length).zip l).filter fun p => p.2.id != BitVec.allOnes 64 && !shadowed (viewBrood s v) p.2.id

/-- The blocks that a scan of lists reads: their extents, or in `MODE` 2 the full vectors of the entries it looks at (R227, R239,
R257). -/
def scanBlks (s : State) (v : View) (mode : Nat) (lists : List Nat) : List IdxBlk :=
  let g := viewGen s v
  lists.flatMap fun c =>
    let l := listOf g c
    if mode = 2 then ((scanEnts s v c).flatMap fun p => vectorBlks s v.idx g l p.1).eraseDups
    else (List.range (extCount (s.index v.idx) l)).flatMap (extentBlks s v.idx g l)

/-- The extents of some lists counted by the foragers that scan them (R508). -/
def countExtents (s : State) (v : View) (mode : Nat) (lists : List Nat) : State :=
  let g := viewGen s v
  if mode = 2 then s
  else
    (lists.flatMap fun c => (List.range (extCount (s.index v.idx) (listOf g c))).map (extChan g c)).foldl (fun st n =>
      let f := standinOf st n
      st.setFgr f { st.fgr f with extents := satInc (st.fgr f).extents }) s

/-- What the foragers have read from flash between two states, as `REG_FL` counts it (R317). -/
def flashDues (s t : State) : List Nat :=
  let read (u : State) : Nat := allChan.foldl (fun a n => a + (u.fgr n).bytes.toNat) 0
  [0, 0, read t - read s, 0]

/-- The foragers are done with a context's SCAN and the partition's next one starts (R307). -/
def endScan (s : State) (c : CtxId) (p : PartId) : State :=
  s.setPart p { s.part p with scans := (s.part p).scans.filter (· != c) }

/-- What the foragers read of DRAM for lane `m` of a SCAN: the forward table (R238, R257), the centroid of each list that holds
entries, but for `MODE` 2, and the attribute rows that its filter looks at (R239, R266). -/
def laneReads (s : State) (x : Ctx) (w : Insn) (o : ScanOps) (a : ArrId) (ix : Idx) (v : View) (mode m : Nat) : List Range :=
  let g := viewGen s v
  let looks := filterLooks (filterWords s x o.dc a (filterRow o.dc (offsOf x w).c m))
  (if g.fwd = [] then [] else [(g.fwdAddr.toNat, g.fwdAddr.toNat + 16 * g.fwd.length)]) ++
  (laneLists s x w o a g m).flatMap fun c =>
    (if mode = 2 ∨ (listOf g c).ents = [] then [] else centRanges ix g c) ++
    (if looks then (scanEnts s v c).flatMap fun p => attrRanges ix g p.2.handle else [])

/-- A forager of the scan in whose SRAM the scan meets a poisoned word. Which words a scan uses is the drive's own choice
(R288, assumption 2). -/
def scanSram (s : State) (ix : Idx) : Option ChanId :=
  ((chansOf ix.chanMask).map (standinOf s)).find? fun n =>
    (s.tiers.sramPoison.any fun p =>
      match p with
      | .forager m _ => m == n
      | _ => false) && Config.freeBit (s.free + 32 + n.val)

/-- What the foragers consume that is poisoned, after they have read what they need of flash in state `t`: blocks that no level reads
(R369), their own SRAM, or DRAM (R288). -/
def scanPoison (s t : State) (i : IdxId) (blks : List IdxBlk) (reads : List Range) : Option (BitVec 8) :=
  match lostChan t blks <|> scanSram s (s.index i) with
  | some n => some (0xC0 + BitVec.ofNat 8 n.val)
  | none => if reads.any (rangePoison s) then some 0xE1 else none

/-- The foragers' results written, their records joined and their flags gathered (R165, R240, R241). -/
def putHits (c : CtxId) (o : ScanOps) (a : ArrId) (d k : Nat) (hits : List (Nat × List Hit)) (s : State) : State × Bool × BitVec 6 :=
  hits.foldl (fun (acc : State × Bool × BitVec 6) (h : Nat × List Hit) =>
    let best := bestOf k (h.2.map fun z => z.cand)
    let s2 := putBest acc.1 c o.dd o.dn a (d + h.1) k (best.map fun z => (z.code, z.id))
    let s3 := h.2.foldl (fun st z => unitRaise st c z.unit z.exc) s2
    (s3, acc.2.1 || decide (best.length < k), h.2.foldl (fun f z => f ||| flToCtx z.exc.fl) acc.2.2))
    (s, false, (0 : BitVec 6))

/-- Whether a forager that works for an index's channels is held in reset (R459, R488). -/
def scanHeld (s : State) (i : IdxId) : Bool :=
  match s.rst.act with
  | .resetting b => (chansOf (s.index i).chanMask).any fun n => b.toNat == 0x10 + (standinOf s n).val
  | _ => false

/-- The foragers finish the SCAN of context `c`; none while what they read waits for a frame, for tokens or for a block under
reset (R27, R239 to R241, R266, R267, R316). -/
def scanEnd (c : CtxId) (w : Insn) (o : ScanOps) (v : View) (s : State) : Option State :=
  let x := s.ctx c
  let q := scanW (sget x (fSP1 w))
  let ix := s.index q.idx
  let g := viewGen s v
  let a := arr0 s x
  let k := sv x (fSN w)
  let d := (offsOf x w).d
  let lanes := scanLanes x w
  let wr := pairWr x w o.dd o.dn a (sv x (fSM w)) k d false
  let reads := (lanes.flatMap (laneReads s x w o a ix v q.mode)).eraseDups
  let l := reads ++ devRanges s x (scanRd s x w o a ++ wr)
  let lists := (lanes.flatMap (laneLists s x w o a g)).eraseDups
  let blks := scanBlks s v q.mode lists
  if scanHeld s q.idx || l.any (rangeBusy s) then none
  else (touchRanges s l).bind fun s0 =>
    let s1 := readBlks (s0.draw 64) blks
    let due := ((accessDues s0 reads).zipWith (· + ·) (moveDues s s0 l)).zipWith (· + ·) (flashDues s0 s1)
    if inDebt (s.part x.part) due then none
    else match scanPoison s0 s1 q.idx blks reads with
    | some u => some (faultCtx (scramble (charge s1 x.part due) c wr) c .poison u 0 0)
    | none =>
        let hits := lanes.map fun m => (m, (laneLists s x w o a g m).flatMap (scanList s x w o a ix v q.mode m))
        let s2 := countExtents s1 v q.mode lists
        let r := putHits c o a d k hits (preWrite (charge s2 x.part due) (devRanges s2 x wr))
        some (finishWait (endScan (settle r.1 c wr) c x.part) c (r.2.2 ||| (if r.2.1 then ctxShort else 0)))

/-- Whether a channel's scan work is a forager's: its own channel's, or that of a retired one that it stands in for (R488,
R508). -/
def worksFor (s : State) (n m : ChanId) : Bool := !(s.fgr n).retired && standinOf s m == n

/-- The context whose SCAN runs on a forager: the first of the line of the partition that owns it, where it has begun and its
index has lists on the forager's channel, or on one that it stands in for (R227, R307, R508). -/
def scanOn (s : State) (n : ChanId) : Option CtxId :=
  (allPart.find? fun p => ownsForager s p n).bind fun p => (s.part p).scans.head?.bind fun c =>
    match (s.ctx c).wait with
    | .scan w =>
      let ix := s.index (scanW (sget (s.ctx c) (fSP1 w))).idx
      if (chansOf ix.chanMask).any (worksFor s n) then some c else none
    | _ => none

/-- FORAGER_RETURN: every forager has returned the running SCAN of context `c`, and the merged rows are written
(R239 to R241), in the context's own arrays, which may be parked (R306). -/
def execForagerReturn (c : CtxId) (s : State) : Res :=
  let x := s.ctx c
  match x.wait, (s.part x.part).scans.head? == some c with
  | .scan w, true =>
    match scanOps x w, heldView x (scanW (sget x (fSP1 w))).idx with
    | some o, some v => .next (withArrays s c (scanEnd c w o v))
    | _, _ => .next s
  | _, _ => .next s

/-! ## PGRD -/

/-- Bytes of one row of D (R129). -/
def rawRow (d : Desc) : Nat := ceilDiv (d.e0 * fmtBits d.fmt) 8

/-- The segments that a raw run of bytes fills in consecutive rows (R129). -/
def rawSegs (t : Fin 32) (d : Desc) (a : ArrId) (r0 n : Nat) : List Seg :=
  (List.range (ceilDiv n (rawRow d))).map fun i =>
    { t := t, sp := d.space, arr := a, off := d.rowOff (r0 + i), len := min (rawRow d) (n - i * rawRow d) }

/-- Checks at issue of PGRD from logical blocks (R97, R129, R132, R527); `SRC` 3 is reserved. -/
def pgrdLbaIss (s : State) (c : CtxId) (w : Insn) : List Iss :=
  let x := s.ctx c
  let n := sv x (fSK w)
  let f := offsOf x w
  let nsid := sv x (fSP2 w) % 2 ^ 32
  layoutIss w 4 (mTD + mSK + mSP1 + mSP2 + mOFF w) 0x380 ++ offsIss w ++
  failIf (modF w 105 104 == 3) (iss .rsvdField) ++
  (match findNs s nsid with
   | none => [noObject]
   | some ns => failIf (decide (ns.size < sv x (fSP1 w) + n)) noObject) ++
  match descOf (tget x (fTD w)) with
  | none => [iss .rsvdField]
  | some d =>
    failIf (d.smode != 0 || d.space == .acc) (iss .rsvdField) ++
    failIf (decide (d.rows < f.d + ceilDiv (n * 4096) (rawRow d))) { cause := .descRange, dim := 0, detail := (fTD w).val } ++
    rdonlyIss (fTD w) d ++ devWriteIss s c (rawSegs (fTD w) d 0 f.d (n * 4096))

/-- The channel that a logical block is read from: that of its page, or channel 0 for a block not yet on flash. -/
def copyChan (q : Copy) : ChanId := (q.place.map fun p => chanOf p.die).getD 0

/-- The block at a position among those of a list of runs. -/
def runBlkAt : List IdxRun → Nat → Option (IdxRun × Nat)
  | [], _ => none
  | r :: t, k => if k < 4 * r.stripes.length then some (r, k) else runBlkAt t (k - 4 * r.stripes.length)

/-- The bytes that PGRD reads of a logical block. DESIGN CHOICE: the logical blocks of an index namespace are those of the
index's pages in the order in which they were programmed, and one behind them is not stated, free by the number `o`; which block
holds what is the drive's own layout (R232, assumption 15). -/
def pgrdBlock (s : State) (o : Nat) (ns : Ns) (lba i : Nat) : Copy :=
  match ns.index with
  | none => blkCopy s { nsid := ns.nsid, lba := BitVec.ofNat 64 (lba + i) }
  | some x =>
    match runBlkAt (s.media.runs.filter fun r => !r.dead && r.idx == x) (lba + i) with
    | some p => { dseq := 0, val := if runLost s p.1 p.2 then .uncorrectable else .data (p.1.block p.2), place := some (p.1.at p.2) }
    | none => { dseq := 0, val := .data ((List.range 4096).map fun j => Config.freeByte (o + i * 4096 + j)), place := none }

/-- The code pages that a raw read filled have a flash source (R277). -/
def noteSource (s : State) (l : List Range) : State :=
  let whole := (codePagesOf l).eraseDups.filter fun p => covered l (p * 2048) 2048
  { s with tiers := { s.tiers with
      source := whole ++ s.tiers.source.filter (fun p => !whole.contains p)
      stale := s.tiers.stale.filter fun p => !whole.contains p.1 } }

/-- Bytes laid into segments one after another. -/
def fillSegs (c : CtxId) : List Seg → Bytes → State → State
  | [], _, s => s
  | g :: t, b, s => fillSegs c t (b.drop g.len) (putN s c g.sp g.arr g.off (b.take g.len))

/-- PGRD from logical blocks takes effect (R129, R369), once no earlier write of the range holds an entry; its own entry is
held until it completes (R419). DESIGN CHOICE: the wait for a range lock is a Blocked one, which R84 does not list (assumption 31). -/
def pgrdLbaBody (c : CtxId) (w : Insn) (s : State) : State :=
  let x := s.ctx c
  let n := sv x (fSK w)
  match descOf (tget x (fTD w)), findNs s (sv x (fSP2 w) % 2 ^ 32) with
  | some d, some ns =>
    let wr := rawSegs (fTD w) d (arr0 s x) (offsOf x w).d (n * 4096)
    let own (l : Lock) : Bool := l.ctx == some c
    let t := takeLock s own
      { nsid := ns.nsid, lba := sv x (fSP1 w), n := n, wr := false, sq := 0, cid := 0, ctx := some c, ord := false, done := false }
    if !t.2 then blockCtx t.1 c .lock
    else access t.1 c [] wr fun s1 =>
      let read (u : State) : List Copy := (List.range n).map (pgrdBlock u s1.free ns (sv x (fSP1 w)))
      let places := (read s1).filterMap fun q => q.place
      if placesBusy s1 places then stallCtx t.1 c else
      let s2 := readCounted (s1.draw (if ns.index.isSome then n * 4096 else 0)) places
      let due := flashDues s1 s2
      if inDebt (s.part x.part) due then t.1
      else match (read s2).find? fun q => q.val == .uncorrectable with
      | some q => faultCtx (scramble (charge s2 x.part due) c wr) c .poison (0xC0 + BitVec.ofNat 8 (copyChan q).val) 0 0
      | none =>
          let s3 := fillSegs c wr ((read s2).flatMap fun q => blkBytes q.val) (charge (freeLocks s2 own) x.part due)
          finishWrites (noteSource s3 (devRanges s3 (s3.ctx c) wr)) c wr 0
  | _, _ => s

/-- PGRD with `SRC` 0 (R129). -/
def execPgrdLba (c : CtxId) (w : Insn) (s : State) : Res := .next (issue s c w false (pgrdLbaIss s c w) (pgrdLbaBody c w))

/-- The index a storage instruction names in s[`SP1`] (R129, R131). -/
def spIdx (x : Ctx) (w : Insn) : IdxId := Fin.ofNat 64 (sv x (fSP1 w) % 64)

/-- The checks of a BF16 vector operand D of an index (R129). -/
def vecIss (ix : Idx) (t : Fin 32) (d : Desc) : List Iss :=
  failIf (d.fmt != .bf16 || d.smode != 0 || d.space == .acc) (iss .rsvdField) ++
  failIf (ix.live && d.e0 != ix.dim.toNat) { cause := .descRange, dim := 0, detail := t.val }

/-- Checks at issue of PGRD of full vectors (R97, R129, R132, R527). DESIGN CHOICE: M·N vectors that reach beyond D's planned rows
are rows beyond the planned extent, `DESC_RANGE`, not a size above a limit; the spec does not say which (assumption 31). -/
def pgrdVecIss (s : State) (c : CtxId) (w : Insn) : List Iss :=
  let x := s.ctx c
  let m := sv x (fSM w)
  let n := sv x (fSN w)
  let f := offsOf x w
  let ix := s.index (spIdx x w)
  layoutIss w 4 (mTD + mTB + mSM + mSN + mSP1 + mOFF w) 0x380 ++ offsIss w ++ failIf (!ix.live) noObject ++
  match descOf (tget x (fTD w)), descOf (tget x (fTB w)) with
  | some d, some db =>
    failIf (db.fmt != .vid || db.space == .acc) (iss .rsvdField) ++ vecIss ix (fTD w) d ++
    shapeIss 0 m db.rows ++ shapeIss 1 n db.e0 ++
    rowsIss (fTB w) (f.b + m) db ++ rowsIss (fTD w) (f.d + m * n) d ++
    rdonlyIss (fTD w) d ++ devWriteIss s c (rowsSegs (fTD w) d 0 f.d (m * n) d.e0)
  | _, _ => [iss .rsvdField]

/-- The list entry with an ID, with its list and its position there (R232, R252). -/
def listEntry (g : Gen) (id : BitVec 64) : Option (PList × Nat × ListEnt) :=
  g.lists.findSome? fun l => ((List.range l.ents.length).zip l.ents).findSome? fun p => if p.2.id = id then some (l, p) else none

/-- The brood entry that holds the vector of an ID in a view (R252). -/
def broodOf (s : State) (v : View) (id : BitVec 64) : Option BroodEnt := (liveBrood (viewBrood s v)).find? fun e => e.id == id

/-- The vector of an ID in a view, none where it is tombstoned or absent (R252). -/
def viewVector (s : State) (v : View) (id : BitVec 64) : Option Bytes :=
  match broodOf s v id with
  | some e => some e.vec
  | none => if shadowed (viewBrood s v) id then none else (listEntry (viewGen s v) id).map fun p => p.2.2.full

/-- The blocks of flash that hold the vector of an ID in a view: none where it comes from the brood list or is all zeros (R252). -/
def idBlks (s : State) (v : View) (id : BitVec 64) : List IdxBlk :=
  if (broodOf s v id).isSome || shadowed (viewBrood s v) id then []
  else
    match listEntry (viewGen s v) id with
    | some p => vectorBlks s v.idx (viewGen s v) p.1 p.2.1
    | none => []

/-- What an instruction that began in state `b` reads of the drive's own objects in DRAM, beside `flash` bytes at the
regulators: poison faults it (R288), a missing frame, missing tokens or a tier controller under reset hold it (R27, R266, R267,
R316). -/
def sideReads (b s : State) (c : CtxId) (wr : List Seg) (l : List Range) (flash : List Nat) (body : State → State) : State :=
  if l.any (rangeBusy s) then stallCtx b c else
  match touchRanges s l with
  | none => blockCtx b c .frame
  | some s1 =>
    let due := (dues s s1 l).zipWith (· + ·) flash
    let s2 := charge s1 (b.ctx c).part due
    if inDebt (b.part (b.ctx c).part) due then b
    else if l.any (rangePoison s1) then faultCtx (scramble s2 c wr) c .poison 0xE1 0 0
    else body s2

/-- PGRD of full vectors takes effect (R129, R252). DESIGN CHOICE: the vector of ID n of row m goes to the row m·N + n behind D's
row offset; R129 names no place (assumption 31). DESIGN CHOICE: an ID of all ones, which R129 gives a zero vector, raises no `INV`, though
R252 raises one for an ID that is not present (assumption 31). -/
def pgrdVecBody (c : CtxId) (w : Insn) (s : State) : State :=
  let x := s.ctx c
  let m := sv x (fSM w)
  let n := sv x (fSN w)
  let f := offsOf x w
  match descOf (tget x (fTD w)), descOf (tget x (fTB w)) with
  | some d, some db =>
    let v := viewFor s x (spIdx x w)
    let s0 := fixView s c v
    let a := arr0 s x
    let wr := rowsSegs (fTD w) d a f.d (m * n) d.e0
    if m * n = 0 then finishInsn s0 c 0
    else access s0 c (rowsSegs (fTB w) db a f.b m n) wr fun s1 =>
      let ix := s1.index v.idx
      let ids := (List.range (m * n)).map fun i => BitVec.ofNat 64 (rdCode s1 x db a (f.b + i / n) (i % n))
      let blks := (ids.flatMap (idBlks s1 v)).eraseDups
      if blksBusy s1 blks then stallCtx s c else
      let s2 := readBlks s1 blks
      match lostChan s2 blks with
      | some ch =>
        if inDebt (s.part x.part) (flashDues s1 s2) then s
        else faultCtx (scramble (charge s2 x.part (flashDues s1 s2)) c wr) c .poison (0xC0 + BitVec.ofNat 8 ch.val) 0 0
      | none =>
        sideReads s s2 c wr ((ids.filterMap (broodOf s1 v)).map fun e => broodRange ix e.seq) (flashDues s1 s2) fun s3 =>
          let r := ((List.range (m * n)).zip ids).foldl (fun (acc : State × Exc) p =>
            let vec := viewVector s1 v p.2
            let ex := if vec.isNone && p.2 != BitVec.allOnes 64 then raiseAt flInv (p.1 / n) (p.1 % n) 0 else Exc.none
            (putN acc.1 c d.space a (d.rowOff (f.d + p.1)) (bytesAt (vec.getD []) 0 (2 * d.e0)), excJoin acc.2 ex)) (s3, Exc.none)
          let s4 := noteSource r.1 (devRanges r.1 (r.1.ctx c) wr)
          finishWrites (unitRaise s4 c 0xE0 r.2) c wr (flToCtx r.2.fl)
  | _, _ => s

/-- PGRD with `SRC` 1 (R129). -/
def execPgrdVectors (c : CtxId) (w : Insn) (s : State) : Res := .next (issue s c w false (pgrdVecIss s c w) (pgrdVecBody c w))

/-- Checks at issue of PGRD of brood entries (R97, R129, R132, R246, R527). -/
def pgrdBroodIss (s : State) (c : CtxId) (w : Insn) : List Iss :=
  let x := s.ctx c
  let f := offsOf x w
  let ix := s.index (spIdx x w)
  layoutIss w 4 (mTD + mTC + mSP1 + mSP2 + mOFF w) 0x380 ++ offsIss w ++ failIf (fTD w == 31) (iss .rsvdField) ++
  failIf (!ix.live) noObject ++
  match descOf (tget x (fTD w)), descOf (tget x (fTD w + 1)), descOf (tget x (fTC w)) with
  | some d, some dn, some dc =>
    failIf (dn.fmt != .vid || dn.space == .acc || dc.fmt != .uint8 || dc.space == .acc) (iss .rsvdField) ++
    vecIss ix (fTD w) d ++ rowsIss (fTC w) (f.c + 1) dc ++
    failIf (ix.live && decide (f.c < dc.rows) && filtersBad s c (fTC w) dc (arr0 s x) ix.attrWidth.toNat [f.c]) (iss .rsvdField) ++
    rowsIss (fTD w) f.d d ++ rowsIss (fTD w + 1) f.d dn ++ rdonlyIss (fTD w) d ++ rdonlyIss (fTD w + 1) dn
  | _, _, _ => [iss .rsvdField]

/-- PGRD of brood entries takes effect (R129, R130, R251). Entries that do not outnumber D's planned rows but reach beyond them
from D's row offset are rows beyond the planned extent (R97). DESIGN CHOICE: where they reach beyond the rows of t[`TD`+1] alone, that
register is the one in `DETAIL`; R130 speaks of D's rows only (assumption 31). A D in `DEV` whose rows would leave the context's areas writes nothing
(R60). -/
def pgrdBroodBody (c : CtxId) (w : Insn) (s : State) : State :=
  let x := s.ctx c
  let f := offsOf x w
  match descOf (tget x (fTD w)), descOf (tget x (fTD w + 1)), descOf (tget x (fTC w)) with
  | some d, some dn, some dc =>
    let v := viewFor s x (spIdx x w)
    let s0 := fixView s c v
    let a := arr0 s x
    access s0 c [filterSeg s0 x (fTC w) dc a f.c] [] fun s1 =>
      let g := viewGen s1 v
      let ix := s1.index v.idx
      let prog := filterWords s1 x dc a f.c
      let all := viewBrood s1 v
      let l := (liveBrood all).filter fun e => filterRun (attrRow g e.handle) [] prog
      let n := l.length
      sideReads s s1 c [] (all.map (fun e => broodRange ix e.seq) ++
          (if filterLooks prog then (liveBrood all).flatMap fun e => attrRanges ix g e.handle else [])) [0, 0, 0, 0] fun s1 =>
      if d.rows < n then
        faultCtx (scramble s1 c ((rowsSegs (fTD w) d a f.d (d.rows - f.d) d.e0).filter (segInBound s1 c true))) c .shapeOver 0xE0 1 (BitVec.ofNat 28 n)
      else if d.rows < f.d + n then faultCtx s1 c .descRange 0xE0 0 (BitVec.ofNat 28 (fTD w).val)
      else if dn.rows < f.d + n then faultCtx s1 c .descRange 0xE0 0 (BitVec.ofNat 28 (fTD w + 1).val)
      else
        let wr := rowsSegs (fTD w) d a f.d n d.e0 ++ rowsSegs (fTD w + 1) dn a f.d n 1
        match (devWriteIss s1 c wr).head? with
        | some i => faultSeq s1 c i.cause i.dim i.detail
        | none => accessAs s s1 c [] wr fun s2 =>
          let s3 := ((List.range n).zip l).foldl (fun st p =>
            let st1 := putN st c d.space a (d.rowOff (f.d + p.1)) (bytesAt p.2.vec 0 (2 * d.e0))
            wrCode st1 c dn a (f.d + p.1) 0 p.2.id.toNat) s2
          let s4 := noteSource s3 (devRanges s3 (s3.ctx c) wr)
          finishWrites (s4.setCtx c (sput (s4.ctx c) (fSP2 w) (BitVec.ofNat 64 n))) c wr 0
  | _, _, _ => s

/-- PGRD with `SRC` 2 (R129). -/
def execPgrdBrood (c : CtxId) (w : Insn) (s : State) : Res := .next (issue s c w false (pgrdBroodIss s c w) (pgrdBroodBody c w))

/-! ## APND -/

/-- `DEL` of APND (R131). -/
def fDEL (w : Insn) : Bool := modB w 104

/-- The operands of APND: B, and A with C unless `DEL` is 1. -/
structure ApndOps where
  db : Desc
  ac : Option (Desc × Desc)
deriving Repr

/-- The operands of APND, none where a descriptor holds a reserved code. -/
def apndOps (x : Ctx) (w : Insn) : Option ApndOps :=
  match descOf (tget x (fTB w)), descOf (tget x (fTA w)), descOf (tget x (fTC w)), fDEL w with
  | some db, _, _, true => some { db := db, ac := none }
  | some db, some da, some dc, false => some { db := db, ac := some (da, dc) }
  | _, _, _, _ => none

/-- A bit of the image's `FLAGS`: 1 `USES_FABRIC`, 2 `WRITES_STORAGE` (R47, R51). -/
def imgFlag (s : State) (x : Ctx) (i : Nat) : Bool := (fieldAt (s.slot x.slot).img 0x0A 2).testBit i

/-- An element index beyond the planned elements of an index operand (R131). -/
def elemIss (t : Fin 32) (off n : Nat) (d : Desc) : List Iss :=
  failIf (decide (d.rows * d.e0 < off * d.e0 + n)) { cause := .descRange, dim := 0, detail := t.val }

/-- Checks at issue of APND (R97, R131, R132, R249, R250, R393, R51). -/
def apndIss (s : State) (c : CtxId) (w : Insn) : List Iss :=
  let x := s.ctx c
  let m := sv x (fSM w)
  let f := offsOf x w
  let i := spIdx x w
  let ix := s.index i
  layoutIss w 4 ((if fDEL w then 0 else mTA + mTC) + mTB + mSM + mSP1 + mOFF w) 0x180 ++ offsIss w ++
  failIf (!ix.live || s.nvm.readOnly) noObject ++ failIf (!imgFlag s x 2) (iss .undeclared) ++
  failIf (ix.live && decide (ix.broodCap.toNat < m)) { cause := .shapeOver, dim := 0, detail := m } ++
  match apndOps x w with
  | none => [iss .rsvdField]
  | some o =>
    failIf (o.db.fmt != .vid || o.db.space == .acc) (iss .rsvdField) ++ elemIss (fTB w) f.b m o.db ++
    match o.ac with
    | none => []
    | some (da, dc) =>
      failIf (da.fmt != .bf16 || da.smode != 0 || da.space == .acc || dc.fmt != .vid || dc.space == .acc) (iss .rsvdField) ++
      failIf (ix.live && da.e0 != ix.dim.toNat) { cause := .descRange, dim := 0, detail := (fTA w).val } ++
      shapeIss 0 m da.rows ++ rowsIss (fTA w) (f.a + m) da ++ elemIss (fTC w) f.c m dc

/-- Entry `i` of an APND, or none where R249 rejects it. -/
def apndEntry (s : State) (x : Ctx) (w : Insn) (o : ApndOps) (a : ArrId) (ix : Idx) (i : Nat) : Option BroodNew :=
  let f := offsOf x w
  let id := BitVec.ofNat 64 (idxElem s x o.db a f.b i)
  if id = BitVec.allOnes 64 then none
  else
    match o.ac with
    | none => some { id := id, handle := 0xFFFFFFFF, tomb := true, vec := List.replicate (2 * ix.dim.toNat) 0 }
    | some (da, dc) =>
      let h := idxElem s x dc a f.c i
      if h < ix.attrRows.toNat ∨ h = 0xFFFFFFFF then
        some { id := id, handle := BitVec.ofNat 32 h, tomb := false
               vec := readN s x da.space a (da.rowOff (f.a + i)) (2 * ix.dim.toNat) }
      else none

/-- What an APND reads. -/
def apndRd (x : Ctx) (w : Insn) (o : ApndOps) (a : ArrId) : List Seg :=
  let m := sv x (fSM w)
  let f := offsOf x w
  idxSegs (fTB w) o.db a f.b m ++
    match o.ac with
    | none => []
    | some (da, dc) => rowsSegs (fTA w) da a f.a m da.e0 ++ idxSegs (fTC w) dc a f.c m

/-- Whether a merge of an index is queued or runs (R254). -/
def mergePending (s : State) (i : IdxId) : Bool :=
  s.mergeQ.contains i || (match s.merge with | some m => m.idx == i | none => false)

/-- A merge queued unless one of the index is queued already (R254). -/
def queueMerge (s : State) (i : IdxId) : State :=
  if s.mergeQ.contains i then s else { s with mergeQ := s.mergeQ ++ [i] }

/-- A bound above the sequence numbers that may be assigned, recorded before they are (R253). How far above is
the drive's own choice (assumption 2). -/
def raiseBound (s : State) (ix : Idx) (head : Nat) : BitVec 64 :=
  if head < ix.bound.toNat then ix.bound else BitVec.ofNat 64 (head + 1 + (Config.freeWord s.free).toNat % 2 ^ 32)

/-- Appends entries to a brood list in row order, with event 0x0005 and the queued merge (R247, R248, R253, R254). -/
def appendBrood (s : State) (c : CtxId) (i : IdxId) (l : List BroodNew) : State :=
  let ix := s.index i
  let h := ix.head.toNat
  let new := ((List.range l.length).zip l).map fun p =>
    ({ seq := BitVec.ofNat 64 (h + 1 + p.1), id := p.2.id, handle := p.2.handle, tomb := p.2.tomb, vec := p.2.vec } : BroodEnt)
  let ix' := { ix with head := BitVec.ofNat 64 (h + l.length), bound := raiseBound s ix (h + l.length), brood := ix.brood ++ new }
  let s1 := settleDev ((s.draw 1).setIndex i ix') (new.map fun e => broodRange ix e.seq)
  let s2 := s1.setCtx c { s1.ctx c with durs := (s1.ctx c).durs ++ [(i, ix'.head)] }
  if ix'.broodThresh.toNat ≤ ix'.broodCount then
    let s3 := raiseEvent s2 c 0x0005 (BitVec.ofNat 64 (i.val + ix'.broodCount * 2 ^ 32))
    if mergePending s3 i then s3 else queueMerge s3 i
  else s2

/-- An append of `n` entries with its pages touched, and what it counts at each regulator: none where a frame must be waited
for (R266, R267). The mirror takes 32 + 2·`DIM` bytes of flash an entry, as the list does (R247, R317, assumption 13). -/
def broodRoom (s : State) (i : IdxId) (n : Nat) : Option (State × List Nat) :=
  let ix := s.index i
  let l := (List.range n).map fun j => broodRange ix (ix.head + 1 + BitVec.ofNat 64 j)
  (touchRanges s l).map fun t => (t, (dues s t l).zipWith (· + ·) [0, 0, n * (32 + 2 * ix.dim.toNat), 0])

/-- Whether an append of `n` entries waits for a tier controller or a forager under reset (R27). -/
def broodBusy (s : State) (i : IdxId) (n : Nat) : Bool :=
  (List.range n).any fun j => rangeBusy s (broodRange (s.index i) ((s.index i).head + 1 + BitVec.ofNat 64 j))

/-- APND takes effect: it appends what R249 accepts once all of it fits (R131, R249, R250). -/
def apndBody (c : CtxId) (w : Insn) (s : State) : State :=
  let x := s.ctx c
  let i := spIdx x w
  match apndOps x w with
  | none => s
  | some o =>
    let a := arr0 s x
    access s c (apndRd x w o a) [] fun s1 =>
      let ix := s1.index i
      let rows := (List.range (sv x (fSM w))).map fun j => (j, apndEntry s1 x w o a ix j)
      let ex := rows.foldl (fun e p => if p.2.isNone then excJoin e (raiseAt flInv p.1 0 0) else e) Exc.none
      let l := rows.filterMap Prod.snd
      let s2 := unitRaise s1 c 0xE0 ex
      if l = [] then finishInsn s2 c (flToCtx ex.fl)
      else if entersReadOnly s2 1 then faultSeq (goReadOnly s2) c .addrRange 0 0
      else if ix.broodCount + l.length ≤ ix.broodCap.toNat then
        if broodBusy s2 i l.length then stallCtx s c else
        match broodRoom s2 i l.length with
        | none => blockCtx s1 c .frame
        | some r =>
          if inDebt (s.part x.part) r.2 then s
          else finishInsn (appendBrood (charge r.1 x.part r.2) c i l) c (flToCtx ex.fl)
      else blockCtx s2 c (.apnd i l (flToCtx ex.fl))

/-- APND (R131). -/
def execApnd (c : CtxId) (w : Insn) (s : State) : Res := .next (issue s c w false (apndIss s c w) (apndBody c w))

/-- APND_RESUME: a merge has freed room, and a waiting APND appends all its entries once they fit (R250) and have frames and
tokens (R267, R316). In read-only operation it faults and appends nothing (R393). -/
def execApndResume (c : CtxId) (s : State) : Res :=
  match (s.ctx c).wait with
  | .apnd i l fl =>
    let ix := s.index i
    if s.nvm.readOnly || entersReadOnly s 1 then .next (faultSeq (goReadOnly s) c .addrRange 0 0)
    else if ix.broodCap.toNat < ix.broodCount + l.length then .next s
    else if broodBusy s i l.length then .next s
    else
      match broodRoom s i l.length with
      | none => .next s
      | some r =>
        if inDebt (s.part (s.ctx c).part) r.2 then .next s
        else .next (finishWait (appendBrood (charge r.1 (s.ctx c).part r.2) c i l) c fl)
  | _ => .next s

end Sys2Proof.Machine
end

