-- ==== Sys2Proof/Machine/Hive.lean ====
section
/-! DEFINITION. What the fabric's commands share (10): CRC-32 (R47), schedule tables (R343, R344), windows and
whether a message fits one (R346, R349), ports (R323, R339) and what the drive sends (R329, R333, R348). -/

namespace Sys2Proof.Machine

/-! ## CRC-32 -/

/-- One bit step of the reflected CRC-32 of IEEE 802.3 (R47). -/
def crcBit (c : Nat) : Nat := if c % 2 = 1 then (c / 2) ^^^ 0xEDB88320 else c / 2

/-- One byte step of the CRC-32. -/
def crcByte (c : Nat) (b : Byte) : Nat :=
  crcBit (crcBit (crcBit (crcBit (crcBit (crcBit (crcBit (crcBit (c ^^^ b.toNat))))))))

/-- CRC-32 of a byte string (R47). -/
def crc32 (b : Bytes) : Nat := b.foldl crcByte 0xFFFFFFFF ^^^ 0xFFFFFFFF

/-- A byte string with its four bytes at `off` taken as zero. -/
def zero4 (b : Bytes) (off : Nat) : Bytes := b.take off ++ [0, 0, 0, 0] ++ b.drop (off + 4)

/-! ## Schedule tables -/

/-- A member entry of a table (R343). -/
def memberAt (b : Bytes) (i : Nat) : Member :=
  let o := 64 + 16 * i
  { eui := BitVec.ofNat 64 (fieldAt b o 8), node := BitVec.ofNat 12 (fieldAt b (o + 8) 2)
    intake := (fieldAt b (o + 10) 2).testBit 0, pcap := BitVec.ofNat 32 (fieldAt b (o + 12) 4) }

/-- A slot entry of a table (R343). -/
def slotEntAt (b : Bytes) (m i : Nat) : SlotEnt :=
  let o := 64 + 16 * m + 16 * i
  { inOff := fieldAt b o 2, inLen := fieldAt b (o + 2) 2, cmpOff := fieldAt b (o + 4) 2, cmpLen := fieldAt b (o + 6) 2
    slotOff := fieldAt b (o + 8) 2, slotLen := fieldAt b (o + 10) 2, parent := fieldAt b (o + 12) 2
    port := Fin.ofNat 2 (fieldAt b (o + 14) 1) }

/-- A schedule table read from its bytes (R343). -/
def schedOf (b : Bytes) : Sched :=
  let m := fieldAt b 0x20 2
  { hive := BitVec.ofNat 16 (fieldAt b 0x06 2), sgen := BitVec.ofNat 32 (fieldAt b 0x08 4), period := fieldAt b 0x0C 2
    depth := fieldAt b 0x0E 1, patterns := fieldAt b 0x0F 1, t0 := BitVec.ofNat 64 (fieldAt b 0x10 8)
    start := BitVec.ofNat 64 (fieldAt b 0x18 8), latMax := fieldAt b 0x22 2, bulkOff := fieldAt b 0x24 2
    bulkLen := fieldAt b 0x26 2, power := fieldAt b 0x28 4, lanes := fieldAt b 0x2C 1
    members := (List.range m).map (memberAt b), slots := (List.range (fieldAt b 0x0F 1 * m)).map (slotEntAt b m), raw := b }

/-- The slot entry of member `i` in the pattern of round `r` (R343). -/
def Sched.slot (q : Sched) (r i : Nat) : SlotEnt :=
  q.slots.getD (r % q.patterns * q.members.length + i)
    { inOff := 0, inLen := 0, cmpOff := 0, cmpLen := 0, slotOff := 0, slotLen := 0, parent := 0xFFFF, port := 0 }

/-- Whether `n` steps up the tree from member `i` reach the root. -/
def reachesRoot (q : Sched) (r : Nat) : Nat → Nat → Bool
  | 0, _ => false
  | n + 1, i => (q.slot r i).parent == 0xFFFF || reachesRoot q r n (q.slot r i).parent

/-- Whether the parents of a pattern form one tree with exactly one root (R344). -/
def treeOk (q : Sched) (r : Nat) : Bool :=
  let m := q.members.length
  let all := List.range m
  (all.filter fun i => (q.slot r i).parent == 0xFFFF).length == 1 &&
    (all.all fun i => (q.slot r i).parent == 0xFFFF || decide ((q.slot r i).parent < m)) &&
    all.all fun i => reachesRoot q r m i

/-- Whether a window ends within the period (R344). -/
def inPeriod (q : Sched) (off len : Nat) : Bool := decide ((off + len) * 64 ≤ q.period * 1000)

/-- Whether the reserved bytes and the stated ranges of a table hold (R343, R344). -/
def schedFieldsOk (b : Bytes) : Bool :=
  let m := fieldAt b 0x20 2
  let n := m * fieldAt b 0x0F 1
  fieldAt b 0 4 == 0x43534B48 && fieldAt b 4 2 == 1 && decide (1 ≤ fieldAt b 6 2) &&
  decide (50 ≤ fieldAt b 0x0C 2 ∧ fieldAt b 0x0C 2 ≤ 2000) && decide (1 ≤ fieldAt b 0x0E 1 ∧ fieldAt b 0x0E 1 ≤ 15) &&
  decide (1 ≤ fieldAt b 0x0F 1 ∧ fieldAt b 0x0F 1 ≤ 8) && fieldAt b 0x10 8 % 64 == 0 &&
  decide (1 ≤ m ∧ m ≤ 512) && decide (1 ≤ fieldAt b 0x22 2 ∧ fieldAt b 0x22 2 ≤ 1562) &&
  decide (16 ≤ fieldAt b 0x26 2) && (fieldAt b 0x2C 1 == 3 || fieldAt b 0x2C 1 == 4) && zeroAt b 0x2D 15 &&
  b.length == 64 + 16 * m + 16 * n && fieldAt b 0x3C 4 == crc32 (zero4 b 0x3C) &&
  ((List.range m).all fun i => decide (fieldAt b (64 + 16 * i + 8) 2 < 4096) && decide (fieldAt b (64 + 16 * i + 10) 2 < 2)) &&
  (List.range n).all fun i =>
    decide (fieldAt b (64 + 16 * m + 16 * i + 14) 1 < 2) && zeroAt b (64 + 16 * m + 16 * i + 15) 1

/-- The checks of R344 that the table alone decides. -/
def schedOk (b : Bytes) : Bool :=
  let q := schedOf b
  let nodes := q.members.map fun m => m.node
  let euis := (q.members.map fun m => m.eui).filter (· != 0)
  schedFieldsOk b && nodes.eraseDups.length == nodes.length && euis.eraseDups.length == euis.length &&
  inPeriod q q.bulkOff q.bulkLen &&
  (List.range q.patterns).all fun p => treeOk q p && (List.range q.members.length).all fun i =>
    let e := q.slot p i
    inPeriod q e.inOff e.inLen && inPeriod q e.cmpOff e.cmpLen && inPeriod q e.slotOff e.slotLen &&
      (e.inLen == 0 || (q.members.getD i { eui := 0, node := 0, intake := false, pcap := 0 }).intake)

/-- The time at which round `r` starts (R346). -/
def Sched.at (q : Sched) (r : Nat) : Nat := q.t0.toNat + r * (q.period * 1000)

/-- Whether a schedule's `START` round has begun (R345). -/
def Sched.begun (q : Sched) (now : Nat) : Bool := decide (q.at q.start.toNat ≤ now)

/-- The schedule loaded last: the one that waits for its `START`, or the active one. -/
def newestSched (s : State) : Option Sched := s.fab.pend.or s.fab.sched

/-- The schedule that governs round `r` (R345). -/
def schedFor (s : State) (r : Nat) : Option Sched :=
  match s.fab.pend with
  | some q => if q.start.toNat ≤ r then some q else s.fab.sched
  | none => s.fab.sched

/-- The drive's own member index in a schedule (R337). -/
def ownIndex (s : State) (q : Sched) : Option Nat :=
  (List.range q.members.length).find? fun i =>
    match q.members[i]? with
    | some m => if s.fab.auto then m.eui == s.otp.eui
                else s.fab.set && m.node == s.fab.node && (m.eui == s.otp.eui || m.eui == 0)
    | none => false

/-- The node ID of a member index. -/
def Sched.node (q : Sched) (i : Nat) : BitVec 12 := ((q.members[i]?).map fun m => m.node).getD 0

/-- The member index of a node ID. -/
def Sched.indexOf (q : Sched) (n : BitVec 12) : Option Nat :=
  (List.range q.members.length).find? fun i => q.node i == n && decide (i < q.members.length)

/-- The children of member `i` in round `r`, in ascending node ID (R134). -/
def Sched.children (q : Sched) (r i : Nat) : List Nat :=
  sortBy (fun j => (q.node j).toNat) ((List.range q.members.length).filter fun j => (q.slot r j).parent == i)

/-- The start of member `i`'s answer slot in round `r`. -/
def Sched.slotAt (q : Sched) (r i : Nat) : Nat := q.at r + (q.slot r i).slotOff * 64

/-- The merge parent's acceptance limit for member `i`'s slot (R347 step 5). -/
def Sched.limitAt (q : Sched) (r i : Nat) : Nat :=
  q.at r + ((q.slot r i).slotOff + (q.slot r i).slotLen + q.latMax) * 64

/-- Whether a table is to be adopted (R344): it checks, names the joined hive, and is newer. -/
def adoptable (s : State) (b : Bytes) : Bool :=
  schedOk b && s.fab.hive != 0 && (schedOf b).hive == s.fab.hive &&
    match newestSched s with
    | some q => newer (schedOf b).sgen q.sgen
    | none => true

/-! ## Messages and windows -/

/-- The payload bytes of the frames of an `n`-byte message (R336). -/
def segSizes (n : Nat) : List Nat :=
  if n = 0 then [0] else (List.range (ceilDiv n 8192)).map fun i => min 8192 (n - i * 8192)

/-- The bits that an `n`-byte message takes on the wire (R349). -/
def wireBits (vid : BitVec 12) (n : Nat) : Nat :=
  (segSizes n).foldl (fun a p => a + 8 * (p + 86) + (if vid = 0 then 0 else 32)) 0

/-- Whether an `n`-byte message fits a window of `w` units at some lanes (R349). -/
def fitsWindow (vid : BitVec 12) (n lanes w : Nat) : Bool := decide (wireBits vid n ≤ lanes * 200 * (w * 64))

/-! ## Ports -/

/-- The lanes up on a port, a degraded port counting as three (R325, R349). -/
def lanesUp (s : State) (p : Fin 2) : Nat :=
  let q := s.fab.ports[p]
  if !q.link then 0 else if q.degr then 3 else q.lanes.toNat

/-- Whether the drive may transmit Hornak frames (R37, R444). -/
def mayTransmit (s : State) : Bool := s.fab.set && s.rst.trimv && s.rst.phase == .run

/-- Whether a route to a node is valid on a port (R338). -/
def routeOn (s : State) (n : BitVec 12) (p : Fin 2) : Bool :=
  match s.fab.routes.find? fun r => r.node == n with
  | some r => if p = 0 then r.v0 else r.v1
  | none => false

/-- Whether a port can carry a frame for a node: one under reset takes none (R27). -/
def portUsable (s : State) (n : BitVec 12) (p : Fin 2) : Bool := s.fab.ports[p].link && routeOn s n p && !blockBusy s (0x40 + p.val)

/-- The port of a slot frame: the slot entry's where it is usable, else the other (R339). -/
def slotPort (s : State) (n : BitVec 12) (p : Fin 2) : Option (Fin 2) :=
  if portUsable s n p then some p else if portUsable s n (p + 1) then some (p + 1) else none

/-- The port of any other frame for one node, which carries the sequence number `sq` (R339). -/
def framePort (s : State) (n : BitVec 12) (sq : Nat) : Option (Fin 2) :=
  match portUsable s n 0, portUsable s n 1 with
  | true, true => some (Fin.ofNat 2 (sq % 2))
  | true, false => some 0
  | false, true => some 1
  | false, false => none

/-- Frames that no port could send are counted (R339). -/
def countDrops (s : State) (p : Fin 2) (n : Nat) : State :=
  { s with fab := { s.fab with ports := s.fab.ports.set p { s.fab.ports[p] with txdrop := satAdd s.fab.ports[p].txdrop n } } }

/-- A frame that the drive drops is counted (R335). -/
def countRx (s : State) (p : Fin 2) : State :=
  { s with fab := { s.fab with ports := s.fab.ports.set p { s.fab.ports[p] with rxerr := satInc s.fab.ports[p].rxerr } } }

/-! ## Frames on the wire -/

/-- `n` bytes of a value, the most significant first (R11). -/
def toBe (n v : Nat) : Bytes := (toLe n v).reverse

/-- `DST` of a frame to all members (R333). -/
def toAll : BitVec 16 := 0x8000

/-- The good lanes of a port, as lanes of the drive in ascending order. -/
def portLanes (s : State) (p : Fin 2) : List (Fin 8) :=
  ((List.range 4).filter fun i => s.fab.ports[p].good.getLsbD i).map fun i => Fin.ofNat 8 (4 * p.val + i)

/-- The lane of a frame: the port's lowest, or in degraded operation the good lane `SEQ` mod 3 (R324, R325). -/
def laneFor (s : State) (p : Fin 2) (sq : Nat) : Fin 8 :=
  if s.fab.ports[p].degr then (portLanes s p).getD (sq % 3) (Fin.ofNat 8 (4 * p.val)) else Fin.ofNat 8 (4 * p.val)

/-- The group address of a hive, 03-4B-52-48-hh-hh (R334). -/
def groupMac (hive : BitVec 16) : BitVec 48 := BitVec.ofNat 48 (0x034B5248 * 65536 + hive.toNat)

/-- The address of a destination on a port (R334, R338). -/
def macFor (s : State) (p : Fin 2) (dst : BitVec 16) : BitVec 48 :=
  if dst = toAll then groupMac s.fab.hive
  else
    match s.fab.routes.find? fun r => r.node == dst.truncate 12 with
    | some r => if p = 0 then r.mac0 else r.mac1
    | none => 0

/-- The 48-byte Hornak header, its fields in the order of the wire and each most significant byte first (R11, R333). -/
def headerBytes (s : State) (typ : BitVec 8) (dst : BitVec 16) (round : BitVec 64) (msg : BitVec 32) (sq msglen segno segcnt plen : Nat) : Bytes :=
  toBe 1 1 ++ toBe 1 typ.toNat ++ toBe 2 s.fab.hive.toNat ++ toBe 2 s.fab.node.toNat ++ toBe 2 dst.toNat ++
  toBe 2 s.fab.epoch.toNat ++ toBe 2 sq ++ toBe 6 (stampOf s).toNat ++ toBe 2 0 ++ toBe 4 round.toNat ++
  toBe 4 ((s.fab.sched.map fun q => q.sgen.toNat).getD 0) ++ toBe 4 msg.toNat ++ toBe 4 msglen ++ toBe 2 segno ++
  toBe 2 segcnt ++ toBe 2 plen ++ toBe 6 0

/-- The 802.1Q tag: `PCP` 6 for slot frames and 5 for all others, and the VID (R323). -/
def tagBytes (s : State) (typ : BitVec 8) : Bytes :=
  if s.fab.vid = 0 then []
  else toBe 2 0x8100 ++ toBe 2 ((if 4 ≤ typ.toNat ∧ typ.toNat ≤ 6 then 6 else 5) * 8192 + s.fab.vid.toNat)

/-- One frame of a message on a port, from its destination address to the end of its payload (R323, R324, R333). -/
def frameOn (s : State) (p : Fin 2) (typ : BitVec 8) (dst : BitVec 16) (round : BitVec 64) (msg : BitVec 32) (body : Bytes) (sq i : Nat) : TxFrame :=
  let pl := (body.drop (8192 * i)).take 8192
  let lane := laneFor s p sq
  { port := p, lane := lane
    bytes := toBe 6 (macFor s p dst).toNat ++ toBe 6 (s.otp.macs[lane]).toNat ++ tagBytes s typ ++ toBe 2 0x88B5 ++
      headerBytes s typ dst round msg sq body.length i (segSizes body.length).length pl.length ++ pl }

/-- The ports that each frame of a message goes on, by its sequence number (R339). -/
abbrev Ports := Nat → List (Fin 2)

/-- Sends frames `a` to `a + n − 1` of a message, each with its own stamp and sequence number (R329, R336). -/
def sendPart (s : State) (ports : Ports) (typ : BitVec 8) (dst : BitVec 16) (round : BitVec 64) (msg : BitVec 32) (body : Bytes) (a n : Nat) : State :=
  let seqAt (k : Nat) : Nat := (s.time.seq.toNat + k) % 65536
  let fr := (List.range n).flatMap fun k => (ports (seqAt k)).map fun p => frameOn s p typ dst round msg body (seqAt k) (a + k)
  let m : TxMsg := { port := ((ports s.time.seq.toNat).head?).getD 0, typ := typ, dst := dst, round := round, msg := msg
                     stamp := stampOf s, seq := s.time.seq, body := body, frames := fr }
  { s with out := { s.out with tx := m :: s.out.tx }, time := { s.time with seq := s.time.seq + BitVec.ofNat 16 n } }

/-- The next message number (R333). -/
def nextMsg (s : State) : State := { s with fab := { s.fab with msgNo := s.fab.msgNo + 1 } }

/-- Sends a whole message on given ports. -/
def sendOn (s : State) (ports : Ports) (typ : BitVec 8) (dst : BitVec 16) (round : BitVec 64) (body : Bytes) : State :=
  nextMsg (sendPart s ports typ dst round s.fab.msgNo body 0 (segSizes body.length).length)

/-- The ports whose link is up and that take frames (R27). -/
def upPorts (s : State) : List (Fin 2) := [(0 : Fin 2), 1].filter fun p => s.fab.ports[p].link && !blockBusy s (0x40 + p.val)

/-- The ports of the frames of a message of another kind than a slot's: every up port for one to all members, one port
for each frame to a node (R339). -/
def msgPorts (s : State) (dst : BitVec 16) : Ports := fun sq =>
  if dst = toAll then upPorts s else (framePort s (dst.truncate 12) sq).toList

/-- `n` frames of a message that no port can send are counted: on both ports for one to all members, else on the port
`SEQ` mod 2 each (R339). -/
def dropMsg (s : State) (dst : BitVec 16) (n : Nat) : State :=
  if dst = toAll then countDrops (countDrops s 0 n) 1 n
  else
    let odd := s.time.seq.toNat % 2
    countDrops (countDrops s 0 ((n + 1 - odd) / 2)) 1 ((n + odd) / 2)

/-- Whether some port can carry a message. -/
def canSend (s : State) (dst : BitVec 16) : Bool := !(msgPorts s dst s.time.seq.toNat).isEmpty

/-- Sends a message of another kind than a slot's to one node or to all, or counts its frames (R339). -/
def sendMsg (s : State) (typ : BitVec 8) (dst : BitVec 16) (round : BitVec 64) (body : Bytes) : State :=
  if canSend s dst then sendOn s (msgPorts s dst) typ dst round body
  else dropMsg s dst (segSizes body.length).length

/-! ## Windows as they run -/

/-- Whether a node takes part in no hive: the active schedule has no entry for it (R337). -/
def excluded (s : State) : Bool :=
  match s.fab.sched with
  | some q => (ownIndex s q).isNone
  | none => false

/-- The bits that can still go out in a window of a round: what neither elapsed time nor earlier frames have used (R348,
R350). `a` is the window's start and `len` its length, in nanoseconds. -/
def roomIn (s : State) (used : Option (BitVec 64 × Nat)) (lanes a len : Nat) : Nat :=
  let spent := match used with
    | some (r, n) => if r = s.fab.round then n else 0
    | none => 0
  lanes * 200 * len - max spent (lanes * 200 * (s.time.now.toNat - a))

/-- The record of a window after `n` more bits, where `room` was left before them. -/
def usedIn (s : State) (lanes len room n : Nat) : Option (BitVec 64 × Nat) := some (s.fab.round, lanes * 200 * len - room + n)

end Sys2Proof.Machine
end

