-- ==== Sys2Proof/Machine/Leases.lean ====
section
/-! DEFINITION. Leases of Tier X (08, R272 to R275; 10, R357, R358): the keeper's grant, the requester's windows,
the lender's frames, release and loss. The spec names the fields of the lease messages; their order and
widths here are the model's (assumption 11). -/

namespace Sys2Proof.Machine

/-- Pages of one GiB. -/
def gibPages : Nat := 512

/-- Pages the drive has lent. -/
def lentPages (s : State) : Nat := s.fab.lent.foldl (fun n l => n + l.pages) 0

/-- Pages the drive could still lend (R274). -/
def ownLendable (s : State) : Nat :=
  min (s.tiers.lend.toNat * gibPages - lentPages s) (min s.tiers.freeF (s.tiers.limit - allocated s))

/-- What the keeper takes member `i` to be able to lend. No message carries it for another drive, so it is free
(assumption 2). -/
def lendable (s : State) (q : Sched) (i : Nat) : Nat :=
  if ownIndex s q = some i then ownLendable s else (Config.freeWord (s.free + i)).toNat

/-- The lender the keeper chooses for node `n`: the most lendable space, the lowest member index among equals; none when no
member can lend the whole size (R357). DEDUCED: the requester itself lends it nothing, since Tier X is the DRAM of peers
(assumption 12). -/
def pickLender (s : State) (q : Sched) (n : BitVec 12) (pages : Nat) : Option (BitVec 12) :=
  match minBy (fun i => 2 ^ 64 - lendable s q i) ((List.range q.members.length).filter fun i => q.node i != n) with
  | some i => if pages ≤ lendable s q i then some (q.node i) else none
  | none => none

/-- A `LEASE_GRANT` message (R334). -/
def grantBytes (req : BitVec 32) (lender : BitVec 12) (pages : Nat) (base : BitVec 64) : Bytes :=
  toLe 4 req.toNat ++ toLe 4 lender.toNat ++ toLe 4 pages ++ toLe 8 base.toNat

/-- The number of the drive's next lease request. DESIGN CHOICE: it carries the requester's node ID above a count of 20 bits, so
that a lender tells the leases of two requesters apart (assumption 11). -/
def nextReq (s : State) : BitVec 32 := BitVec.ofNat 32 (s.fab.node.toNat * 2 ^ 20 + (s.fab.reqNo.toNat + 1) % 2 ^ 20)

/-- The requester of a lease by its request number. -/
def reqNode (req : BitVec 32) : BitVec 12 := BitVec.ofNat 12 (req.toNat / 2 ^ 20)

/-- The lowest free window in a range of windows; one whose lease was lost has ended (R272, R273). -/
def freeWindow (s : State) (lo n : Nat) : Option Nat :=
  ((List.range n).map fun i => lo + i).find? fun k => !s.fab.leases.any fun l => l.granted && !l.lost && l.window == k

/-- The state with the leases replaced. -/
def setLeases (s : State) (l : List Lease) : State := { s with fab := { s.fab with leases := l } }

/-- Pages in Tier X whose eviction lease has ended are read from their swap copies (R275). -/
def evictBack (s : State) : State :=
  let gone (p : Page) : Bool := p.loc == .tierX && !(p.xat.any fun x => s.fab.leases.any fun l => l.req == x.1 && l.granted)
  { s with tiers := { s.tiers with pages := s.tiers.pages.map fun p => if gone p then { p with loc := .swap, xat := none } else p } }

/-- The frames that hold pages of a lease's window return (R263, R272). -/
def unframe (s : State) (l : Lease) : State :=
  let mine (p : Page) : Bool := p.owner == .lease l.req
  let s1 := (s.tiers.pages.filter mine).foldl freeFrame s
  { s1 with tiers := { s1.tiers with pages := s1.tiers.pages.filter fun p => !mine p } }

/-- The window's bytes are gone. -/
def clearWindow (s : State) (l : Lease) : State :=
  let a := windowBase l.window
  let b := a + l.pages * Config.pageBytes
  { s with tiers := { s.tiers with
      mem := memZero s.tiers.mem a b
      poison := s.tiers.poison.filter fun p => decide (p * 2048 < a) || decide (b ≤ p * 2048)
      source := s.tiers.source.filter fun p => decide (p * 2048 < a) || decide (b ≤ p * 2048)
      stale := s.tiers.stale.filter fun p => decide (p.1 * 2048 < a) || decide (b ≤ p.1 * 2048) } }

/-- `LEASE_REL` to keeper and lender: the requester holds a lease no more (R334, R358); a keeper needs no message of its own. -/
def releaseMsgs (s : State) (l : Lease) : State :=
  let s1 := if s.fab.st = .keeper then
      { s with fab := { s.fab with grants := s.fab.grants.filter fun g => !(g.req == l.req && g.node == s.fab.node) } }
    else queueBulk s 0x0B (toNode s.fab.knode) (toLe 4 l.req.toNat)
  queueBulk s1 0x0B (toNode l.lender) (toLe 4 l.req.toNat)

/-- A lease ends for its holder: its window closes and `LEASE_REL` goes to keeper and lender (R272, R334). -/
def dropLease (s : State) (l : Lease) : State :=
  let s1 := setLeases s (s.fab.leases.filter fun q => q.req != l.req)
  let s2 := if l.granted && decide (l.window < 48) then clearWindow (unframe s1 l) l else evictBack s1
  if l.lost then s2 else releaseMsgs s2 l

/-- The code pages of a lease window. -/
def windowPages (l : Lease) : List Nat :=
  (List.range (l.pages * 1024)).map fun i => windowBase l.window / 2048 + i

/-- The prefetches that cover some byte of a range and are not behind their first access have lost their tier (R275, R278). -/
def failPrefs (s : State) (r : Range) : State :=
  { s with ctxs := vmap (fun x => { x with prefs := x.prefs.map fun p =>
      if p.fired || (prefHits p (r :: [])) == false then p else { p with failed := true } }) s.ctxs }

/-- Contexts that wait for a lender's data try again. -/
def wakeFar (s : State) : State := allCtx.foldl (fun st c => if (st.ctx c).wait = .far then unblockCtx st c else st) s

/-- A lease is lost (R275, R358): an eviction lease gives way to swap, and the pages of a program lease are restored from
their flash sources or poisoned and logged (R286, R287, R290). Its window is free for another lease; until one takes it, an
access finds the lost pages (assumption 12). -/
def loseLease (s : State) (l : Lease) : State :=
  if 48 ≤ l.window then evictBack (setLeases s (s.fab.leases.filter fun q => q.req != l.req))
  else
    let pages := windowPages l
    let s1 := unframe (setLeases s (s.fab.leases.map fun q => if q.req = l.req then { q with lost := true, reads := [] } else q)) l
    wakeFar (failPrefs (pages.foldl failCode s1) (windowBase l.window, windowBase l.window + l.pages * Config.pageBytes))

/-- A lender frees the frames of a released or lost lease (R358). -/
def freeLent (s : State) (req : BitVec 32) (node : BitVec 12) : State :=
  freePages { s with fab := { s.fab with lent := s.fab.lent.filter fun l => !(l.req == req && l.node == node) } }
    fun o => o == .lent req node

/-- A schedule takes effect (R337, R345): it governs, and its member entry gives an AUTO drive its node ID for as long as it
is active. The sums of a round begin with its first one (R443). A lender that has no entry in it has left the hive, so the leases
of its frames are lost (R358); a drive that has none itself is in no hive (R337), which ends those it holds and those it lends. -/
def activate (s : State) (q : Sched) : State :=
  let i := ownIndex s q
  let s1 := { s with fab := { s.fab with
      sched := some q, pend := none
      member := BitVec.ofNat 9 (i.getD 0)
      node := if s.fab.auto then (i.map q.node).getD 0 else s.fab.node
      fresh := true, bulkUsed := none, inUsed := none, slotSent := none }
                     tel := { s.tel with psSum := 0, psCnt := 0, clPow := Vector.replicate 12 0, clClk := Vector.replicate 12 0 } }
  let s2 := if i.isNone then s1.fab.lent.foldl (fun a l => freeLent a l.req l.node) s1 else s1
  (s2.fab.leases.filter fun l => l.granted && !l.lost && (i.isNone || (q.indexOf l.lender).isNone)).foldl loseLease s2

/-- A schedule is adopted (R341, R344, R345): it governs at once when its `START` has passed. -/
def adopt (s : State) (q : Sched) : State :=
  let s1 := if s.fab.st = .joining then { s with fab := { s.fab with st := .listening } } else s
  if q.begun s.time.now.toNat then activate s1 q else { s1 with fab := { s1.fab with pend := some q } }

/-- The drive lends pages of Tier F (R274); none where it cannot. -/
def lendPages (s : State) (req : BitVec 32) (node : BitVec 12) (pages : Nat) (base : BitVec 64) : Option State :=
  if ownLendable s < pages ∨ pages = 0 then none
  else
    match allocRun s false pages (.lent req node) true with
    | none => none
    | some r =>
      (touchRanges r.1 [(r.2, r.2 + pages * Config.pageBytes)]).map fun s1 =>
        { s1 with fab := { s1.fab with lent := s1.fab.lent ++ [{ req := req, node := node, lender := s.fab.node, pages := pages, base := base }] } }

/-- A window taken by a new lease: what a lost lease left there is gone (R272). -/
def clearLost (s : State) (k : Nat) : State :=
  let old := s.fab.leases.filter fun q => q.lost && q.window == k
  old.foldl clearWindow (setLeases s (s.fab.leases.filter fun q => !(q.lost && q.window == k)))

/-- The requester takes a grant or a refusal: zero pages refuse (R135, R272, R357). A waiting LEASE completes. -/
def takeGrant (s : State) (req : BitVec 32) (lender : BitVec 12) (pages : Nat) (base : BitVec 64) : State :=
  match s.fab.leases.find? fun l => l.req == req && !l.granted with
  | none => s
  | some l =>
    let lo := if l.ctx.isSome then 0 else 48
    let n := if l.ctx.isSome then 48 else 16
    let win := if pages = 0 then none else freeWindow s lo n
    let s1 := match win with
      | none => setLeases s (s.fab.leases.filter fun q => q.req != req)
      | some k => setLeases (clearLost s k) ((clearLost s k).fab.leases.map fun q =>
          if q.req = req then { q with granted := true, window := k, pages := pages, lender := lender, lbase := base } else q)
    match l.ctx with
    | none => s1
    | some c =>
      match (s1.ctx c).wait with
      | .lease w r =>
        if r = req then
          let v := match win with
            | none => (0 : BitVec 64)
            | some k => BitVec.ofNat 64 (windowBase k)
          finishWait (s1.setCtx c (sput (s1.ctx c) (fSP2 w) v)) c 0
        else s1
      | _ => s1

/-- The keeper answers a lease request of node `n` (R357): `LEASE_GRANT` goes to requester and lender. -/
def keeperGrant (s : State) (n : BitVec 12) (req : BitVec 32) (pages : Nat) : State :=
  match s.fab.sched with
  | none => s
  | some q =>
    let pick := pickLender s q n pages
    let base := Config.freeWord (s.free + q.members.length)
    let s1 := s.draw (q.members.length + 1)
    let s2 := match pick with
      | some lender => if lender = s1.fab.node then lendPages s1 req n pages base else some s1
      | none => none
    match pick, s2 with
    | some lender, some s3 =>
      let s4 := { s3 with fab := { s3.fab with grants := s3.fab.grants ++ [{ req := req, node := n, lender := lender, pages := pages, base := base }] } }
      let s5 := if lender = s4.fab.node then s4 else queueBulk s4 0x0A (toNode lender) (grantBytes req lender pages base)
      if n = s5.fab.node then takeGrant s5 req lender pages base else queueBulk s5 0x0A (toNode n) (grantBytes req lender pages base)
    | _, _ =>
      if n = s1.fab.node then takeGrant s1 req 0 0 0 else queueBulk s1 0x0A (toNode n) (grantBytes req 0 0 0)

/-- The drive asks for a lease: its own request where it is the keeper and has an entry in the schedule (R337), else a
`LEASE_REQ` (R357). -/
def askLease (s : State) (c : Option CtxId) (req : BitVec 32) (pages : Nat) : State :=
  let l : Lease := { window := 64, pages := pages, req := req, ctx := c, lender := 0, lbase := 0, granted := false, lost := false, reads := [] }
  let s1 := { s with fab := { s.fab with leases := s.fab.leases ++ [l], reqNo := req } }
  if s1.fab.st = .keeper ∧ excluded s = false then keeperGrant s1 s1.fab.node req pages
  else queueBulk s1 0x09 (toNode s1.fab.knode) (toLe 4 pages ++ toLe 4 req.toNat)

/-- Pages of eviction leases held or asked for (R273). -/
def evictPages (s : State) : Nat := (s.fab.leases.filter fun l => l.ctx.isNone).foldl (fun n l => n + l.pages) 0

/-- The drive asks for eviction leases up to `XEVICT` while a schedule is loaded (R273). -/
def askEviction (s : State) : State :=
  let want := s.tiers.xevict.toNat * gibPages - evictPages s
  if want = 0 ∨ (newestSched s).isNone = true ∨ (freeWindow s 48 16).isNone = true then s
  else askLease s none (nextReq s) (min want 524288)

/-- The leases of a deleted context end (R272). -/
def dropCtxLeases (s : State) (c : CtxId) : State :=
  (s.fab.leases.filter fun l => l.ctx == some c).foldl dropLease s

end Sys2Proof.Machine
end

