-- ==== Sys2Proof/Machine/FabricInstr.lean ====
section
/-! DEFINITION. The fabric instructions SEND, RECV and LEASE (03, R133 to R135; 09, R311; 10, R349, R352, R357). -/

namespace Sys2Proof.Machine

/-- `USES_FABRIC` clear (R51). -/
def fabricIss (s : State) (x : Ctx) : List Iss := failIf (!imgFlag s x 1) (iss .undeclared)

/-! ## SEND -/

/-- Checks at issue of SEND (R97, R133). -/
def sendIss (s : State) (c : CtxId) (w : Insn) : List Iss :=
  let x := s.ctx c
  layoutIss w 5 (mTA + mSK + mSP1) 0 ++ fabricIss s x ++
  match descOf (tget x (fTA w)) with
  | none => [iss .rsvdField]
  | some d => failIf (d.space == .acc) (iss .rsvdField) ++ shapeIss 2 (sv x (fSK w)) (d.rows * rawRow d)

/-- Whether the drive has a slot in round `r` that has not begun and that an `n`-byte message fits (R133). -/
def slotTakes (s : State) (r n : Nat) : Bool :=
  match schedFor s r with
  | none => false
  | some q =>
    match ownIndex s q with
    | none => false
    | some i => (q.slot r i).slotLen != 0 && decide (s.time.now.toNat < q.slotAt r i) &&
        fitsWindow s.fab.vid n q.lanes (q.slot r i).slotLen

/-- The query that a context's step answers: its intake member and its number (R351, R355). -/
def intakeOf (x : Ctx) : Option (BitVec 12 × Nat) :=
  match x.cur with
  | some r =>
    match r.src with
    | .hive _ n o => some (n, o)
    | .host _ _ => none
  | none => none

/-- Whether the drive is the root in round `r` (R343). -/
def rootIn (s : State) (r : Nat) : Bool :=
  match schedFor s r with
  | some q => (ownIndex s q).any fun i => (q.slot r i).parent == 0xFFFF
  | none => false

/-- A message takes the place of any other of its round in the drive's answer slot, or for the root, which answers every
query of a round, of one to the same query (R133, R355). -/
def putSlot (root : Bool) (l : List SlotMsg) (m : SlotMsg) : List SlotMsg :=
  l.filter (fun q => q.round != m.round || (root && (q.intake != m.intake || q.ord != m.ord))) ++ [m]

/-- Whether the drive's slot of round `r` has begun (R133). -/
def slotBegun (s : State) (r : Nat) : Bool :=
  match schedFor s r with
  | none => true
  | some q =>
    match ownIndex s q with
    | none => true
    | some i => decide (q.slotAt r i ≤ s.time.now.toNat)

/-- The end of the drive's slot of round `r` (R347 step 4). -/
def slotEnd (s : State) (r : Nat) : BitVec 64 :=
  match schedFor s r with
  | none => 0
  | some q => ((ownIndex s q).map fun i => BitVec.ofNat 64 (q.slotAt r i + (q.slot r i).slotLen * 64)).getD 0

/-- The later of two times. -/
def later (a b : BitVec 64) : BitVec 64 := if a.toNat < b.toNat then b else a

/-- A message takes its place in the drive's answer slots. -/
def fillSlot (s : State) (m : SlotMsg) : State := { s with fab := { s.fab with slots := putSlot (rootIn s m.round.toNat) s.fab.slots m } }

/-- SEND takes effect (R133, R311). Its checks are made once, when it issues: until its access has gone through, an
empty message stands in the slot, which the drive sends as the absent frame; a payload that is ready only once the slot
has begun is not sent. The context is pinned from here to the slot's end. -/
def sendBody (c : CtxId) (w : Insn) (s : State) : State :=
  let x := s.ctx c
  let n := sv x (fSK w)
  let r := sv x (fSP1 w)
  match descOf (tget x (fTA w)) with
  | none => s
  | some d =>
    let sent := x.sending == some (BitVec.ofNat 64 r)
    if !sent && !slotTakes s r (64 + n) then faultCtx s c .fabric 0xE2 0 0
    else
      let gs := rawSegs (fTA w) d (arr0 s x) 0 n
      let m : SlotMsg := { round := BitVec.ofNat 64 r, ctx := c, body := [], ready := false
                           intake := (intakeOf x).map Prod.fst, ord := ((intakeOf x).map Prod.snd).getD 0, own := false }
      let s0 := if sent then s else
        (fillSlot s m).setCtx c { x with pinEnd := later x.pinEnd (slotEnd s r), sending := some (BitVec.ofNat 64 r) }
      access s0 c gs [] fun s1 =>
        let body := gs.flatMap fun g => readN s1 (s1.ctx c) g.sp g.arr g.off g.len
        let s2 := if slotBegun s1 r then s1 else fillSlot s1 { m with body := body, ready := true }
        finishInsn (s2.setCtx c { s2.ctx c with sending := none }) c 0

/-- SEND (R133). -/
def execSend (c : CtxId) (w : Insn) (s : State) : Res := .next (issue s c w false (sendIss s c w) (sendBody c w))

/-! ## RECV -/

/-- The children of the drive in round `r`, with the schedule that governs it. -/
def ownChildren (s : State) (r : Nat) : Option (Sched × List Nat) :=
  match schedFor s r with
  | none => none
  | some q =>
    match ownIndex s q with
    | none => some (q, [])
    | some i => some (q, q.children r i)

/-- Checks at issue of RECV (R97, R134). -/
def recvIss (s : State) (c : CtxId) (w : Insn) : List Iss :=
  let x := s.ctx c
  let n := x.count.toNat * ((ownChildren s (sv x (fSP1 w))).map fun p => p.2.length).getD 0
  layoutIss w 5 (mTD + mTC + mSP1) 0 ++ failIf (fTD w == 31) (iss .rsvdField) ++ fabricIss s x ++
  match descOf (tget x (fTD w)), descOf (tget x (fTD w + 1)), descOf (tget x (fTC w)) with
  | some d, some dn, some dc =>
    failIf (d.fmt != .dist || dn.fmt != .vid || dc.fmt != .uint8 || d.space == .acc || dn.space == .acc || dc.space == .acc)
      (iss .rsvdField) ++
    shapeIss 0 n (min d.rows dn.rows) ++ shapeIss 1 64 (dc.rows * dc.e0) ++
    rdonlyIss (fTD w) d ++ rdonlyIss (fTD w + 1) dn ++ rdonlyIss (fTC w) dc ++
    devWriteIss s c (rowsSegs (fTD w) d 0 0 n (min d.e0 dn.e0) ++ rowsSegs (fTD w + 1) dn 0 0 n (min d.e0 dn.e0) ++ rawSegs (fTC w) dc 0 0 64)
  | _, _, _ => [iss .rsvdField]

/-- Whether every child's acceptance limit has passed (R134, R347 step 5). -/
def childrenPassed (s : State) (q : Sched) (r : Nat) (l : List Nat) : Bool :=
  l.all fun j => decide (q.limitAt r j ≤ s.time.now.toNat)

/-- What a child sent for a round, if it was accepted (R353). -/
def childMsg (s : State) (r j : Nat) : Option ChildMsg :=
  s.fab.kids.find? fun m => m.round.toNat == r && m.child == j

/-- Entry `j` of row `i` of a child's answer of `rows` rows of `k` entries: the codes of all rows, then the IDs,
padded beyond what the message holds and where the child sent the absent frame or nothing (R116, R134; assumption 11). -/
def childEntry (rows k : Nat) (m : Option ChildMsg) (i j : Nat) : Nat × Nat :=
  match m with
  | none => (distInf.toNat, noId)
  | some v =>
    let a := (i * k + j) * 4
    let b := rows * k * 4 + (i * k + j) * 8
    if b + 8 ≤ v.body.length then (fieldAt v.body a 4, fieldAt v.body b 8) else (distInf.toNat, noId)

/-- The coverage that the children's messages bring (R134, R352). -/
def coverOf (s : State) (r : Nat) (l : List Nat) : BitVec 512 :=
  l.foldl (fun a j => a ||| ((childMsg s r j).map fun m => m.cover).getD 0) 0

/-- Adds coverage to what a context's RECVs of a round received (R352). -/
def addCover (s : State) (c : CtxId) (r : Nat) (b : BitVec 512) : State :=
  let mine (v : Cover) : Bool := v.round.toNat == r && v.ctx == c
  let old := ((s.fab.covers.find? mine).map fun v => v.bits).getD 0
  { s with fab := { s.fab with covers := s.fab.covers.filter (fun v => !mine v) ++ [{ round := BitVec.ofNat 64 r, ctx := c, bits := old ||| b }] } }

/-- RECV writes the children's answers and the coverage, and completes (R134). DESIGN CHOICE: a child's block of rows has as many
rows as the step has sequences, each as long as the shorter planned row of t[`TD`] and t[`TD`+1]; R134 names neither (assumption 31). -/
def recvWrite (s : State) (c : CtxId) (w : Insn) (r : Nat) (l : List Nat) : State :=
  let x := s.ctx c
  match descOf (tget x (fTD w)), descOf (tget x (fTD w + 1)), descOf (tget x (fTC w)) with
  | some d, some dn, some dc =>
    let rows := x.count.toNat
    let k := min d.e0 dn.e0
    let a := arr0 s x
    let cov := coverOf s r l
    let wr := rowsSegs (fTD w) d a 0 (rows * l.length) k ++ rowsSegs (fTD w + 1) dn a 0 (rows * l.length) k ++ rawSegs (fTC w) dc a 0 64
    access s c [] wr fun s0 =>
      let s1 := ((List.range l.length).zip l).foldl (fun st p =>
        (List.range rows).foldl (fun s2 i =>
          putBest s2 c d dn a (p.1 * rows + i) k ((List.range k).map (childEntry rows k (childMsg s r p.2) i))) st) s0
      let s3 := fillSegs c (rawSegs (fTC w) dc a 0 64) (toLe 64 cov.toNat) s1
      let s4 := addCover s3 c r cov
      finishWrites (s4.setCtx c { s4.ctx c with pinned := false }) c wr 0
  | _, _, _ => s

/-- RECV takes effect (R134, R311): it waits, unless every child's slot has passed already. The context is pinned from here until
RECV completes. -/
def recvBody (c : CtxId) (w : Insn) (s : State) : State :=
  let r := sv (s.ctx c) (fSP1 w)
  match ownChildren s r with
  | none => faultCtx s c .fabric 0xE2 0 0
  | some (q, l) =>
    let sp := s.setCtx c { s.ctx c with pinned := true }
    if childrenPassed s q r l then recvWrite sp c w r l else blockCtx sp c (.recv w (BitVec.ofNat 64 r))

/-- RECV (R134). -/
def execRecv (c : CtxId) (w : Insn) (s : State) : Res := .next (issue s c w false (recvIss s c w) (recvBody c w))

/-- The wait of a RECV ends once every child's acceptance limit has passed (R134, R353): the context is runnable, still
pinned, and the instruction writes when it runs again, with its partition's arrays (R306, R311). -/
def recvDone (s : State) (c : CtxId) : State :=
  match (s.ctx c).wait with
  | .recv _ r =>
    match ownChildren s r.toNat with
    | none => s
    | some (q, l) => if childrenPassed s q r.toNat l then unblockCtx s c else s
  | _ => s

/-! ## LEASE -/

/-- Whether a size is a whole number of pages from 2 MiB to 1 TiB (R135). -/
def leaseSizeOk (n : Nat) : Bool := n % Config.pageBytes == 0 && decide (Config.pageBytes ≤ n ∧ n ≤ 2 ^ 40)

/-- Checks at issue of LEASE (R97, R135). -/
def leaseIss (s : State) (c : CtxId) (w : Insn) : List Iss :=
  let x := s.ctx c
  layoutIss w 5 (mSK + mSP2) 0x100 ++ failIf (!leaseSizeOk (sv x (fSK w))) (iss .rsvdField) ++ fabricIss s x

/-- LEASE takes effect (R135, R272, R357). -/
def leaseBody (c : CtxId) (w : Insn) (s : State) : State :=
  let x := s.ctx c
  if (newestSched s).isNone then faultCtx s c .fabric 0xE2 0 0
  else if (freeWindow s 0 48).isNone then finishInsn (s.setCtx c (sput x (fSP2 w) 0)) c 0
  else
    let req := nextReq s
    askLease (blockCtx s c (.lease w req)) (some c) req (sv x (fSK w) / Config.pageBytes)

/-- LEASE (R135). -/
def execLease (c : CtxId) (w : Insn) (s : State) : Res := .next (issue s c w false (leaseIss s c w) (leaseBody c w))

/-- The lease whose window base an s-register holds, if the context holds it: a lost lease has no window (R135, R272). -/
def heldLease (s : State) (c : CtxId) (v : Nat) : Option Lease :=
  s.fab.leases.find? fun l => l.granted && !l.lost && l.ctx == some c && windowBase l.window == v

/-- LEASE with `REL` takes effect (R135, R272). Of two faults the lower code is recorded (R74). DESIGN CHOICE: `DETAIL` of
the `ADDR_RANGE` is zero, since no t-register names the base (R69; assumption 29). -/
def leaseRelBody (c : CtxId) (w : Insn) (s : State) : State :=
  match heldLease s c (sv (s.ctx c) (fSP2 w)) with
  | none => faultCtx s c .addrRange 0xE0 0 0
  | some l => if (newestSched s).isNone then faultCtx s c .fabric 0xE2 0 0 else finishInsn (dropLease s l) c 0

/-- LEASE with `REL` 1 (R135). -/
def execLeaseRelease (c : CtxId) (w : Insn) (s : State) : Res :=
  .next (issue s c w false (layoutIss w 5 mSP2 0x100 ++ fabricIss s (s.ctx c)) (leaseRelBody c w))

end Sys2Proof.Machine
end

