-- ==== Sys2Proof/Machine/System.lean ====
section
/-! DEFINITION. The system instructions SETP and EVT (03, R136, R137), reserved opcodes (R97) and the step time
limit (02, R39, R73). -/

namespace Sys2Proof.Machine

/-- A SETP: the parameter number is the whole of `MOD`, and only `SP1` is used (R93, R136). -/
def runSetp (s : State) (c : CtxId) (w : Insn) (chk : List Iss) (f : Ctx → BitVec 64 → Ctx) : Res :=
  .next (issue s c w false (layoutIss w 6 mSP1 0xFFFF ++ chk) fun st =>
    finishInsn (st.setCtx c (f (st.ctx c) (sget (st.ctx c) (fSP1 w)))) c 0)

/-- SETP of the trap mask; a reserved parameter number faults (R72, R136). -/
def execSetpTrapMask (c : CtxId) (w : Insn) (s : State) : Res :=
  runSetp s c w (failIf (w.mod != 0 || bitsOf (sget (s.ctx c) (fSP1 w)) 15 5 != 0) (iss .rsvdField)) fun x v =>
    { x with trapMask := v.truncate 16 }

/-- A band takes the place of any other on its tensor, in its monitor entry too (R136, R193). -/
def putBand (x : Ctx) (b : Band) : Ctx :=
  { x with bands := x.bands.filter (fun q => q.tid != b.tid) ++ [b]
           mon := x.mon.map fun e => if e.tid = b.tid then { e with band := true, lo := b.lo, hi := b.hi } else e }

/-- A tensor's band is removed (R136, R193). -/
def dropBand (x : Ctx) (tid : BitVec 32) : Ctx :=
  { x with bands := x.bands.filter (fun q => q.tid != tid)
           mon := x.mon.map fun e => if e.tid = tid then { e with band := false, outside := false, lo := 0, hi := 0 } else e }

/-- SETP of a ratio band (R136). -/
def execSetpRatioBand (c : CtxId) (w : Insn) (s : State) : Res :=
  runSetp s c w [] fun x v => putBand x { tid := v.extractLsb' 32 32, lo := v.extractLsb' 0 16, hi := v.extractLsb' 16 16 }

/-- SETP that removes a ratio band (R136). -/
def execSetpRatioBandRemoval (c : CtxId) (w : Insn) (s : State) : Res :=
  runSetp s c w (failIf (bitsOf (sget (s.ctx c) (fSP1 w)) 31 0 != 0) (iss .rsvdField)) fun x v => dropBand x (v.extractLsb' 32 32)

/-- SETP of the default deadline (R136). -/
def execSetpDefaultDeadline (c : CtxId) (w : Insn) (s : State) : Res :=
  runSetp s c w [] fun x v => { x with deadline := v }

/-- EVT (R137): the event code is the whole of `MOD`. -/
def execEvt (c : CtxId) (w : Insn) (s : State) : Res :=
  .next (issue s c w false (layoutIss w 6 mSP1 0xFFFF ++ failIf (decide (w.mod.toNat < 0x100)) (iss .evtCode)) fun st =>
    finishInsn (raiseEvent st c w.mod (sget (st.ctx c) (fSP1 w))) c 0)

/-- A reserved opcode faults at issue (R97). -/
def execReservedOpcode (c : CtxId) (opc : BitVec 8) (w : Insn) (s : State) : Res :=
  .next (issue s c w false (failIf (w.cls.toNat != opc.toNat / 16) (iss .rsvdField) ++ [iss .rsvdOpcode]) fun st => st)

/-- STEP_LIMIT: a step has run longer than its context's limit (R39, R73). -/
def execStepLimit (c : CtxId) (s : State) : Res :=
  let x := s.ctx c
  .next (if x.inStep && x.cur.isSome && decide (x.stepAt.toNat + x.limit.toNat * 1000000 < s.time.now.toNat) then
    faultSeq s c .stepLimit 0 0
  else s)

end Sys2Proof.Machine
end

