-- ==== Sys2Proof/Machine/Sched.lean ====
section
/-! DEFINITION. The scheduler's events: slice ends, switches of a partition's arrays, eviction and starvation (09,
R301 to R314; 04, R166). -/

namespace Sys2Proof.Machine

/-! ## Slices and switches -/

/-- The Running context of a partition (R300). -/
def runningOf (s : State) (p : PartId) : Option CtxId :=
  allCtx.find? fun c => (s.ctx c).st == .running && (s.ctx c).part == p

/-- SLICE_END: the Running context has used its slice, and the scheduler chooses a successor (R303 to R306). -/
def execSliceEnd (p : PartId) (s : State) : Res :=
  match runningOf s p with
  | none => .next s
  | some c =>
    if s.time.now.toNat < (s.ctx c).sliceAt.toNat + ((s.part p).desc.slice.toNat * 1000 - sliceUsed (s.part p) c) then .next s
    else
      let s1 := leaveRunning s c
      .next (dispatch ((s1.setCtx c { s1.ctx c with st := .runnable }).setPart p (noSlice (s1.part p))) p)

/-- ARRAY_CLEAR_COMPLETE: the arrays are at zero, and the successor starts its step (R301, R305); the clear stands still while a cluster
is being reset (R27). -/
def execArrayClearComplete (p : PartId) (s : State) : Res :=
  match (s.part p).sw with
  | .clear c =>
    if (partArrs s p).any (fun a => blockDown s (clusterOf a)) then .next s
    else if (s.ctx c).st = .runnable then .next (startStep s c p)
    else .next (dispatch (s.setPart p { s.part p with sw := .idle }) p)
  | _ => .next s

/-- SAVE_COMPLETE: the outgoing context is parked, and the clear for its successor begins (R305, R308, R309); the transfer
stands still while a block that it needs is being reset (R27, R459). -/
def execSaveComplete (p : PartId) (s : State) : Res :=
  match (s.part p).sw with
  | .save out succ =>
    if saveDown s p then .next s
    else
      let s1 := saveArrays s p
      .next (s1.setPart p { s1.part p with sw := .clear succ, holder := none, parked := some out })
  | _ => .next s

/-- RESTORE_COMPLETE: the parked context holds the arrays again and runs (R305, R309); the transfer stands still while a
block that it needs is being reset (R27, R459). -/
def execRestoreComplete (p : PartId) (s : State) : Res :=
  match (s.part p).sw with
  | .restore c =>
    if saveDown s p then .next s
    else
      let s1 := restoreArrays s p
      let s2 := makeRunning (s1.setPart p { s1.part p with sw := .idle, holder := some c, parked := none }) c
      .next (if savePoison s p then faultCtx s2 c .poison 0xE1 0 0 else s2)
  | _ => .next s

/-! ## Eviction -/

/-- Whether a context is starved (R313). -/
def isStarved (s : State) (c : CtxId) : Bool :=
  swapRunnable s c && (freeSeq s).isNone && !allCtx.any fun d =>
    let x := s.ctx d
    x.part == (s.ctx c).part && x.seqr.isSome && (x.st == .running || x.st == .runnable)

/-- Whether a context is pinned: by a RECV that has not completed, or until the end of the slot of a SEND (R311). -/
def isPinned (s : State) (c : CtxId) : Bool := (s.ctx c).pinned || decide (s.time.now.toNat < (s.ctx c).pinEnd.toNat)

/-- Whether a resident context may lose its sequencer: not pinned, not part of a switch, and not the holder of
arrays whose save areas are occupied (R310, R311). -/
def evictable (s : State) (c : CtxId) : Bool :=
  let x := s.ctx c
  let pt := s.part x.part
  x.seqr.isSome && !isPinned s c && decide (switchWithout pt c = pt.sw) &&
    (pt.holder != some c || (pt.parked.isNone && pt.sw == .idle))

/-- The resident context in a state that left Running least recently and may be evicted (R313). -/
def evictVictim (s : State) (st : CtxSt) : Option CtxId :=
  minBy (fun c => (s.ctx c).lastRun.toNat) (allCtx.filter fun c => (s.ctx c).st == st && evictable s c)

/-- Whether a context holds its partition's arrays. -/
def holdsArrays (s : State) (c : CtxId) : Bool := (s.part (s.ctx c).part).holder == some c

/-- A context loses its sequencer; a holder is saved and parked first (R310). -/
def evict (s : State) (c : CtxId) : State :=
  let x := s.ctx c
  let pt := s.part x.part
  let s1 := if holdsArrays s c then
      (saveArrays s x.part).setPart x.part { pt with holder := none, parked := some c, saves := satInc pt.saves }
    else s
  s1.setCtx c { x with st := .swapped, seqr := none, swBlocked := x.st == .blocked, runAt := s.time.now }

/-- EVICTION_COMPLETE: context `c`, the victim that R313 names, is Swapped, and the first starved context takes
its sequencer. -/
def execEvictionComplete (c : CtxId) (s : State) : Res :=
  match (swapOrder s).find? (isStarved s), (s.ctx c).seqr with
  | some d, some q =>
    if evictVictim s .blocked = some c ∧ ¬(holdsArrays s c = true ∧ saveBusy s (s.ctx c).part = true) then
      let s1 := evict s c
      .next (dispatch (restoreCtx s1 d q) (s1.ctx c).part)
    else .next s
  | _, _ => .next s

/-- Whether a context is starved with no resident context that can be evicted (R314). -/
def starvedNow (s : State) (c : CtxId) : Bool := isStarved s c && (evictVictim s .blocked).isNone

/-- The time since which each context is starved with nobody to evict, kept as the clock runs (R314). -/
def noteStarved (s : State) : State :=
  { s with ctxs := vgen 64 fun c =>
      let x := s.ctx (Fin.ofNat 64 c)
      { x with starveAt := if starvedNow s (Fin.ofNat 64 c) then x.starveAt <|> some s.time.now else none } }

/-- STARVATION_TIMEOUT: a starved context has waited four slices and no resident context can be evicted (R314). -/
def execStarvationTimeout (c : CtxId) (s : State) : Res :=
  let x := s.ctx c
  let slice := (s.part x.part).desc.slice.toNat * 1000
  if starvedNow s c && !x.starved && (x.starveAt.any fun t => decide (t.toNat + 4 * slice ≤ s.time.now.toNat)) then
    let pins := (allCtx.filter fun d => (s.ctx d).seqr.isSome && isPinned s d).length
    let s1 := s.setCtx c { x with starved := true }
    .next (raiseEvent s1 c 0x0002 (BitVec.ofNat 64 (x.part.val + pins * 256)))
  else .next s

end Sys2Proof.Machine
end

