-- ==== Sys2Proof/Machine/Gate.lean ====
section
/-! DEFINITION. How a host or management command reaches its meaning (12, R399, R400, R427, R429, R430; 15, R491):
whether it is fetched at all, port authority, `PSDT`, power states and the failed-stack state. -/

namespace Sys2Proof.Machine

/-- The command classes of R430 in table order. -/
inductive Cls where
  | data | prog | queues | info | firmware | bstProt | power | fabric | cal | round
deriving DecidableEq, Repr

/-- The four ports that a class is open to, as `HST_AUTH` codes them: host, management, fabric, debug (R430, R431). -/
def clsPorts : Cls → Nat
  | .data => 1 | .prog => 1 | .queues => 1 | .info => 11
  | .firmware => 10 | .bstProt => 10 | .power => 10 | .fabric => 10 | .cal => 10 | .round => 4

/-- Whether the vendor registers can be written: the firmware runs (R453, R502). -/
def regsLive (s : State) : Bool := s.rst.phase == .run && s.pins.main

/-- Whether a port reaches the registers at all: the debug port needs its strap, and in safe mode it and the management
port are inert (R430, R456, R502). -/
def reaches (s : State) (p : Port) : Bool :=
  match p with
  | .host => true
  | .management => !s.rst.safe
  | .debug => s.host.dbg && !s.rst.safe
  | _ => false

/-- `MASK` of `HST_AUTH` (R431). -/
def authMask : Nat :=
  (([Cls.data, .prog, .queues, .info, .firmware, .bstProt, .power, .fabric, .cal, .round]).map clsPorts).reverse.foldl
    (fun a n => a * 16 + n) 0

/-- Whether a class is open to a port (R430); the debug port is inert unless its strap is set. -/
def admitted (s : State) (k : Cls) (p : Port) : Bool :=
  match p with
  | .host => (clsPorts k).testBit 0
  | .management => (clsPorts k).testBit 1
  | .fabric => (clsPorts k).testBit 2
  | .debug => s.host.dbg && (clsPorts k).testBit 3
  | .supervisor _ _ => false

/-- One more command or register write refused (R431). -/
def countDeny (s : State) : State := { s with host := { s.host with deny := satInc s.host.deny } }

/-- Whether a submission queue exists; queue 0 is the admin queue (R399). -/
def sqExists (s : State) (q : BitVec 16) : Bool := q == 0 || s.host.sqs.any fun x => x.id == q

/-- Whether a command of port `h.port` is fetched at all: the drive runs or is in recovery (R453, R473), and a
host command's controller is ready and its queue exists. In safe mode the management and debug ports are inert (R456). -/
def fetched (s : State) (h : Hdr) : Bool :=
  (s.rst.phase == .run || s.rst.phase == .recovery) && s.pins.main &&
  match h.port with
  | .host => s.host.ccEn && s.host.rdy && !s.host.noFetch && sqExists s h.sq
  | .debug => s.host.dbg && !s.rst.safe
  | .management => !s.rst.safe
  | _ => true

/-- The header of an NVMe command. -/
def cmdHdr : Instr → Option Hdr
  | .loadProgram h _ _ _ _ _ => some h
  | .programActivate h _ => some h
  | .programDeactivate h _ => some h
  | .executeProgram h _ _ => some h
  | .contextCreate h _ => some h
  | .contextDelete h _ => some h
  | .read h _ _ _ _ => some h
  | .write h _ _ _ _ _ => some h
  | .writeZeroes h _ _ _ _ => some h
  | .writeUncorrectable h _ _ _ _ => some h
  | .compare h _ _ _ _ _ => some h
  | .datasetManagement h _ _ _ => some h
  | .flush h _ _ => some h
  | .memoryRead h _ _ _ => some h
  | .memoryWrite h _ _ _ => some h
  | .unsupportedOpcode h _ => some h
  | _ => none

/-- A host command that names a namespace which holds an index (R408). -/
def namesIndex (s : State) (h : Hdr) (nsid : BitVec 32) : Bool :=
  h.port == .host && s.nvm.nss.any fun n => n.index.isSome && (n.nsid == nsid || nsid == BitVec.allOnes 32)

/-- The one namespace that a command on logical blocks names. -/
def oneNsid (n : BitVec 32) : Option (BitVec 32) := if n = BitVec.allOnes 32 then none else some n

/-- The namespace that a command names. -/
def cmdNsid : Instr → Option (BitVec 32)
  | .read _ n _ _ _ => oneNsid n
  | .write _ n _ _ _ _ => oneNsid n
  | .writeZeroes _ n _ _ _ => oneNsid n
  | .writeUncorrectable _ n _ _ _ => oneNsid n
  | .compare _ n _ _ _ _ => oneNsid n
  | .datasetManagement _ n _ _ => oneNsid n
  | .flush _ n _ => some n
  | .identify _ n _ => some n
  | .namespaceManagement _ n _ _ => some n
  | .namespaceAttachment _ n _ => some n
  | .formatNvm _ n _ => some n
  | _ => none

/-- What a command with a wrong header completes with: Index Namespace comes before all (R408). -/
def headStatus (s : State) (h : Hdr) (i : Instr) : Status :=
  if (cmdNsid i).any (namesIndex s h) then .indexNamespace else .invalidField

/-- First and last block of a list of ranges. -/
def hull (l : List (BitVec 64 × BitVec 32)) : Nat × Nat :=
  let lo := ((minBy (fun p => p.1.toNat) l).map fun p => p.1.toNat).getD 0
  (lo, l.foldl (fun m p => max m (p.1.toNat + p.2.toNat)) lo)

/-- The entry of the range-lock table that a command needs from its fetch to its completion (R419); one entry covers the ranges
of Dataset Management, which writes where it deallocates. -/
def lockNeed : Instr → Option Lock
  | .read h n a k o => some { nsid := n, lba := a.toNat, n := k.toNat + 1, wr := false, sq := h.sq, cid := h.cid, ctx := none, ord := o.ord, done := false }
  | .compare h n a k o _ => some { nsid := n, lba := a.toNat, n := k.toNat + 1, wr := false, sq := h.sq, cid := h.cid, ctx := none, ord := o.ord, done := false }
  | .write h n a k o _ => some { nsid := n, lba := a.toNat, n := k.toNat + 1, wr := true, sq := h.sq, cid := h.cid, ctx := none, ord := o.ord, done := false }
  | .writeZeroes h n a k o => some { nsid := n, lba := a.toNat, n := k.toNat + 1, wr := true, sq := h.sq, cid := h.cid, ctx := none, ord := o.ord, done := false }
  | .writeUncorrectable h n a k o => some { nsid := n, lba := a.toNat, n := k.toNat + 1, wr := true, sq := h.sq, cid := h.cid, ctx := none, ord := o.ord, done := false }
  | .datasetManagement h n d l =>
    some { nsid := n, lba := (hull l).1, n := (hull l).2 - (hull l).1, wr := d.d11.getLsbD 2, sq := h.sq, cid := h.cid, ctx := none
           ord := d.d13.getLsbD 15, done := false }
  | _ => none

/-- The range-lock entry of a command. -/
def lockOf (h : Hdr) (l : Lock) : Bool := l.sq == h.sq && l.cid == h.cid && l.ctx.isNone

/-- Whether a command holds its entry. -/
def hasEntry (s : State) (h : Hdr) : Bool := s.host.locks.any fun l => lockOf h l && !l.done

/-- Whether a queue's head is held up: the full range-lock table keeps an earlier command of it without an entry (R420). -/
def headHeld (s : State) (h : Hdr) : Bool :=
  (s.parked ++ if s.replay then [] else s.ready).any fun i => match cmdHdr i with
    | some g => g.port == .host && g.sq == h.sq && (lockNeed i).isSome && !hasEntry s g
    | none => false

/-- Whether a command is not fetched yet: it needs an entry of the full range-lock table, or stands behind one that does
(R420). -/
def unfetched (s : State) (h : Hdr) (i : Instr) : Bool :=
  h.port == .host && h.sq != 0 &&
  (headHeld s h || ((lockNeed i).isSome && !hasEntry s h && decide (1024 ≤ locksUsed s)))

/-- The pair that a command's fetch issues: one that has waited in the drive has its pair, but for one that the full
range-lock table kept from being fetched (R329, R420). -/
def fetchPair (s : State) (h : Hdr) (i : Instr) : State :=
  if (lockNeed i).isSome then (if s.replay && hasEntry s h then s else s.tickSeq) else s.fetchSeq h

/-- Whether a command of a queue must stay behind an earlier one of it: an ordered one that has not completed (R421). -/
def staysBehind (s : State) (h : Hdr) : Bool :=
  h.port == .host && h.sq != 0 &&
   (locksBefore (lockOf h) s.host.locks).any fun l => l.sq == h.sq && l.ctx.isNone && l.ord

/-- Operation Denied in recovery (R473), in safe mode (R456) and after a stack failure (R491). -/
def denied (s : State) (h : Hdr) (k : Cls) : Bool :=
  (s.rst.phase == .recovery && (h.port == .host || k != .firmware)) || ((s.tiers.stkFail || s.rst.safe) && k == .prog)

/-- A command fetched while asleep is held, and the drive returns to PS0 (R427). -/
def holdCmd (s : State) (i : Instr) : State :=
  { s with parked := s.parked ++ [i]
           host := { s.host with exiting := s.host.exiting || (s.host.entry.isNone && decide (3 ≤ s.host.ps.toNat)) } }

/-- A command that waits for another one is tried again later. -/
def park (s : State) (i : Instr) : State := { s with parked := s.parked ++ [i] }

/-- A command that stays in its queue, unfetched: a later fetch issues its pair (R329, R420). What of one that needs an entry of
the range-lock table is told by the entry. -/
def leaveCmd (s : State) (h : Hdr) (i : Instr) : State :=
  if (lockNeed i).isSome || (h.sq, h.cid) ∈ s.host.waitQ then s
  else { s with host := { s.host with waitQ := s.host.waitQ ++ [(h.sq, h.cid)] } }

/-- A command that is fetched and then waits: it has its pair and its entry of the range-lock table (R329, R419, R420). -/
def fetchCmd (s : State) (h : Hdr) (i : Instr) : State :=
  if unfetched s h i then leaveCmd s h i
  else
    match lockNeed i with
    | some l => if h.port = .host then (takeLock (fetchPair s h i) (lockOf h) l).1 else fetchPair s h i
    | none => fetchPair s h i

/-- A command ends with a status before it starts; one that has waited frees the entry that it holds (R419). -/
def endHead (s : State) (h : Hdr) (st : Status) : State :=
  if s.replay then freeLocks (completeSt s h st) (lockOf h) else completeSt s h st

/-- Runs a command of class `k` (R4, R14, R329, R399, R400, R420, R421, R427, R430, R456, R473, R491). -/
def hostCmd (s : State) (h : Hdr) (k : Cls) (i : Instr) (f : State → State) : Res :=
  .next (
    if !fetched s h then s
    else if !s.replay && !s.ready.isEmpty then { fetchCmd s h i with ready := s.ready ++ [i] }
    else if s.rst.phase == .recovery && denied s h k then endHead (fetchPair s h i) h .operationDenied
    else if unfetched s h i then park (leaveCmd s h i) i
    else if asleep s then holdCmd (fetchCmd s h i) i
    else if !admitted s k h.port then endHead (countDeny (fetchPair s h i)) h .notAuthorised
    else if h.psdt ≠ 0 ∨ h.rsv = true then endHead (fetchPair s h i) h (headStatus s h i)
    else if denied s h k then endHead (fetchPair s h i) h .operationDenied
    else if staysBehind s h then park (fetchCmd s h i) i
    else f (fetchPair s h i))

/-- The first failing stage of R403 sets the status; otherwise the command runs. -/
def stages (s : State) (h : Hdr) (l : List (Bool × Status)) (f : State → State) : State :=
  match l.find? fun p => p.1 with
  | some p => completeSt s h p.2
  | none => f s

/-- Whether some of dwords 11 to 15 of a command that uses none of them is not zero (R400). -/
def tailBad (d : Dw) : Bool := d.d11 != 0 || d.d12 != 0 || d.d13 != 0 || d.d14 != 0 || d.d15 != 0

/-- Bits [hi:lo] of a command dword. -/
def dwB (v : BitVec 32) (hi lo : Nat) : Nat := bitsOf v hi lo

end Sys2Proof.Machine
end

