-- ==== Sys2Proof/Machine/Program.lean ====
section
/-! DEFINITION. Program slots and Execute Program (02, R40, R41, R47 to R59, R77, R78, R82; 12, R412, R413; 10,
R350). -/

namespace Sys2Proof.Machine

/-! ## Image checks -/

/-- A section of an image: its offset and size (R47, R48). -/
abbrev Sect := Nat × Nat

/-- The three sections: code, constants, descriptors (R47). -/
def sectsOf (b : Bytes) : List Sect :=
  [(fieldAt b 0x10 4, fieldAt b 0x14 4), (fieldAt b 0x18 4, fieldAt b 0x1C 4), (fieldAt b 0x20 4, 32 * fieldAt b 0x24 1)]

/-- Whether two sections overlap; an empty one overlaps nothing (R48). -/
def sectsMeet (a b : Sect) : Bool :=
  a.2 != 0 && b.2 != 0 && decide (a.1 < b.1 + b.2) && decide (b.1 < a.1 + a.2)

/-- Whether a section lies inside the image, beyond the header (R48). -/
def sectInside (n : Nat) (a : Sect) : Bool := a.2 == 0 || (decide (128 ≤ a.1) && decide (a.1 + a.2 ≤ n))

/-- `MAGIC`, `VERSION` and `HDRSIZE` (R47). -/
def imgFormatOk (b : Bytes) : Bool := fieldAt b 0 4 == 0x44524C43 && fieldAt b 4 2 == 1 && fieldAt b 6 2 == 0x80

/-- Reserved header fields and codes (R47, R77 check 5). DESIGN CHOICE: `NAME` may hold any bytes, since R77 names no check of
its ASCII and padding (assumption 29). -/
def imgReservedOk (b : Bytes) : Bool :=
  decide (fieldAt b 0x0A 2 < 8) && decide (fieldAt b 0x40 2 < 32) && decide (fieldAt b 0x42 1 < 2) && zeroAt b 0x43 1 && zeroAt b 0x58 36

/-- Section layout and the bounds of R77 check 6. -/
def imgLayoutOk (b : Bytes) : Bool :=
  let l := sectsOf b
  fieldAt b 0x10 4 % 16 == 0 && fieldAt b 0x14 4 % 16 == 0 && decide (16 ≤ fieldAt b 0x14 4) &&
  fieldAt b 0x18 4 % 64 == 0 && fieldAt b 0x20 4 % 32 == 0 && l.all (sectInside b.length) &&
  !sectsMeet (l.getD 0 (0, 0)) (l.getD 1 (0, 0)) && !sectsMeet (l.getD 0 (0, 0)) (l.getD 2 (0, 0)) &&
  !sectsMeet (l.getD 1 (0, 0)) (l.getD 2 (0, 0)) && decide (fieldAt b 0x0C 4 < fieldAt b 0x14 4 / 16) &&
  decide (fieldAt b 0x24 1 ≤ 32) && decide (fieldAt b 0x25 1 ≤ 14) && decide (1 ≤ fieldAt b 0x26 1 ∧ fieldAt b 0x26 1 ≤ 12) &&
  decide (fieldAt b 0x27 1 ≤ 32) && fieldAt b 0x30 8 % Config.pageBytes == 0 && fieldAt b 0x38 8 % Config.pageBytes == 0

/-- Descriptor `i` of an image, all zero beyond `DESC_COUNT` (R42, R47). -/
def imgDesc (b : Bytes) (i : Nat) : BitVec 256 :=
  if i < fieldAt b 0x24 1 then BitVec.ofNat 256 (fieldAt b (fieldAt b 0x20 4 + 32 * i) 32) else 0

/-- Whether a format permits a block-scale mode (R58). -/
def smodeOk (f : Fmt) (m : Nat) : Bool :=
  m == 0 || (m == 2 && fmtIsInt f) || (m == 1 && (f == .e2m1 || f == .e4m3 || f == .e5m2))

/-- The bound of a space that is checked at load (R57). -/
def loadBound (b : Bytes) : Space → Option Nat
  | .buf => some Config.bufBytes
  | .acc => some Config.accBytes
  | .const => some (fieldAt b 0x1C 4)
  | .workn => some (fieldAt b 0x30 8)
  | .workf => some (fieldAt b 0x38 8)
  | _ => none

/-- Whether a descriptor passes R54 to R59. -/
def descOk (b : Bytes) (v : BitVec 256) : Bool :=
  match descOf v with
  | none => false
  | some d =>
    d.base % 16 == 0 && bitsOf v 63 62 == 0 && d.soff % 16 == 0 && (d.smode != 0 || d.soff == 0) && smodeOk d.fmt d.smode &&
    (decide (2 ≤ d.rank) || (bitsOf v 167 144 == 0 && bitsOf v 223 208 == 0)) &&
    (decide (3 ≤ d.rank) || (bitsOf v 191 168 == 0 && bitsOf v 239 224 == 0)) &&
    (decide (4 ≤ d.rank) || (bitsOf v 207 192 == 0 && bitsOf v 255 240 == 0)) &&
    match loadBound b d.space with
    | some n => decide (d.fin ≤ n)
    | none => true

/-- The first descriptor that fails, in table order (R77 check 7). -/
def badDesc (b : Bytes) : Option Nat := (List.range (fieldAt b 0x24 1)).find? fun i => !descOk b (imgDesc b i)

/-- Whether some context is bound to a slot (R78). -/
def slotBound (s : State) (k : SlotId) : Bool := allCtx.any fun c => (s.ctx c).st != .free && (s.ctx c).slot == k

/-- The first of the checks of R77 that an image fails, with completion dword 0. -/
def imgFault (s : State) (k : SlotId) (b : Bytes) : Option (Status × BitVec 32) :=
  if b.length < 128 ∨ 16777216 < b.length then some (.imageSize, 0)
  else if !imgFormatOk b then some (.imageFormat, 0)
  else if fieldAt b 0x7C 4 ≠ crc32 (zero4 b 0x7C) then some (.imageCrc, 0)
  else if fieldAt b 0x08 2 ≠ 1 then some (.imageGeneration, 0)
  else if !imgReservedOk b then some (.imageReserved, 0)
  else if !imgLayoutOk b then some (.imageLayout, 0)
  else
    match badDesc b with
    | some i => some (.imageDescriptor, BitVec.ofNat 32 i)
    | none => if (s.slot k).active || slotBound s k then some (.sequence, 0) else none

/-! ## Load Program -/

/-- The staging buffer of a slot emptied (R412). -/
def dropStaging (s : State) (k : SlotId) : State := s.setSlot k { s.slot k with stg := [], stgTotal := 0 }

/-- A piece in order is stored; the last one brings the checks of R77 (R412). -/
def loadPiece (s : State) (h : Hdr) (k : SlotId) (off total : Nat) (piece : Bytes) : State :=
  let sl := s.slot k
  if off ≠ sl.stg.length ∨ total < off + piece.length ∨ (sl.stg ≠ [] ∧ total ≠ sl.stgTotal) then
    completeSt (dropStaging s k) h .invalidField
  else
    let img := sl.stg ++ piece
    if img.length = total then
      let s1 := dropStaging s k
      match imgFault s k img with
      | some f => complete s1 h f.1 f.2 0 []
      | none => completeSt (s1.setSlot k { s1.slot k with img := img, loaded := true }) h .success
    else completeSt (s.setSlot k { sl with stg := img, stgTotal := total }) h .success

/-- LOAD_PROGRAM (R77, R412). -/
def execLoadProgram (h : Hdr) (ptype : BitVec 8) (slot : SlotId) (off total : BitVec 32) (piece : Bytes) (s : State) : Res :=
  hostCmd s h .prog (.loadProgram h ptype slot off total piece) fun s =>
    if ptype ≠ 0x80 ∨ 1048576 < piece.length then completeSt s h .invalidField
    else loadPiece s h slot off.toNat total.toNat piece

/-! ## Activation -/

/-- Pages that hold `n` bytes. -/
def pagesFor (n : Nat) : Nat := ceilDiv n Config.pageBytes

/-- PROGRAM_ACTIVATE: the constants are copied into their tier (R53, R78, R262, R264, R289). It waits while the copy can get no
frame (R266, R267). -/
def execProgramActivate (h : Hdr) (slot : SlotId) (s : State) : Res :=
  hostCmd s h .prog (.programActivate h slot) fun s =>
    let k := s.slot slot
    let n := constSize k
    if !k.loaded || k.active then completeSt s h .sequence
    else
      match allocRun s (fieldAt k.img 0x42 1 == 0) (pagesFor n) (.consts slot) false with
      | none => completeSt s h .noMemory
      | some r =>
        match touchRanges r.1 [(r.2, r.2 + n)] with
        | none => park s (.programActivate h slot)
        | some s1 =>
          let s2 := { s1 with tiers := { s1.tiers with mem := memOver s1.tiers.mem r.2 (bytesAt k.img (fieldAt k.img 0x18 4) n) } }
          completeSt ((settleDev s2 [(r.2, r.2 + n)]).setSlot slot { k with active := true, constBase := r.2 }) h .success

/-- PROGRAM_DEACTIVATE (R78, R321). -/
def execProgramDeactivate (h : Hdr) (slot : SlotId) (s : State) : Res :=
  hostCmd s h .prog (.programDeactivate h slot) fun s =>
    let k := s.slot slot
    if !k.active || slotBound s slot then completeSt s h .sequence
    else
      let s1 := freePages s fun o => o == .consts slot
      completeSt (s1.setSlot slot { k with active := false, constBase := 0 }) h .success

/-! ## Execute Program -/

/-- The context bound to a submission queue (R41). -/
def ctxOfSq (s : State) (q : BitVec 16) : Option CtxId := allCtx.find? fun c => (s.ctx c).st != .free && (s.ctx c).sq == q

/-- The 14 parameter words of an input buffer (R413). -/
def paramWords (b : Bytes) : List (BitVec 64) := (List.range 14).map fun i => BitVec.ofNat 64 (fieldAt b (8 * i) 8)

/-- The body of a hive query: count, parameter words, input data (R334). -/
def queryBytes (count : Nat) (input : Bytes) : Bytes := toLe 8 count ++ input

/-- Whether some intake window of the drive has room for a message at `PLAN_LANES` lanes (R350). -/
def intakeRoom (s : State) (n : Nat) : Bool :=
  match s.fab.sched with
  | none => false
  | some q =>
    match ownIndex s q with
    | none => false
    | some i => (List.range q.patterns).any fun p => (q.slot p i).inLen != 0 && fitsWindow s.fab.vid n q.lanes (q.slot p i).inLen

/-- The fields of Execute Program (R413). -/
def execFieldsBad (d : Dw) (input : Bytes) : Bool :=
  let n := dwB d.d10 20 0
  let cnt := dwB d.d10 27 21
  let out := dwB d.d11 20 0
  decide (n < 112) || decide (1048576 < n) || cnt == 0 || decide (64 < cnt) || dwB d.d10 31 28 != 0 ||
  decide (1048576 < out) || dwB d.d11 31 21 != 0 || (out == 0 && (d.d14 != 0 || d.d15 != 0)) || input.length != n

/-- A step request joins a context's queue and starts if the context is Ready (R40, R84). -/
def queueStep (s : State) (c : CtxId) (r : StepReq) : State :=
  nextStep (s.setCtx c { s.ctx c with queue := (s.ctx c).queue ++ [r] }) c

/-- EXECUTE_PROGRAM (R40, R41, R82, R350, R413). -/
def execExecuteProgram (h : Hdr) (d : Dw) (input : Bytes) (s : State) : Res :=
  hostCmd s h .prog (.executeProgram h d input) fun s =>
    if execFieldsBad d input then completeSt s h .invalidField
    else
      match ctxOfSq s h.sq with
      | none => completeSt s h .sequence
      | some c =>
        let count := dwB d.d10 27 21
        if (s.ctx c).st = .faulted then completeSt s h .sequence
        else if s.fab.hive ≠ 0 ∧ s.fab.hiveCtx = some c then
          let msg := queryBytes count input
          if intakeRoom s msg.length then
            let m : HiveCmd := { sq := h.sq, cid := h.cid, round := 0, msg := msg, sent := false, outLen := dwB d.d11 20 0
                                 fetched := s.time.now, skip := false }
            { s with fab := { s.fab with cmds := s.fab.cmds ++ [m] } }
          else completeSt s h .sequence
        else
          queueStep s c { src := .host h.sq h.cid, count := BitVec.ofNat 7 count, params := paramWords input
                          hin := input.drop 112, outLen := dwB d.d11 20 0 }

end Sys2Proof.Machine
end

