-- ==== Sys2Proof/Machine/Context.lean ====
section
/-! DEFINITION. Context Management (02, R39, R42, R52, R79, R83, R84; 09, R315, R321; 12, R403, R404). -/

namespace Sys2Proof.Machine

/-- Working area sizes of a slot's image (R47). -/
def workN (k : Slot) : Nat := fieldAt k.img 0x30 8
/-- Bytes of Tier F working area of a slot's image (R47). -/
def workF (k : Slot) : Nat := fieldAt k.img 0x38 8

/-- The working area pages of a partition's contexts in one home tier (R265). -/
def partPages (s : State) (p : PartId) (f : Ctx → Nat) : Nat :=
  (allCtx.filter fun c => (s.ctx c).st != .free && (s.ctx c).part == p).foldl (fun n c => n + pagesFor (f (s.ctx c))) 0

/-- Whether a cap in pages would be exceeded; zero is no cap (R265, R297). -/
def overCap (cap : BitVec 32) (n : Nat) : Bool := cap != 0 && decide (cap.toNat < n)

/-- The lowest free context number (R404). -/
def freeCtx (s : State) : Option CtxId := allCtx.find? fun c => (s.ctx c).st == .free

/-- The context that would lose its sequencer to a creation: none needed, or a Blocked one, or a Runnable one (R315). -/
def creationVictim (s : State) : Option CtxId := (evictVictim s .blocked).or (evictVictim s .runnable)

/-- A sequencer is freed for a creation: the victim's sequencer after it is evicted (R315). -/
def takeSeq (s : State) : Option (State × Fin 16) :=
  match freeSeq s with
  | some q => some (s, q)
  | none =>
    match creationVictim s with
    | none => none
    | some c =>
      match (s.ctx c).seqr with
      | some q => some (evict s c, q)
      | none => none

/-- Set bits of a bit vector. -/
def popCount {w : Nat} (v : BitVec w) : Nat := ((List.range w).filter fun i => v.getLsbD i).length

/-- The fields of a context creation (R404). -/
def createFieldsBad (s : State) (d : Dw) : Bool :=
  let sq := dwB d.d11 15 0
  dwB d.d10 3 0 != 0 || dwB d.d10 11 4 != 0 || dwB d.d10 31 22 != 0 || dwB d.d11 31 16 != 0 || d.d15 != 0 || sq == 0 || decide (128 < sq) ||
  !sqExists s (BitVec.ofNat 16 sq) || decide (10000 < d.d12.toNat) || (dwB d.d10 21 21 == 0 && (d.d13 != 0 || d.d14 != 0))

/-- A new context on a sequencer, Ready, with an exception word of zero (R39, R42, assumption 29). -/
def newCtx (s : State) (d : Dw) (q : Fin 16) (wn wf : Nat) : Ctx :=
  let slot : SlotId := Fin.ofNat 32 (dwB d.d10 16 12)
  let k := s.slot slot
  { Ctx.free with
    st := .ready, exc := { ExcWord.clear with unit := 0 }, treg := vgen 32 (imgDesc k.img), pc := entryOf k, trapMask := BitVec.ofNat 16 (fieldAt k.img 0x40 2)
    slot := slot, part := Fin.ofNat 8 (dwB d.d10 19 17), stat := dwB d.d10 20 20 == 1, sq := BitVec.ofNat 16 (dwB d.d11 15 0)
    limit := if d.d12 = 0 then 1000 else d.d12
    seed := if dwB d.d10 21 21 = 1 then BitVec.ofNat 64 (d.d13.toNat + d.d14.toNat * 2 ^ 32) else BitVec.ofNat 64 (fieldAt k.img 0x28 8)
    wnBase := wn, wnSize := workN k, wfBase := wf, wfSize := workF k, seqr := some q }

/-- Creation with its working areas placed (R262, R264, R404): the completion reports their addresses. -/
def createOn (s : State) (h : Hdr) (d : Dw) (c : CtxId) (k : Slot) : State :=
  match allocRun s true (pagesFor (workN k)) (.workN c) false with
  | none => completeSt s h .noMemory
  | some a =>
    match allocRun a.1 false (pagesFor (workF k)) (.workF c) false with
    | none => completeSt s h .noMemory
    | some b =>
      match takeSeq b.1 with
      | none => completeSt s h .sequence
      | some t =>
        let s1 := t.1.setCtx c (newCtx t.1 d t.2 a.2 b.2)
        complete s1 h .success
          (BitVec.ofNat 32 (a.2 / 2 ^ 21 % 2 ^ 16 + c.val * 2 ^ 16 + b2n (workN k != 0) * 2 ^ 31))
          (BitVec.ofNat 32 (b.2 / 2 ^ 21 % 2 ^ 19 + b2n (workF k != 0) * 2 ^ 31)) []

/-- CONTEXT_CREATE (R39, R52, R79, R265, R315, R403, R404). -/
def execContextCreate (h : Hdr) (d : Dw) (s : State) : Res :=
  hostCmd s h .prog (.contextCreate h d) fun s =>
    let k := s.slot (Fin.ofNat 32 (dwB d.d10 16 12))
    let p : PartId := Fin.ofNat 8 (dwB d.d10 19 17)
    let pt := s.part p
    stages s h [
      (createFieldsBad s d, .invalidField),
      (!k.active || !pt.defined || (ctxOfSq s (BitVec.ofNat 16 (dwB d.d11 15 0))).isSome || (freeCtx s).isNone ||
        (takeSeq s).isNone, .sequence),
      (dwB d.d10 20 20 == 1 && (fieldAt k.img 0x0A 2).testBit 0, .invalidField),
      (decide (popCount pt.desc.clusters < fieldAt k.img 0x26 1) || decide (popCount pt.desc.foragers < fieldAt k.img 0x27 1),
        .invalidField),
      (overCap pt.desc.ncap (partPages s p (fun x => x.wnSize) + pagesFor (workN k)) ||
        overCap pt.desc.fcap (partPages s p (fun x => x.wfSize) + pagesFor (workF k)), .noMemory)] fun s1 =>
      match freeCtx s1 with
      | none => completeSt s1 h .sequence
      | some c => createOn s1 h d c k

/-- The hive-wide commands of a context's queue complete with a status, whether or not a `QUERY` has carried them. DESIGN
CHOICE: R83 states the status of queued commands, and R355 no deletion (assumption 29). -/
def dropHiveCmds (s : State) (q : BitVec 16) (st : Status) : State :=
  let mine := s.fab.cmds.filter fun m => m.sq == q
  mine.foldl (fun acc m => completeSt acc (hostHdr m.sq m.cid) st)
    { s with fab := { s.fab with cmds := s.fab.cmds.filter fun m => m.sq != q } }

/-- Deletes a context (R83, R84): the running step completes with `run` and the queued ones with `rest`, its
leases, working areas and sequencer are freed. DESIGN CHOICE: `UNIT` with cause `HOST_DELETE` is the sequencer, 0xE0, which
R69 and R83 do not say, and the output range of a command that completes with Program Faulted holds free bytes, as R81 has it
of a fault, where R83 is silent (assumption 29). DEDUCED: hive membership keeps naming the context by its number, which stands
for no context until it is created again (R448, assumption 29). -/
def deleteCtx (s : State) (c : CtxId) (run rest : Status) : State :=
  let x := s.ctx c
  let e : ExcWord := { cause := .hostDelete, unit := 0xE0, dim := 0, detail := 0 }
  let s1 := stopStep s c
  let s2 := match x.cur with
    | some r =>
      if run = .programFaulted then
        completeStep (s1.draw r.outLen) r run ((excWordBits x.flags e).truncate 32) x.pc (freeBytes s1 r.outLen)
      else completeStep s1 r run 0 0 []
    | none => s1
  let s3 := dropHiveCmds (flushQueue s2 c rest) x.sq rest
  let s4 := dropCtxLeases s3 c
  let s5 := freePages s4 fun o => o == .workN c || o == .workF c
  let s6 := s5.setCtx c Ctx.free
  let s7 := { s6 with fab := { s6.fab with slots := s6.fab.slots.filter fun m => m.ctx != c } }
  dispatch (fillSeqs s7) x.part

/-- The fields of a context deletion (R404). -/
def deleteFieldsBad (d : Dw) : Bool :=
  dwB d.d10 3 0 != 1 || dwB d.d10 31 10 != 0 || d.d11 != 0 || d.d12 != 0 || d.d13 != 0 || d.d14 != 0 || d.d15 != 0

/-- CONTEXT_DELETE (R83, R84, R404). -/
def execContextDelete (h : Hdr) (d : Dw) (s : State) : Res :=
  hostCmd s h .prog (.contextDelete h d) fun s =>
    let c : CtxId := Fin.ofNat 64 (dwB d.d10 9 4)
    stages s h [(deleteFieldsBad d, .invalidField), ((s.ctx c).st == .free, .sequence)] fun s1 =>
      completeSt (deleteCtx s1 c .programFaulted .sequence) h .success

end Sys2Proof.Machine
end

