-- ==== Sys2Proof/Machine/Firmware.lean ====
section
/-! DEFINITION. Firmware images and boot records in the boot store (14, R463, R471, R472, R474). -/

namespace Sys2Proof.Machine

/-- First byte address of a firmware slot (R463). -/
def fwBase (k : BitVec 1) : Nat := k.toNat * 0x1800000

/-- Whether bytes begin with a firmware image that passes R471. -/
def imageOk (b : Bytes) : Bool :=
  let n := fieldAt b 0x0C 4
  bytesAt b 0 4 == [0x4B, 0x46, 0x57, 0x49] && decide (64 ≤ n) && decide (n ≤ 25165824) && decide (n ≤ b.length) &&
  ((bytesAt b 4 8).all fun c => decide (c.toNat < 128)) && fieldAt b 0x10 2 == 1 && zeroAt b 0x14 40 && fieldAt b 0x3C 4 == crc32 (zero4 (b.take n) 0x3C)

/-- `COMPAT` of an image (R471). -/
def fwCompat (b : Bytes) : Nat := fieldAt b 0x12 2

/-- The image in a slot, as long as its header says (R471). -/
def slotImage (s : State) (k : BitVec 1) : Bytes :=
  let n := leNat (memGets s.bst.mem (fwBase k + 0x0C) 4)
  memGets s.bst.mem (fwBase k) (if 64 ≤ n ∧ n ≤ 25165824 then n else 64)

/-- The sectors that a range of bytes touches. -/
def sectorsOf (a n : Nat) : List Nat := (List.range (ceilDiv (a % 4096 + n) 4096)).map fun i => a / 4096 + i

/-- Whether a slot's image passes the boot ROM's checks, erase-incomplete sectors included (R472). -/
def slotOk (s : State) (k : BitVec 1) : Bool :=
  let b := slotImage s k
  imageOk b && (sectorsOf (fwBase k) (fieldAt b 0x0C 4)).all fun n => !s.bst.einc.contains n

/-- The address of boot record A (0) or B (1) (R463, R472). -/
def recBase (r : BitVec 1) : Nat := 0x3000000 + r.toNat * 4096

/-- The bytes of a boot record (R472). -/
def recBytes (gen slot : Nat) : Bytes :=
  let b := [0x4B, 0x42, 0x52, 0x44] ++ toLe 4 gen ++ toLe 1 slot
  b ++ toLe 4 (crc32 (b ++ [0, 0, 0, 0]))

/-- `BGEN` and slot of a boot record, none where it is not valid (R472). -/
def recOf (s : State) (r : BitVec 1) : Option (BitVec 32 × BitVec 1) :=
  let b := memGets s.bst.mem (recBase r) 13
  let slot := fieldAt b 8 1
  if b = recBytes (fieldAt b 4 4) slot ∧ slot < 2 ∧ s.bst.einc.contains (recBase r / 4096) = false then
    some (BitVec.ofNat 32 (fieldAt b 4 4), BitVec.ofNat 1 slot)
  else none

/-- The boot record in force with its number, none where neither is valid (R472). -/
def activeRec (s : State) : Option (BitVec 1 × BitVec 32 × BitVec 1) :=
  match recOf s 0, recOf s 1 with
  | some a, some b => if newer b.1 a.1 then some (1, b) else some (0, a)
  | some a, none => some (0, a)
  | none, some b => some (1, b)
  | none, none => none

/-- The slot that the boot records name (R472). -/
def chosenSlot (s : State) : BitVec 1 := ((activeRec s).map fun r => r.2.2).getD 0

/-- The slot that boots: the chosen one, or the other, or none (R472, R473). -/
def bootSlot (s : State) : Option (BitVec 1) :=
  let k := chosenSlot s
  if slotOk s k then some k else if slotOk s (k + 1) then some (k + 1) else none

/-- Whether a sector is protected (R469, assumption 6: the vendor area as shipped, through `protRest`). -/
def sectorProt (s : State) (n : Nat) : Bool := s.bst.prot.contains n || (s.bst.protRest && decide (0x3002 ≤ n) && decide (n < 16384))

/-- A sector after its erase: the spec does not state what it reads as (assumption 6). -/
def eraseSector (s : State) (n : Nat) : State :=
  { s with bst := { s.bst with
      mem := memOver s.bst.mem (4096 * n) ((List.range 4096).map fun i => Config.erasedByte (4096 * n + i))
      einc := s.bst.einc.filter (· != n) } }

/-- Bytes written to sectors that are erased first (R474); where one of these is protected, nothing changes (R469). -/
def writeStore (s : State) (a : Nat) (b : Bytes) : State :=
  if (sectorsOf a b.length).any (sectorProt s) then s
  else
    let s1 := (sectorsOf a b.length).foldl eraseSector s
    { s1 with bst := { s1.bst with mem := memOver s1.bst.mem a b } }

/-- The inactive boot record written for a slot, with `BGEN` one on (R474). -/
def writeRec (s : State) (k : BitVec 1) : State :=
  match activeRec s with
  | some r => writeStore s (recBase (r.1 + 1)) (recBytes ((r.2.1 + 1).toNat) k.toNat)
  | none => writeStore s (recBase 0) (recBytes 1 k.toNat)

/-- Whether a firmware slot has a protected sector (R474). -/
def slotProt (s : State) (k : BitVec 1) : Bool := s.bst.prot.any fun n => decide (fwBase k / 4096 ≤ n) && decide (n < fwBase k / 4096 + 6144)

/-! ## Commits -/

/-- What a Firmware Commit names: the slot, with 0 for the one that does not run (R463, R474). -/
def commitSlot (s : State) (d : Dw) : Option (BitVec 1) :=
  match dwB d.d10 2 0 with
  | 0 => some (if s.rst.phase = .recovery then 0 else s.fw.slot + 1)
  | 1 => some 0
  | 2 => some 1
  | _ => none

/-- The fields of a Firmware Commit beyond its slot and action (R400). -/
def commitFieldsBad (d : Dw) : Bool := dwB d.d10 31 6 != 0 || d.d11 != 0 || d.d12 != 0 || d.d13 != 0 || d.d14 != 0 || d.d15 != 0

/-- The staged image that a commit writes, cut to its length. -/
def stagedImage (s : State) : Bytes := s.fw.staged.take (fieldAt s.fw.staged 0x0C 4)

/-- The staged image checked and written to a slot, which keeps the rest of its sectors (R474). A refusal names its status. -/
def commitImage (s : State) (k : BitVec 1) : State × Option Status :=
  if s.rst.phase = .run ∧ k = s.fw.slot then (s, some .invalidFwSlot)
  else if !imageOk s.fw.staged then (s, some .invalidFwImage)
  else if slotProt s k then (s, some .fwProhibited)
  else
    let s1 := writeStore s (fwBase k) (stagedImage s)
    ({ s1 with fw := { s1.fw with staged := [] } }, none)

end Sys2Proof.Machine
end

