-- ==== Sys2Proof/Machine/Medium.lean ====
section
/-! DEFINITION. Programs on the flash medium (11, R363 to R367, R374, R376, R381 to R385): superblocks opened and
closed, the place of a page in its stripes, which copy the map names. -/

namespace Sys2Proof.Machine

/-- Whether a superblock has a block of a channel in service, or the channel has none at all (R364, R488). -/
def hasChan (s : State) (n : Nat) (ch : ChanId) : Bool := (s.fgr ch).retired || (sbChans s n).contains ch

/-- The free superblock of the SLC write region or of the data pool that is opened next, with a block of channel `ch` where one
is named: the drive chooses (assumption 15). -/
def nextSbNum (s : State) (slc : Bool) (ch : Option ChanId) : Option Nat :=
  let m := s.media
  let k := m.sbs.length + m.erases.length + m.moved.length + 1 + (if ch.isSome then 48 else 0)
  let base := (List.range k).map fun i => rankSb (if slc then (m.nextSlc + i) % 2289 else 6777 + (m.nextSb + i) % 443223)
  let more := if slc then (m.moved.filter fun p => p.2 == .slc).map fun p => p.1 else []
  (base ++ more).find? fun n =>
    regionOf s n == (if slc then .slc else .pool) && !(m.sbs.any fun b => b.num == n) &&
      !(m.erases.any fun e => sbOf e.die e.block == n) && ch.all (hasChan s n)

/-- One more erase counted for a block in a mode (R393). -/
def addWear (b : FlashBlk) (slc : Bool) : List (FlashBlk × Bool × Nat) → List (FlashBlk × Bool × Nat)
  | [] => [(b, slc, 1)]
  | w :: t => if w.1 = b ∧ w.2.1 = slc then (b, slc, w.2.2 + 1) :: t else w :: addWear b slc t

/-- The erase-incomplete blocks of a superblock, erased in full before its first program (R391). -/
def eraseInc (s : State) (num : Nat) (slc : Bool) : State :=
  let l := s.media.einc.filter fun b => sbOf b.die b.block == num
  { s with media := { s.media with einc := s.media.einc.filter (fun b => sbOf b.die b.block != num)
                                   wear := l.foldl (fun w b => addWear b slc w) s.media.wear } }

/-- A superblock taken into use, its erase-incomplete blocks erased first (R364, R384, R391). -/
def addSb (s : State) (slc : Bool) (n : Nat) : State :=
  let b : Sb := { num := n, slc := slc, closed := false, opened := s.media.order + 1, closedAt := 0, taken := [], hp := (0, 0)
                  filled := 4 }
  let s := eraseInc s n slc
  { s with media := { s.media with sbs := s.media.sbs ++ [b], order := s.media.order + 1, opened := s.media.opened + 1
                                   nextSb := if slc then s.media.nextSb else (sbRank n - 6776) % 443223
                                   nextSlc := if slc then (sbRank n + 1) % 2289 else s.media.nextSlc } }

/-- A superblock of a kind opened; `res` lets the data pool fall back on the last reserve (R366). -/
def openSb (s : State) (slc res : Bool) (ch : Option ChanId) : Option State :=
  let m := s.media
  (nextSbNum s slc ch).bind fun n =>
    if slc then
      if m.slcFree = 0 then none else some (addSb { s with media := { m with slcFree := m.slcFree - 1 } } true n)
    else if m.poolFree ≠ 0 then some (addSb { s with media := { m with poolFree := m.poolFree - 1 } } false n)
    else if res && m.resFree != 0 then some (addSb { s with media := { m with resFree := m.resFree - 1 } } false n)
    else none

/-- The open superblock of a kind is closed (R378). -/
def closeSb (s : State) (slc : Bool) : State :=
  let n := s.media.order + 1
  let l := s.media.sbs.map fun b => if b.slc = slc ∧ b.closed = false then { b with closed := true, closedAt := n } else b
  { s with media := { s.media with sbs := l, order := n } }

/-- A state whose open superblock of a kind has room. -/
def withRoom (s : State) (slc res : Bool) : Option State :=
  if openRoom s slc ≠ 0 then some s else openSb (closeSb s slc) slc res none

/-! ## Codewords and parity -/

/-- One bit step of the reflected CRC-32C (R367). -/
def crcCBit (c : Nat) : Nat := if c % 2 = 1 then (c / 2) ^^^ 0x82F63B78 else c / 2

/-- CRC-32C of a byte string (R367). -/
def crc32c (b : Bytes) : Nat :=
  b.foldl (fun c v => (List.range 8).foldl (fun u _ => crcCBit u) (c ^^^ v.toNat)) 0xFFFFFFFF ^^^ 0xFFFFFFFF

/-- A codeword with its data and its `NSID`, `LADDR` and `DSEQ` fields (R367). -/
def codewordOf (data : Bytes) (nsid laddr dseq : Nat) : Bytes :=
  let head := data ++ toLe 4 nsid ++ toLe 8 laddr ++ toLe 8 dseq
  let body := head ++ toLe 4 (crc32c head)
  body ++ (List.range 488).map (Config.ldpcByte body)

/-- The codeword of a logical block (R367). The data of an uncorrectable block is not stated. -/
def codeword (b : MBlk) : Bytes :=
  let data := match b.val with
    | .data v => v
    | .uncorrectable => (List.range 4096).map fun i => Config.freeByte (2 ^ 90 + placeKey b.place * 4096 + i)
  codewordOf data b.key.nsid.toNat (b.key.lba.toNat % 2 ^ 48 + (b.group - 1) * 2 ^ 48) b.dseq.toNat

/-- The codeword of the `k`-th block of a run, in the namespace its index had (R367). Its address in that namespace and its data
sequence number are the drive's own and not stated (assumption 2). -/
def runCodeword (r : IdxRun) (k : Nat) : Bytes :=
  let w (i : Nat) : Nat := (Config.freeWord (2 ^ 80 + placeKey (r.at k) * 2 + i)).toNat
  codewordOf (r.block k) r.nsid.toNat (w 0 % 2 ^ 48) (w 1)

/-- Byte strings joined by exclusive-or (R371). -/
def xorBytes (a b : Bytes) : Bytes := a.zipWith (· ^^^ ·) b

/-- The exclusive-or of the stored bytes of a stripe's pages, 18,432 each (R371). -/
def xorPages (l : List Bytes) : Bytes := l.foldl xorBytes (List.replicate 18432 0)

/-- The channel that carries the parity page of a stripe (R364). -/
def parityChan (s : State) (num stripe : Nat) : ChanId :=
  let l := sbChans s num
  l.getD (stripe % l.length) 0

/-- The channels that carry the data pages of a stripe, past its parity page (R364). -/
def dataChans (s : State) (num stripe : Nat) : List ChanId :=
  let l := sbChans s num
  l.eraseIdx (stripe % l.length)

/-- The stored codeword at a place: that of a logical block, be its namespace gone, or of a page of an index object (R363, R367).
What a codeword that the drive has left out holds is not stated (assumption 2). -/
def storedCodeword (s : State) (p : Place) : Bytes :=
  match (s.nvm.blocks ++ s.nvm.gone).find? fun q => q.place == p with
  | some q => codeword q
  | none =>
    match s.media.runs.find? fun r => (List.range (4 * r.stripes.length)).any fun k => r.at k == p with
    | some r => runCodeword r (4 * r.stripes.idxOf p.stripe + p.slot)
    | none => (List.range 4608).map fun i => Config.freeByte (2 ^ 80 + placeKey p * 4608 + i)

/-- The stored 18,432 bytes of a data page of a superblock: its four codewords (R363, R367). -/
def storedPage (s : State) (sb : Sb) (stripe : Nat) (n : ChanId) : Bytes :=
  (List.range 4).flatMap fun k => storedCodeword s
    { sb := sb.num, slc := sb.slc, die := dieAt n (sb.num / 9375), block := Fin.ofNat 9375 sb.num, stripe := stripe, slot := k }

/-- The parity page of a stripe (R371). -/
def parityOf (s : State) (sb : Sb) (stripe : Nat) : Bytes := xorPages ((dataChans s sb.num stripe).map (storedPage s sb stripe))

/-- A page of a stripe rebuilt from the other pages (R371): the parity page `par` and the data pages but that of channel `n`. -/
def rebuildPage (s : State) (sb : Sb) (stripe : Nat) (par : Bytes) (n : ChanId) : Bytes :=
  xorPages (par :: ((dataChans s sb.num stripe).erase n).map (storedPage s sb stripe))

/-- Whether every data page of a stripe is programmed. -/
def stripeFull (s : State) (sb : Sb) (stripe : Nat) : Bool :=
  (dataChans s sb.num stripe).all (fun n => sb.taken.contains (stripe, n)) && (sb.filled == 4 || sb.hp.1 != stripe)

/-- The parity pages of those of the given stripes of a superblock whose data pages are all programmed (R371). -/
def endStripes (s : State) (sb : Sb) (l : List Nat) : State :=
  (l.filter (stripeFull s sb)).foldl (fun st k =>
    { st with media := { st.media with parity := st.media.parity ++
      [{ sb := sb.num, stripe := k, chan := parityChan st sb.num k, bytes := parityOf st sb k }] } }) s

/-- The stripes of a superblock whose data pages are all programmed and whose parity page is not: the drive went down before (R371,
R386). -/
def owedStripes (s : State) (sb : Sb) : List Nat :=
  (sb.taken.map Prod.fst).eraseDups.filter fun k =>
    stripeFull s sb k && !(s.media.parity.any fun p => p.sb == sb.num && p.stripe == k) && !sb.taken.contains (k, parityChan s sb.num k)

/-- The codewords programmed in a superblock's data pages. -/
def codesOf (sb : Sb) : List Place :=
  sb.taken.flatMap fun p => (List.range (if sb.hp = p then sb.filled else 4)).map fun k =>
    { sb := sb.num, slc := sb.slc, die := dieAt p.2 (sb.num / 9375), block := Fin.ofNat 9375 sb.num, stripe := p.1, slot := k }

/-! ## Programs -/

/-- The `k`-th data page of a superblock, along the stripes and past the parity page of each (R364). -/
def dataPage (s : State) (sb : Sb) (k : Nat) : Nat × ChanId :=
  let w := (sbChans s sb.num).length - 1
  (k / w, (dataChans s sb.num (k / w)).getD (k % w) 0)

/-- The first data page of a superblock that nothing has been programmed in. DESIGN CHOICE: the drive takes them in this order
(assumption 15). -/
def freePage (s : State) (sb : Sb) : Nat × ChanId :=
  (((List.range (sb.taken.length + 1)).map (dataPage s sb)).find? fun p => !sb.taken.contains p).getD (0, 0)

/-- A superblock with the next logical block in hand: in its page in hand, or in a new one. -/
def nextSlot (s : State) (sb : Sb) : Sb :=
  if sb.filled < 4 then { sb with filled := sb.filled + 1 }
  else { sb with taken := freePage s sb :: sb.taken, hp := freePage s sb, filled := 1 }

/-- The place of the last logical block that a superblock has taken (R364). -/
def placeIn (sb : Sb) : Place :=
  { sb := sb.num, slc := sb.slc, die := dieAt sb.hp.2 (sb.num / 9375), block := Fin.ofNat 9375 sb.num, stripe := sb.hp.1
    slot := sb.filled - 1 }

/-- The state with a superblock in use replaced. -/
def setSb (s : State) (sb : Sb) : State :=
  { s with media := { s.media with sbs := s.media.sbs.map fun b => if b.num = sb.num then sb else b } }

/-- One logical block programmed, in the SLC write region where it has room, else in the data pool (R376), with the superblock that
took it. A page's program is one flash operation (R329). -/
def programBlk (s : State) (slc res : Bool) (key : BlkKey) (dseq : BitVec 64) (group : Nat) (v : BlkVal) : Option (State × Sb) :=
  let kind := slc && decide (slcRoom s ≠ 0)
  (withRoom s kind res).bind fun s1 =>
    (openSbOf s1 kind).map fun sb0 =>
      let sb := nextSlot s1 sb0
      let b : MBlk := { key := key, dseq := dseq, group := group, val := v, place := placeIn sb }
      let s2 := setSb (s1.tickSeqs (b2n (sb.filled == 1))) sb
      ({ s2 with nvm := { s2.nvm with blocks := b :: s2.nvm.blocks }
                 media := { s2.media with mediaWr := satAdd s2.media.mediaWr 1, journal := s2.media.journal + 1 } }, sb)

/-- One logical block programmed, and the parity page after the last page of its stripe (R371). -/
def programOne (s : State) (slc res : Bool) (key : BlkKey) (dseq : BitVec 64) (group : Nat) (v : BlkVal) : Option State :=
  (programBlk s slc res key dseq group v).map fun r => if r.2.filled = 4 then endStripes r.1 r.2 [r.2.hp.1] else r.1

/-- The channel that takes a run in a superblock: its own, or while that has no block in service the first that has (R227, R364,
R488, assumption 15). -/
def runChan (s : State) (num : Nat) (ch : ChanId) : ChanId := if (s.fgr ch).retired then (sbChans s num).headD ch else ch

/-- The stripes of the next `n` data pages of a superblock on the channel of a run, past those whose parity page the channel
holds (R364): fewer where the superblock ends before. -/
def runStripes (s : State) (sb : Sb) (ch : ChanId) (n : Nat) : List Nat :=
  let l := sbChans s sb.num
  let m := runChan s sb.num ch
  let a := (sb.taken.filter fun p => p.2 == m).foldl (fun k p => max k (p.1 + 1)) 0
  if l.contains m then
    (((List.range (2 * n + 1)).map fun k => a + k).filter fun k => l.getD (k % l.length) m != m && decide (k < sbPages sb.slc)).take n
  else []

/-- A state whose open data-pool superblock has room for a run of `n` pages. -/
def withRun (s : State) (ch : ChanId) (n : Nat) : Option State :=
  if (openSbOf s false).any fun sb => (runStripes s sb ch n).length == n then some s
  else openSb (closeSb s false) false false (some ch)

/-- A run of pages of an index object programmed in the data pool, on its channel and along successive stripes (R227, R364, R395);
none where no superblock outside the last reserve has room. -/
def programRun (s : State) (r : IdxRun) (ch : ChanId) (n : Nat) : Option State :=
  (withRun s ch n).bind fun s1 =>
    (openSbOf s1 false).map fun sb0 =>
      let l := runStripes s1 sb0 ch n
      let m := runChan s1 sb0.num ch
      let sb := { sb0 with taken := l.map (fun k => (k, m)) ++ sb0.taken }
      let pl : Place := { sb := sb.num, slc := false, die := dieAt m (sb.num / 9375), block := Fin.ofNat 9375 sb.num
                          stripe := l.headD 0, slot := 0 }
      let s2 := setSb (s1.tickSeqs l.length) sb
      endStripes { s2 with media := { s2.media with mediaWr := satAdd s2.media.mediaWr (4 * l.length)
                                                    runs := s2.media.runs ++ [{ r with stripes := l, place := pl }] } } sb l

/-- The blocks of a cached write with their keys. -/
def entBlocks (e : CEnt) : List (BlkKey × BlkVal) :=
  ((List.range e.vals.length).zip e.vals).map fun p => ({ nsid := e.nsid, lba := BitVec.ofNat 64 (e.lba + p.1) }, p.2)

/-- A cached write programmed whole; it may use the last reserve (R366, R393). -/
def programEnt (s : State) (e : CEnt) : Option State :=
  (entBlocks e).foldl (fun (acc : Option State) p => acc.bind fun st => programOne st true true p.1 e.dseq e.group p.2) (some s)

/-- Mapped blocks of a superblock. -/
def sbValid (s : State) (num : Nat) : List MBlk := s.nvm.blocks.filter fun b => b.place.sb == num && mapped s b

/-- The blocks of a list moved to the data pool, each under its own key and number (R377, R379). -/
def moveBlocks (s : State) (slc res : Bool) (l : List MBlk) : Option State :=
  l.foldl (fun (acc : Option State) b => acc.bind fun st => programOne st slc res b.key b.dseq b.group b.val) (some s)

/-- Whether a generation that can be read uses the pages of a run (R234, R378). -/
def runUsed (s : State) (r : IdxRun) : Bool :=
  let x := s.index r.idx
  !r.dead && x.live && x.gens.toList.any fun g => g.valid && g.lists.any fun l => l.cent == r.cent && l.gen == r.gen

/-- The valid pages of a superblock: those with a mapped logical block, and those that a readable index generation uses
(R378). -/
def validPages (s : State) (num : Nat) : Nat :=
  ((sbValid s num).map fun b => (b.place.die, b.place.stripe)).eraseDups.length +
  (s.media.runs.filter fun r => r.place.sb == num && runUsed s r).foldl (fun n r => n + r.stripes.length) 0

/-- A run as its relocation carries it: pages that no level reads stay unreadable (R369, R373). -/
def carriedRun (s : State) (r : IdxRun) : IdxRun :=
  { r with lost := (List.range r.stripes.length).filter fun k => runLost s r (4 * k) }

/-- Index pages moved within the data pool. -/
def moveRuns (s : State) (l : List IdxRun) : Option State :=
  l.foldl (fun (acc : Option State) r => acc.bind fun st => programRun st r (chanOf r.place.die) r.stripes.length) (some s)

/-- A superblock's pages are gone, and with them what was lost of it (R373), and the superblock is free again, to be erased
before use (R383, R388, R389). -/
def freeSb (s : State) (b : Sb) : State :=
  let here (q : FlashBlk) : Bool := sbOf q.die q.block == b.num
  { s with nvm := { s.nvm with blocks := s.nvm.blocks.filter (fun q => q.place.sb != b.num)
                               gone := s.nvm.gone.filter (fun q => q.place.sb != b.num) }
           media := { s.media with sbs := s.media.sbs.filter (fun q => q.num != b.num)
                                   runs := s.media.runs.filter (fun r => r.place.sb != b.num)
                                   parity := s.media.parity.filter (fun p => p.sb != b.num)
                                   lostBlk := s.media.lostBlk.filter (fun q => !here q)
                                   lostPg := s.media.lostPg.filter (fun q => !here q.1)
                                   reloc := s.media.reloc.filter (fun q => !here q)
                                   slcFree := s.media.slcFree + b2n b.slc
                                   resFree := s.media.resFree + b2n (!b.slc && decide (s.media.resFree < 8))
                                   poolFree := s.media.poolFree + b2n (!b.slc && decide (8 ≤ s.media.resFree)) } }

/-- The data pool's spare after `n` of its blocks have left service, with the warnings of R392. -/
def loseSpare (s : State) (n : Nat) : State :=
  let s1 := { s with media := { s.media with spare := s.media.spare - n * Config.qlcBlockBytes } }
  let a := availSpare s
  let b := availSpare s1
  let s2 := if b < 10 ∧ 10 ≤ a then notify s1 (healthNote 2) else s1
  if b < 3 ∧ 3 ≤ a then notify s2 (healthNote 0) else s2

/-! ## The regions' capacity -/

/-- The data capacity that the drive keeps a region at (R365); the data pool has no such bound. -/
def regionMin (g : Region) : Nat :=
  match g with
  | .slc => 726620160000
  | .swap => 1099612160000
  | .sys => 1300234240000
  | .pool => 0

/-- Data bytes of a block in the mode of a region (R363, R365). -/
def regionBlock (g : Region) : Nat :=
  match g with
  | .slc => Config.slcBlockBytes
  | .swap => Config.slcBlockBytes
  | .sys => Config.qlcBlockBytes
  | .pool => Config.qlcBlockBytes

/-- The data capacity of a region (R365); that of the data pool is held as its spare. -/
def regionCap (s : State) (g : Region) : Nat :=
  match g with
  | .slc => s.media.slcCap
  | .swap => s.media.swapCap
  | .sys => s.media.sysCap
  | .pool => 0

/-- The state with the data capacity of a region set. -/
def setCap (s : State) (g : Region) (n : Nat) : State :=
  match g with
  | .slc => { s with media := { s.media with slcCap := n } }
  | .swap => { s with media := { s.media with swapCap := n } }
  | .sys => { s with media := { s.media with sysCap := n } }
  | .pool => s

/-- Data-pool superblocks given to a region until it has its capacity again, at most `n`, while some are free (R365). -/
def keepCap (g : Region) : Nat → State → State
  | 0, s => s
  | n + 1, s =>
    if regionMin g ≤ regionCap s g ∨ s.media.poolFree = 0 then s
    else
      match nextSbNum s false none with
      | none => s
      | some k =>
        let p := (sbChans s k).length - 1
        let s1 := { s with media := { s.media with moved := s.media.moved ++ [(k, g)], poolFree := s.media.poolFree - 1
                                                   slcFree := s.media.slcFree + b2n (g == .slc) } }
        keepCap g n (setCap (loseSpare s1 p) g (regionCap s g + p * regionBlock g))

/-- Every region brought to its capacity as far as the data pool has free superblocks (R365). -/
def keepCaps (s : State) : State := keepCap .sys 64 (keepCap .swap 64 (keepCap .slc 64 s))

/-- `n` blocks of a region have left service (R365, R366). -/
def loseCap (s : State) (g : Region) (n : Nat) : State :=
  if g = .pool then loseSpare s n else keepCap g 64 (setCap s g (regionCap s g - n * regionBlock g))

/-- The open superblock takes no more programs when it is one that `f` picks. -/
def shut (s : State) (f : Sb → Bool) : State :=
  let close (st : State) (slc : Bool) : State := if (openSbOf st slc).elim false f then closeSb st slc else st
  close (close s true) false

/-- A block leaves service, and the stripes of its superblock get no further page (R364 to R366, R374, R396 class 7). -/
def retireBlock (s : State) (b : FlashBlk) : State :=
  if s.media.retBlk.contains b || s.media.dieRet.contains b.die then s
  else
    let s := shut s fun q => q.num == sbOf b.die b.block
    let s1 := { s with media := { s.media with retBlk := s.media.retBlk ++ [b], blkRet := s.media.blkRet + 1 } }
    loseCap (countErr s1 7 1) (regionOf s (sbOf b.die b.block)) 1

/-! ## The brood mirror -/

/-- The codewords that the mirror of an index's brood entries takes. DESIGN CHOICE: its entries are as long as in Tier F, packed
(R247, R253, assumption 15). -/
def mirrorLen (x : Idx) (lo hi : Nat) : Nat :=
  ceilDiv ((x.brood.filter fun e => decide (lo < e.seq.toNat) && decide (e.seq.toNat ≤ hi)).length * (32 + 2 * x.dim.toNat)) 4096

/-- The SLC superblocks that the mirror needs for the entries it holds (R253, R376). -/
def mirrorNeed (s : State) : Nat :=
  ceilDiv (allIdx.foldl (fun n i => let x := s.index i; n + (if x.live then mirrorLen x 0 x.durable.toNat else 0)) 0) 77500

/-- The mirror's superblocks brought to what it needs: it takes any free superblock of the SLC write region, its 64 first, and
gives back what it no longer uses (R376). -/
def fitMirror (s : State) : State :=
  let m := s.media
  let n := mirrorNeed s
  let take := min (n - m.mirSb) (m.mirFree + m.slcFree)
  let give := m.mirSb - n
  let own := min give (64 - m.mirFree)
  { s with media := { m with mirSb := m.mirSb + take - give, mirFree := m.mirFree - take + own
                             slcFree := m.slcFree - (take - m.mirFree) + (give - own) } }

end Sys2Proof.Machine
end

