-- ==== Sys2Proof/Machine/Health.lean ====
section
/-! DEFINITION. What the drive reports of itself: temperatures (13, R440), critical warnings (11, R387, R392 to
R394; 14, R456; 15, R491), the log pages (11, R395 to R397; 12, R415, R416; 05, R193; 15, R492, R493) and the
notifications that wait for them. -/

namespace Sys2Proof.Machine

/-! ## Temperatures -/

/-- The sensors of a history group (R432). -/
def groupSens (g : Nat) : List (Fin 96) :=
  let run (a n : Nat) : List (Fin 96) := (List.range n).map fun i => Fin.ofNat 96 (a + i)
  match g with
  | 0 => run 57 32
  | 1 => run 40 2
  | 2 => run 24 12
  | 3 => run 44 2
  | 4 => run 46 4
  | 5 => run 50 7
  | 6 => run 89 1
  | 7 => run 90 1
  | _ => []

/-- A sensor. -/
def sensor (s : State) (i : Fin 96) : Sensor := s.tel.sens[i]

/-- The valid readings of a group in 1/16 °C. -/
def groupReads (s : State) (g : Nat) : List Int :=
  ((groupSens g).filter fun i => (sensor s i).valid).map fun i => (sensor s i).value.toInt

/-- The highest of a list of readings. -/
def highest : List Int → Option Int
  | [] => none
  | a :: t => some ((highest t).elim a fun b => max a b)

/-- 1/16 °C in kelvin, rounded with ties away from zero (R440). -/
def kelvin (v : Int) : Nat := ((v * 100 + 437040 + 800) / 1600).toNat

/-- Composite Temperature (0) and Temperature Sensors 1 to 8, where a reading is valid (R440). -/
def tempK (s : State) (i : Nat) : Option Nat := (highest (groupReads s (i - 1))).map kelvin

/-- Critical warning bit 1: some temperature is at or beyond a threshold of the feature (R440). -/
def tempWarn (s : State) : Bool :=
  (List.range 9).any fun i => match tempK s i with
    | some k => decide ((s.host.overT.toList.getD i 0).toNat ≤ k) || decide (k ≤ (s.host.underT.toList.getD i 0).toNat)
    | none => false

/-! ## Warnings and wear -/

/-- The critical warning bits (R387, R392, R393, R440, R456, R491). -/
def critWarn (s : State) : Nat :=
  b2n (decide (availSpare s < 10)) + 2 * b2n (tempWarn s) + 4 * b2n (decide (availSpare s < 3) || s.tiers.stkFail) +
  8 * b2n (s.nvm.readOnly || s.rst.safe) + 16 * b2n s.media.hupFail

/-- The erase counts of the blocks in service in one mode (R393). -/
def wearOf (s : State) (slc : Bool) : List Nat :=
  (s.media.wear.filter fun w => w.2.1 == slc && !s.media.retBlk.contains w.1 && !s.media.dieRet.contains w.1.die).map fun w => w.2.2

/-- Whether blocks of a region are in SLC mode (R365). -/
def Region.isSlc (g : Region) : Bool := g == .slc || g == .swap

/-- Blocks of the SLC write and swap regions in service: those retired, alone or with their die, are not (R363 to R365). -/
def slcBlocks (s : State) : Nat :=
  let pos (d : Fin 1536) : Nat := d.val % 48
  32 * (5753 + (s.media.moved.filter fun p => p.2.isSlc).length)
    - s.media.dieRet.foldl (fun n d => n + regionAt s (pos d) .slc + regionAt s (pos d) .swap) 0
    - (s.media.retBlk.filter fun b => !s.media.dieRet.contains b.die && (regionOf s (sbOf b.die b.block)).isSlc).length

/-- Blocks in service in one mode, of the drive's 1,536 dies of 9,375 (R363, R365). -/
def modeBlocks (s : State) (slc : Bool) : Nat := if slc then slcBlocks s else 14400000 - s.media.blkRet - slcBlocks s

/-- The mean erase count of a mode, Qa or Sa (R393). -/
def meanWear (s : State) (slc : Bool) : Nat := (wearOf s slc).foldl (· + ·) 0 / modeBlocks s slc

/-- The highest erase count of a mode. -/
def maxWear (s : State) (slc : Bool) : Nat := (wearOf s slc).foldl max 0

/-- A count as it stands in a field of 4 bytes that saturates (R395). -/
def sat4 (n : Nat) : Bytes := toLe 4 (min n 4294967295)

/-- Percentage Used (R393). -/
def pctUsed (s : State) : Nat := min 255 (max (100 * meanWear s false / 1500) (100 * meanWear s true / 30000))

/-- Rebuild progress while a rebuild runs: how far it has come is not stated (assumption 2). -/
def rebuildPct (s : State) : Nat := if s.media.rebuild = [] then 0 else (Config.freeWord s.free).toNat % 100 + 1

/-! ## Log pages -/

/-- Bytes of the standard's layout with the drive's fields laid over them (assumption 9). -/
def standardPage (id n : Nat) (l : List (Nat × Bytes)) : Bytes :=
  l.foldl (fun b p => b.take p.1 ++ p.2 ++ b.drop (p.1 + p.2.length)) ((List.range n).map (Config.standardByte id))

/-- Bytes of a page that is zero but for its fields. -/
def zeroPage (n : Nat) (l : List (Nat × Bytes)) : Bytes :=
  l.foldl (fun b p => b.take p.1 ++ p.2 ++ b.drop (p.1 + p.2.length)) (List.replicate n 0)

/-- The fields of the SMART/Health Information page that the drive fixes (R394, R440). -/
def smartPage (s : State) : Bytes :=
  standardPage (0x1000 + s.free) 512 (
    [(0, toLe 1 (critWarn s)), (3, toLe 1 (availSpare s)), (4, toLe 1 10), (5, toLe 1 (pctUsed s)),
     (160, toLe 16 s.media.dataErr.toNat), (192, toLe 4 (s.media.warnT / 600000)), (196, toLe 4 (s.media.critT / 600000))] ++
    ((tempK s 0).map fun k => (1, toLe 2 k)).toList ++
    (List.range 8).flatMap fun i => ((tempK s (i + 1)).map fun k => (200 + 2 * i, toLe 2 k)).toList)

/-- The Firmware Slot Information page: the running slot, the slot of the next reset, the revisions (R471, R472). -/
def fwPage (s : State) : Bytes :=
  let nxt := if chosenSlot s = s.fw.slot then 0 else (chosenSlot s).toNat + 1
  standardPage (0x2000 + s.free) 512
    [(0, toLe 1 (s.fw.slot.toNat + 1 + 16 * nxt)), (8, memGets s.bst.mem (fwBase 0 + 4) 8), (16, memGets s.bst.mem (fwBase 1 + 4) 8)]

/-- The Program Events page of a context (R76, R416). -/
def eventPage (s : State) (c : CtxId) : Bytes :=
  let x := s.ctx c
  let ent (e : Event) : Bytes :=
    toLe 2 e.code.toNat ++ toLe 2 c.val ++ toLe 4 e.pc.toNat ++ toLe 8 e.value.toNat ++ toLe 6 e.stamp.toNat ++
    toLe 2 e.seq.toNat ++ List.replicate 8 0
  zeroPage 2112 [(0, toLe 1 c.val), (4, toLe 4 x.ring.length), (8, toLe 4 x.ringOvf.toNat), (12, toLe 1 x.ringNext.toNat),
    (64, x.ring.flatMap ent)]

/-- The Ratio Monitor page of a context (R193). -/
def monPage (s : State) (c : CtxId) : Bytes :=
  let ent (e : MonEnt) : Bytes :=
    toLe 4 e.tid.toNat ++ toLe 4 e.step.toNat ++ toLe 1 e.count.toNat ++ toLe 1 e.next.toNat ++
    toLe 1 (b2n e.band + 2 * b2n e.outside) ++ [0] ++ toLe 2 e.lo.toNat ++ toLe 2 e.hi.toNat ++
    (e.ratio.toList.flatMap fun r => toLe 2 r.toNat) ++ toLe 4 e.dd.toNat ++ toLe 4 e.ww.toNat ++ List.replicate 8 0
  zeroPage 4096 [(0, (s.ctx c).mon.flatMap ent)]

/-- The drive event log page (R492, R493). -/
def logPage (s : State) : Bytes :=
  let ent (e : LogEnt) : Bytes :=
    toLe 6 e.stamp.toNat ++ toLe 2 e.seq.toNat ++ toLe 1 e.cls.toNat ++ toLe 1 e.scope.toNat ++ toLe 2 e.unit.toNat ++
    toLe 1 e.outcome.toNat ++ toLe 1 e.sup.toNat ++ toLe 2 e.epoch.toNat ++ toLe 8 e.d0.toNat ++ toLe 8 e.d1.toNat
  zeroPage 32832 [(0, toLe 4 s.log.ents.length), (4, toLe 4 s.log.ovf.toNat), (8, toLe 2 s.log.next.toNat),
    (64, s.log.ents.flatMap ent)]

/-- The Media Health page (R395 to R397). -/
def mediaPage (s : State) : Bytes :=
  let m := s.media
  zeroPage 4096 [(0, toLe 2 1), (2, toLe 1 (availSpare s)), (3, toLe 1 (pctUsed s)),
    (4, toLe 1 (b2n s.nvm.readOnly + 2 * b2n m.hupFail + 4 * b2n (decide (availSpare s < 10)) +
      8 * b2n (decide (availSpare s < 3)) + 16 * b2n (!m.rebuild.isEmpty))),
    (5, toLe 1 (rebuildPct s)), (6, toLe 2 m.dieRet.length), (8, toLe 8 m.spare), (0x10, toLe 8 Config.spare0),
    (0x18, toLe 4 m.poolFree), (0x20, toLe 8 m.blkRet), (0x28, sat4 (meanWear s false)), (0x2C, sat4 (maxWear s false)),
    (0x30, sat4 (meanWear s true)), (0x34, sat4 (maxWear s true)), (0x38, toLe 8 (min s.nvm.hostWr (2 ^ 64 - 1))), (0x40, toLe 8 m.mediaWr.toNat),
    (0x48, toLe 8 m.racked.toNat), (0x50, toLe 8 m.gcMoved.toNat), (0x60, m.err.toList.flatMap fun v => toLe 8 v.toNat),
    (0x120, m.temphist.toList.flatMap fun g => g.toList.flatMap fun v => toLe 4 v.toNat)]

/-- The bytes that a log page returns at an offset, none for a page the drive does not have (R415). The trace ring's
contents are not stated (assumption 2). -/
def pageAt (s : State) (lid : BitVec 8) (lsi : BitVec 16) (off len : Nat) : Option Bytes :=
  let cut (n : Nat) (b : Bytes) : Option Bytes :=
    if n < off then none
    else some ((List.range len).map fun i => if off + i < n then b.getD (off + i) 0 else Config.freeByte (s.free + i))
  let ofCtx (n : Nat) (f : CtxId → Bytes) : Option Bytes := if 64 ≤ lsi.toNat then none else cut n (f (Fin.ofNat 64 lsi.toNat))
  match lid.toNat with
  | 0x01 => cut 4096 (standardPage (0x3000 + s.free) 4096 [])
  | 0x02 => cut 512 (smartPage s)
  | 0x03 => cut 512 (fwPage s)
  | 0x05 => cut 4096 (standardPage (0x4000 + s.free) 4096 [])
  | 0xC0 => ofCtx 2112 (eventPage s)
  | 0xC1 => ofCtx 4096 (monPage s)
  | 0xC2 => cut 32832 (logPage s)
  | 0xC3 => if 67108864 < off then none else some (freeBytes s len)
  | 0xC8 => cut 4096 (mediaPage s)
  | _ => none

/-! ## Notifications -/

/-- The notifications that waited are posted again as far as requests and reading allow. -/
def deliver (s : State) : State := s.host.notes.foldl postNote { s with host := { s.host with notes := [] } }

/-- A log page has been read with its event retained or not. -/
def readPage (s : State) (lid : BitVec 8) (rae : Bool) : State :=
  if rae then s else deliver { s with host := { s.host with masked := s.host.masked.filter (· != lid) } }

end Sys2Proof.Machine
end

