-- ==== Sys2Proof/Machine/Nvm.lean ====
section
/-! DEFINITION. The NVM command set (12, R399, R408, R417 to R422; 11, R369, R376, R380, R382, R393; 14, R456). -/

namespace Sys2Proof.Machine

/-- A command's namespace checks: Index Namespace before all (R408), then whether the namespace can be used, then the
range (R399). -/
def nsBad (s : State) (nsid : BitVec 32) (lba n : Nat) : Option Status :=
  match findNs s nsid.toNat with
  | some x =>
    if x.index.isSome then some .indexNamespace
    else if !x.attached then some .invalidField
    else if x.size < lba + n then some .lbaRange
    else none
  | none => if nsid = 0 ∨ 66 < nsid.toNat then some .invalidNs else some .invalidField

/-- The range-lock entry of a command. -/
def newLock (h : Hdr) (nsid : BitVec 32) (lba n : Nat) (wr ord : Bool) : Lock :=
  { nsid := nsid, lba := lba, n := n, wr := wr, sq := h.sq, cid := h.cid, ctx := none, ord := ord, done := false }

/-- Whether every earlier command of a queue has completed (R421). -/
def queueQuiet (s : State) (h : Hdr) : Bool :=
  !((locksBefore (lockOf h) s.host.locks).any fun l => l.sq == h.sq && l.ctx.isNone) &&
  !(s.nvm.flushes.any fun f => f.sq == h.sq) && !(s.fab.cmds.any fun m => m.sq == h.sq) &&
  !(s.parked.any fun i => match cmdHdr i with
      | some g => g.port == .host && g.sq == h.sq && g.cid != h.cid
      | none => false) &&
  !(allCtx.any fun c => (s.ctx c).st != .free && (s.ctx c).sq == h.sq && ((s.ctx c).cur.isSome || !(s.ctx c).queue.isEmpty))

/-- A command that reads or writes logical blocks: it takes its entry, waits where R419 to R421 say so, and then
runs (R419, R420, R421). -/
def lockCmd (s : State) (h : Hdr) (i : Instr) (l : Lock) (f : State → State) : State :=
  let t := takeLock s (lockOf h) l
  if t.2 && (!l.ord || queueQuiet s h) then f t.1 else park t.1 i

/-- A command completes and frees its entry (R419). -/
def unlock (s : State) (h : Hdr) (st : Status) (data : Bytes) : State :=
  complete (freeLocks s (lockOf h)) h st 0 0 data

/-- Whether writes complete on the medium only (R387, R418, R518). -/
def forceMedium (s : State) : Bool := !s.host.vwc || s.media.hupFail || !s.media.charged

/-- The atomic group size of a write (R382). -/
def groupOf (lba n : Nat) : Nat := if n ≤ 64 ∧ lba / 64 = (lba + n - 1) / 64 then n else 1

/-- Blocks of a write command enter the cache under one `DSEQ` (R382, R417). -/
def cacheWrite (s : State) (h : Hdr) (nsid : BitVec 32) (lba : Nat) (vals : List BlkVal) (fua : Bool) : State :=
  let q := s.nvm.dseq + 1
  let wait := fua || forceMedium s
  let e : CEnt := { dseq := q, nsid := nsid, lba := lba, group := groupOf lba vals.length, vals := vals
                    wait := if wait then some (h.sq, h.cid) else none }
  let s1 := { s with nvm := { s.nvm with cache := s.nvm.cache ++ [e], dseq := q, hostWr := s.nvm.hostWr + vals.length }
                     media := { s.media with idle := false, credit := s.media.credit - vals.length } }
  if wait then s1 else unlock s1 h .success []

/-- Whether a write must wait: for room in the cache (R417), for a free superblock while there is spare, or for reclaimed space
(R380). -/
def writeWaits (s : State) (n : Nat) : Bool :=
  decide (131072 < cachedBlocks s + n) || (needsPool s n && availSpare s != 0) || creditShort s n

/-- Write protection of the whole drive: read-only operation (R393) and safe mode (R456). -/
def protected' (s : State) : Bool := s.nvm.readOnly || s.rst.safe

/-- A write command (R376, R380, R382, R393, R408, R417, R419, R456). -/
def writeCmd (s : State) (h : Hdr) (i : Instr) (nsid : BitVec 32) (lba n : Nat) (o : NvmOpt) (vals : List BlkVal) : State :=
  match nsBad s nsid lba n with
  | some st => unlock s h st []
  | none =>
    if protected' s then unlock s h .writeProtected []
    else lockCmd s h i (newLock h nsid lba n true o.ord) fun s1 =>
      if entersReadOnly s1 n then unlock (goReadOnly s1) h .writeProtected []
      else if writeWaits s1 n then park s1 i
      else cacheWrite s1 h nsid lba vals o.fua

/-- The status of a command longer than `MDTS`: Index Namespace comes before all (R399, R408). -/
def tooLong (s : State) (nsid : BitVec 32) : Status :=
  if nsBad s nsid 0 0 = some .indexNamespace then .indexNamespace else .invalidField

/-- The 4,096-byte blocks of host data. -/
def splitBlocks (n : Nat) (b : Bytes) : List BlkVal := (List.range n).map fun i => .data (bytesAt b (4096 * i) 4096)

/-- WRITE (R399, R417). -/
def execWrite (h : Hdr) (nsid : BitVec 32) (lba : BitVec 64) (nlb : BitVec 16) (o : NvmOpt) (data : Bytes) (s : State) : Res :=
  hostCmd s h .data (.write h nsid lba nlb o data) fun s =>
    let n := nlb.toNat + 1
    if 256 < n then unlock s h (tooLong s nsid) []
    else writeCmd s h (.write h nsid lba nlb o data) nsid lba.toNat n o (splitBlocks n data)

/-- WRITE_ZEROES (R399). -/
def execWriteZeroes (h : Hdr) (nsid : BitVec 32) (lba : BitVec 64) (nlb : BitVec 16) (o : NvmOpt) (s : State) : Res :=
  hostCmd s h .data (.writeZeroes h nsid lba nlb o) fun s =>
    writeCmd s h (.writeZeroes h nsid lba nlb o) nsid lba.toNat (nlb.toNat + 1) o (List.replicate (nlb.toNat + 1) zeroBlock)

/-- WRITE_UNCORRECTABLE (R399). -/
def execWriteUncorrectable (h : Hdr) (nsid : BitVec 32) (lba : BitVec 64) (nlb : BitVec 16) (o : NvmOpt) (s : State) : Res :=
  hostCmd s h .data (.writeUncorrectable h nsid lba nlb o) fun s =>
    writeCmd s h (.writeUncorrectable h nsid lba nlb o) nsid lba.toNat (nlb.toNat + 1) o
      (List.replicate (nlb.toNat + 1) .uncorrectable)

/-- The copies that a read of a range finds. -/
def readCopies (s : State) (nsid : BitVec 32) (lba n : Nat) : List Copy :=
  (List.range n).map fun i => blkCopy s { nsid := nsid, lba := BitVec.ofNat 64 (lba + i) }

/-- The codewords of a read are decoded (R329, R368, R370, R396). -/
def countRead (s : State) (l : List Copy) : State := readPlaces s (l.filterMap fun q => q.place)

/-- A command ends with Unrecovered Read Error (R369, R394). -/
def readError (s : State) (h : Hdr) : State :=
  unlock { s with media := { s.media with dataErr := satInc s.media.dataErr } } h .unrecovered []

/-- A command that reads logical blocks: `f` says what it completes with, given their data as they are once they have been read
(R368, R373). It stalls while a forager that it needs is under reset (R27). -/
def readCmd (s : State) (h : Hdr) (i : Instr) (nsid : BitVec 32) (lba n : Nat) (o : NvmOpt) (f : Bytes → Status × Bytes) : State :=
  match nsBad s nsid lba n with
  | some st => unlock s h st []
  | none =>
    lockCmd s h i (newLock h nsid lba n false o.ord) fun s1 =>
      let q := readCopies s1 nsid lba n
      let s2 := countRead s1 q
      let l := readCopies s2 nsid lba n
      if placesBusy s1 (q.filterMap fun q => q.place) then park s1 i
      else if l.any fun q => q.val == .uncorrectable then readError s2 h
      else
        let r := f (l.flatMap fun q => blkBytes q.val)
        unlock s2 h r.1 r.2

/-- READ (R369, R399, R417). -/
def execRead (h : Hdr) (nsid : BitVec 32) (lba : BitVec 64) (nlb : BitVec 16) (o : NvmOpt) (s : State) : Res :=
  hostCmd s h .data (.read h nsid lba nlb o) fun s =>
    if 255 < nlb.toNat then unlock s h (tooLong s nsid) []
    else readCmd s h (.read h nsid lba nlb o) nsid lba.toNat (nlb.toNat + 1) o fun b => (.success, b)

/-- COMPARE (R399). -/
def execCompare (h : Hdr) (nsid : BitVec 32) (lba : BitVec 64) (nlb : BitVec 16) (o : NvmOpt) (data : Bytes) (s : State) : Res :=
  hostCmd s h .data (.compare h nsid lba nlb o data) fun s =>
    if 255 < nlb.toNat then unlock s h (tooLong s nsid) []
    else readCmd s h (.compare h nsid lba nlb o data) nsid lba.toNat (nlb.toNat + 1) o fun b =>
      (if b = data then .success else .compareFailure, [])

/-! ## Dataset Management -/

/-- The fields of Dataset Management: the number of ranges and the deallocate attribute alone (R399, R400, R421). -/
def dsmFieldsBad (d : Dw) (ranges : List (BitVec 64 × BitVec 32)) : Bool :=
  dwB d.d10 31 8 != 0 || dwB d.d10 7 0 + 1 != ranges.length || dwB d.d11 31 3 != 0 || dwB d.d11 1 0 != 0 || d.d12 != 0 ||
  dwB d.d13 31 16 != 0 || dwB d.d13 14 0 != 0 || d.d14 != 0 || d.d15 != 0

/-- Ranges deallocated under one `DSEQ` (R382, R385, R399). -/
def deallocate (s : State) (nsid : BitVec 32) (l : List (BitVec 64 × BitVec 32)) : State :=
  let q := s.nvm.dseq + 1
  let new := l.map fun p => ({ nsid := nsid, lba := p.1.toNat, n := p.2.toNat, dseq := q } : Dealloc)
  { s with nvm := { s.nvm with dseq := q, dealloc := s.nvm.dealloc ++ new }
           media := { s.media with journal := s.media.journal + 1 } }

/-- DATASET_MANAGEMENT (R393, R399, R400, R408, R419, R421). -/
def execDatasetManagement (h : Hdr) (nsid : BitVec 32) (d : Dw) (ranges : List (BitVec 64 × BitVec 32)) (s : State) : Res :=
  hostCmd s h .data (.datasetManagement h nsid d ranges) fun s =>
    let k := hull ranges
    let ad := dwB d.d11 2 2 == 1
    match nsBad s nsid 0 0 with
    | some st => unlock s h st []
    | none =>
      if dsmFieldsBad d ranges then unlock s h .invalidField []
      else if (nsBad s nsid 0 k.2).isSome then unlock s h .lbaRange []
      else if ad && protected' s then unlock s h .writeProtected []
      else lockCmd s h (.datasetManagement h nsid d ranges) (newLock h nsid k.1 (k.2 - k.1) ad (dwB d.d13 15 15 == 1)) fun s1 =>
        unlock (if ad then deallocate s1 nsid ranges else s1) h .success []

/-! ## Flush and the write cache -/

/-- Whether a flush of `nsid` covers a namespace (R418). -/
def flushNames (nsid n : BitVec 32) : Bool := nsid == BitVec.allOnes 32 || n == nsid

/-- FLUSH (R408, R418, R421). -/
def execFlush (h : Hdr) (nsid : BitVec 32) (d : Dw) (s : State) : Res :=
  hostCmd s h .data (.flush h nsid d) fun s =>
    let bad := if namesIndex s h nsid then some .indexNamespace else if nsid = BitVec.allOnes 32 then none else nsBad s nsid 0 0
    match bad with
    | some st => completeSt s h st
    | none =>
      if d.d10 ≠ 0 ∨ d.d11 ≠ 0 ∨ d.d12 ≠ 0 ∨ d.d13 ≠ 0 ∨ d.d14 ≠ 0 ∨ d.d15 ≠ 0 then completeSt s h .invalidField
      else
        let need := (s.nvm.cache.filter fun e => flushNames nsid e.nsid && e.wait.isNone).map fun e => e.dseq
        if need = [] then completeSt s h .success
        else { s with nvm := { s.nvm with flushes := s.nvm.flushes ++ [{ sq := h.sq, cid := h.cid, need := need }] } }

/-- Flushes that wait for nothing more complete (R418). -/
def endFlushes (s : State) : State :=
  let ready := s.nvm.flushes.filter fun f => f.need == []
  ready.foldl (fun st f => completeSt st (hostHdr f.sq f.cid) .success)
    { s with nvm := { s.nvm with flushes := s.nvm.flushes.filter fun f => f.need != [] } }

/-- Waiting writes to a namespace end with a status; the data of the namespace is gone, though its pages stay in their stripes until
these are erased (R371, R408, R418, assumption 16). -/
def dropNs (s : State) (nsid : BitVec 32) (st : Status) : State :=
  let gone := s.nvm.cache.filter fun e => e.nsid == nsid
  let fl := s.nvm.flushes.map fun f => { f with need := f.need.filter fun q => !gone.any fun e => e.dseq == q }
  let s1 := { s with nvm := { s.nvm with
    cache := s.nvm.cache.filter (fun e => e.nsid != nsid), blocks := s.nvm.blocks.filter (fun b => b.key.nsid != nsid)
    gone := s.nvm.blocks.filter (fun b => b.key.nsid == nsid) ++ s.nvm.gone
    dealloc := s.nvm.dealloc.filter (fun e => e.nsid != nsid), flushes := fl } }
  endFlushes (gone.foldl (fun acc e => match e.wait with
    | some w => unlock acc (hostHdr w.1 w.2) st []
    | none => acc) s1)

/-- A write has reached the medium: its entry leaves the cache, and what waited for it goes on (R417, R418, R419). -/
def ackEnt (s : State) (e : CEnt) : State :=
  let fl := s.nvm.flushes.map fun f => { f with need := f.need.filter fun q => q != e.dseq }
  let s1 := { s with nvm := { s.nvm with cache := s.nvm.cache.filter (fun q => q.dseq != e.dseq), flushes := fl } }
  let s2 := match e.wait with
    | some w => unlock s1 (hostHdr w.1 w.2) .success []
    | none => s1
  endFlushes s2

/-- A normal shutdown reports completion once the cache is empty (R449). -/
def endShutdown (s : State) : State :=
  if s.host.shst = 1 ∧ s.nvm.cache = [] then { s with host := { s.host with shst := 2 } } else s

/-- WRITE_CACHE_PROGRAM_COMPLETE: a cached write is on the medium (R376, R382, R417, R418), once no forager is being reset (R27). -/
def execWriteCacheProgramComplete (dseq : BitVec 64) (s : State) : Res :=
  match s.nvm.cache.find? fun e => e.dseq == dseq with
  | none => .next s
  | some e =>
    match if flashDown s then none else programEnt s e with
    | none => .next s
    | some s1 => .next (wakeParked (endShutdown (ackEnt s1 e)))

/-- RANGE_LOCK_RELEASE: entries of completed commands are freed, and what waited is tried again (R419, R420). -/
def execRangeLockRelease (s : State) : Res :=
  let s1 := wakeParked { s with host := { s.host with locks := s.host.locks.filter fun l => !l.done } }
  .next (allCtx.foldl (fun st c => match (st.ctx c).wait with
    | .lock => unblockCtx st c
    | _ => st) s1)

end Sys2Proof.Machine
end

