-- ==== Sys2Proof/Machine/PState.lean ====
section
/-! DEFINITION. Power states (12, R425 to R428; 01, R31). -/

namespace Sys2Proof.Machine

/-- Whether no command other than an Asynchronous Event Request is outstanding, no step is queued or running, and the
drive is in no hive (R426). -/
def quiet (s : State) : Bool :=
  s.parked.isEmpty && s.ready.isEmpty && s.nvm.flushes.isEmpty && (s.nvm.cache.all fun e => e.wait.isNone) &&
  s.fab.cmds.isEmpty && s.fw.act.isNone && s.host.shst != 1 && s.fab.hive == 0 && s.fab.st == .noHive &&
  allCtx.all fun c => (s.ctx c).cur.isNone && (s.ctx c).queue.isEmpty

/-- Entry to a non-operational state that is wished for begins once R426 lets it. -/
def beginEntry (s : State) : State :=
  match s.host.wish with
  | some v => if quiet s && !asleep s then { s with host := { s.host with entry := some v, wish := none } } else s
  | none => s

/-- The power state selected by a command (R425, R426, R428). -/
def selectPs (s : State) (v : Nat) : State :=
  if v < 3 then { s with host := { s.host with ps := BitVec.ofNat 3 v, wish := none } }
  else beginEntry { s with host := { s.host with wish := some (BitVec.ofNat 3 v) } }

/-- The fabric goes down in PS4 (R31, R425). -/
def fabricDown (s : State) : State :=
  { s with fab := { s.fab with ports := vmap (fun p => { p with link := false, lanes := 0, degr := false, training := false }) s.fab.ports }
           pins := { s.pins with sending := Vector.replicate 8 false } }

/-- The fabric transmitters leave idle (R37, R444, R458), but in PS4, where the fabric is down (R31). -/
def leaveIdle (s : State) : State :=
  if s.fab.set && s.rst.trimv && s.host.ps != 4 then { s with pins := { s.pins with sending := Vector.replicate 8 true } } else s

/-- PS_ENTRY_COMPLETE: entry ends once the write cache is drained, and a command fetched meanwhile starts the return
(R426, R427). -/
def execPsEntryComplete (s : State) : Res :=
  match s.host.entry with
  | none => .next s
  | some v =>
    if !s.nvm.cache.isEmpty then .next s
    else
      let s1 := { s with host := { s.host with ps := v, entry := none, exiting := !s.parked.isEmpty } }
      .next (if v = 4 then fabricDown s1 else s1)

/-- PS_EXIT_COMPLETE: the drive is back in PS0 and runs the held commands (R427). -/
def execPsExitComplete (s : State) : Res :=
  if s.host.exiting then .next (wakeParked (leaveIdle { s with host := { s.host with ps := 0, exiting := false } })) else .next s

/-- The entry of the host's Autonomous Power State Transition table for a power state: target and idle time in ms
(R428, assumption 9). -/
def apstOf (s : State) (ps : Nat) : Nat × Nat :=
  let w := fieldAt s.host.apstTab (8 * ps) 8
  (w / 8 % 32, w / 256 % 2 ^ 24)

/-- The state that the idle time leads to: the host's table, else Idle Fallback (R428). -/
def idleTarget (s : State) : Option Nat :=
  let ps := s.host.ps.toNat
  if s.host.apst then
    let e := apstOf s ps
    if e.2 ≠ 0 ∧ 3 ≤ e.1 ∧ e.1 ≤ 4 ∧ ps < e.1 then some e.1 else none
  else if ps < 3 ∧ s.host.idle3 ≠ 0 then some 3
  else if ps < 4 ∧ s.host.idle4 ≠ 0 then some 4
  else none

/-- IDLE_FALLBACK_TIMER: the idle time expires, and entry begins (R426, R428). -/
def execIdleFallbackTimer (s : State) : Res :=
  match idleTarget s with
  | some v =>
    if quiet s && s.host.entry.isNone && !s.host.exiting && s.rst.phase == .run then
      .next { s with host := { s.host with entry := some (BitVec.ofNat 3 v), wish := none } }
    else .next s
  | none => .next s

end Sys2Proof.Machine
end

