-- ==== Sys2Proof/Machine/Admin.lean ====
section
/-! DEFINITION. The admin commands of the base specification (12, R399 to R401, R408, R415, R418, R423 to R428; 13,
R440; 14, R471 to R475; 00, R6). Layouts and field codes of the base specification are assumption 9. -/

namespace Sys2Proof.Machine

/-! ## Identify -/

/-- ASCII text padded with spaces to `n` bytes. -/
def padText (t : String) (n : Nat) : Bytes :=
  let b := t.toList.map fun c => BitVec.ofNat 8 c.toNat
  b ++ List.replicate (n - b.length) 0x20

/-- The Model Number (R6). -/
def modelNumber (s : State) : Bytes := padText (if s.otp.xcode then "KROVEND OX4915-X" else "KROVEND OX4915-C") 40

/-- Active arrays in service (R401, R487). -/
def arraysInService (s : State) : Nat := (allArr.filter fun a => (s.arr a).inserv).length

/-- The vendor-specific area of Identify Controller (R401). -/
def vendorArea (s : State) : Bytes :=
  toLe 2 1 ++ toLe 1 (b2n s.otp.xcode) ++ toLe 1 0 ++ toLe 8 s.otp.eui.toNat ++ toLe 1 12 ++ toLe 1 32 ++
  toLe 2 (arraysInService s) ++ toLe 1 32 ++ toLe 1 64 ++ toLe 1 16 ++ toLe 1 8 ++ toLe 1 64 ++ toLe 1 0x80 ++ toLe 2 1 ++
  toLe 8 137438953472 ++ toLe 8 962072674304 ++ toLe 4 s.tiers.limit ++ List.replicate 980 0

/-- A power state descriptor: maximum power in 0.01 W, operational or not, latencies in µs (R425). -/
def psDesc (mp : Nat) (op : Bool) (enlat exlat : Nat) : Bytes :=
  toLe 2 mp ++ [0, if op then 0 else 2] ++ toLe 4 enlat ++ toLe 4 exlat

/-- User capacity in blocks that no namespace holds (R2). -/
def freeBlocks (s : State) : Nat := Config.userBlocks - s.nvm.nss.foldl (fun n x => n + x.size) 0

/-- Identify Controller (R6, R399, R401, R425, R440). -/
def identifyCtrl (s : State) : Bytes :=
  standardPage (0x10000 + s.free) 4096
    [(24, modelNumber s), (77, [8]), (80, toLe 4 0x20000), (256, toLe 2 0x4E), (259, [15]), (260, [0x14]), (263, [4]), (265, [1]),
     (266, toLe 2 343), (268, toLe 2 358), (272, toLe 4 0), (280, toLe 16 (Config.userBlocks * 4096)), (296, toLe 16 (freeBlocks s * 4096)),
     (322, [0, 0]), (328, toLe 4 0), (516, toLe 4 66), (520, toLe 2 0x0F), (522, toLe 2 0), (525, [1]), (526, toLe 2 63), (528, toLe 2 63), (536, toLe 4 0),
     (2048, psDesc 24000 true 0 0), (2080, psDesc 18000 true 1000 1000), (2112, psDesc 12000 true 1000 1000),
     (2144, psDesc 2400 false 5000 10000), (2176, psDesc 900 false 30000 100000), (3072, vendorArea s)]

/-- Blocks of a namespace that are not deallocated are the drive's own count (assumption 9). -/
def identifyNs (s : State) (n : Ns) : Bytes :=
  standardPage (0x20000 + s.free) 4096
    [(0, toLe 8 n.size), (8, toLe 8 n.size), (24, [Config.standardByte (0x20000 + s.free) 24 ||| 2]), (25, [0, 0, 0, 0, 0]), (31, [0]), (33, [1]), (34, toLe 2 63), (36, toLe 2 63), (40, toLe 2 63),
     (42, toLe 2 0), (44, toLe 2 63), (48, toLe 16 (n.size * 4096)), (128, [0, 0, 12])]

/-- A list of namespace IDs above one, ascending, in 4,096 bytes. -/
def nsList (above : BitVec 32) (l : List Nat) : Bytes :=
  let m := ((sortBy id l).filter fun n => decide (above.toNat < n)).take 1024
  (m.flatMap fun n => toLe 4 n) ++ List.replicate (4096 - 4 * m.length) 0

/-- The namespaces that a command sees as active: the attached ones and 65 and 66 (R399, R412). -/
def activeNs (s : State) : List Nat := ((s.nvm.nss.filter fun n => n.attached).map fun n => n.nsid.toNat) ++ [65, 66]

/-- Identify data of a namespace: zeros for one that is not active (assumption 9). -/
def identifyOf (s : State) (nsid : BitVec 32) (allocated : Bool) : Option Bytes :=
  if nsid = 0 ∨ 66 < nsid.toNat then none
  else
    match findNs s nsid.toNat with
    | some n => some (if n.attached || allocated then identifyNs s n else List.replicate 4096 0)
    | none => some (if 65 ≤ nsid.toNat then (List.range 4096).map (Config.standardByte (0x30000 + s.free)) else List.replicate 4096 0)

/-- IDENTIFY (R399, R401, R408). -/
def execIdentify (h : Hdr) (nsid : BitVec 32) (cns : BitVec 8) (s : State) : Res :=
  hostCmd s h .info (.identify h nsid cns) fun s =>
    let one (r : Option Bytes) : State :=
      if namesIndex s h nsid then completeSt s h .indexNamespace
      else match r with
        | some b => complete s h .success 0 0 b
        | none => completeSt s h .invalidNs
    let std (k : Nat) : Bytes := (List.range 4096).map (Config.standardByte (0x40000 + k * 0x1000 + s.free))
    match cns.toNat with
    | 0x00 => one (identifyOf s nsid false)
    | 0x01 => complete s h .success 0 0 (identifyCtrl s)
    | 0x02 => complete s h .success 0 0 (nsList nsid (activeNs s))
    | 0x03 => one ((identifyOf s nsid false).map fun _ => std 3)
    | 0x05 => one ((identifyOf s nsid false).map fun _ => std 5)
    | 0x06 => complete s h .success 0 0 (std 6)
    | 0x07 => complete s h .success 0 0 (std 7)
    | 0x08 => one ((identifyOf s nsid false).map fun _ => std 8)
    | 0x10 => complete s h .success 0 0 (nsList nsid ((s.nvm.nss.map fun n => n.nsid.toNat) ++ [65, 66]))
    | 0x11 => one (identifyOf s nsid true)
    | 0x12 => complete s h .success 0 0 (std 12)
    | 0x13 => complete s h .success 0 0 (std 13)
    | 0x1C => complete s h .success 0 0 (std 28)
    | _ => completeSt s h .invalidField

/-- GET_LOG_PAGE (R394, R395, R415, R416, R440, R492), of 1 MiB at most (R399, `MDTS`). -/
def execGetLogPage (h : Hdr) (lid : BitVec 8) (lsi : BitVec 16) (rae : Bool) (off : BitVec 64) (len : BitVec 32) (s : State) : Res :=
  hostCmd s h .info (.getLogPage h lid lsi rae off len) fun s =>
    match pageAt s lid lsi off.toNat len.toNat with
    | none => completeSt s h .invalidField
    | some b =>
      if 1048576 < len.toNat then completeSt s h .invalidField
      else readPage (complete (s.draw (len.toNat + 1)) h .success 0 0 b) lid rae

/-! ## Features -/

/-- Command dwords 12 to 15 and the high bits of dword 10, reserved in a Get or Set Features (R400). -/
def featBad (d : Dw) (hi : Nat) : Bool := dwB d.d10 31 hi != 0 || d.d12 != 0 || d.d13 != 0 || d.d14 != 0 || d.d15 != 0

/-- The temperature threshold that dword 11 selects (assumption 9). -/
def threshOf (s : State) (d : Dw) (dflt : Bool) : Option Nat :=
  let i := dwB d.d11 19 16
  if 8 < i ∨ 1 < dwB d.d11 21 20 ∨ dwB d.d11 31 22 ≠ 0 then none
  else if dwB d.d11 21 20 = 0 then some (if dflt then 343 else (s.host.overT.toList.getD i 0).toNat)
  else some (if dflt then 273 else (s.host.underT.toList.getD i 0).toNat)

/-- The bits of dword 11 that the base specification reserves in the features that the spec gives no effect: Arbitration, Error
Recovery, Interrupt Coalescing, Interrupt Vector Configuration and Write Atomicity Normal (R8, R400; assumption 9). -/
def plainRsv : Nat → Option (BitVec 32)
  | 0x01 => some 0xF8
  | 0x05 => some 0xFFFE0000
  | 0x08 => some 0xFFFF0000
  | 0x09 => some 0xFFFE0000
  | 0x0A => some 0xFFFFFFFE
  | _ => none

/-- Which value of such a feature a command means: Interrupt Vector Configuration has one for each vector. -/
def plainKey (d : Dw) : Nat := dwB d.d10 7 0 + (if dwB d.d10 7 0 = 9 then 256 * dwB d.d11 15 0 else 0)

/-- Whether a command names an interrupt vector that the drive does not have (R398). -/
def vectorBad (s : State) (d : Dw) : Bool := dwB d.d10 7 0 == 9 && decide (s.host.pcie.vectors ≤ dwB d.d11 15 0)

/-- The value of such a feature: what the host has set last, else zero beside the vector's number (R8; assumption 9). -/
def plainValue (s : State) (d : Dw) (dflt : Bool) : Nat :=
  let base := if dwB d.d10 7 0 = 9 then dwB d.d11 15 0 else 0
  if dflt then base else ((s.host.feats.find? fun p => p.1 == plainKey d).map fun p => p.2.toNat).getD base

/-- The present or default value of a feature, with its data (R8, R399, R418, R425, R428, R440). -/
def featValue (s : State) (d : Dw) (dflt : Bool) : Option (Nat × Bytes) :=
  let own (v w : Nat) : Option (Nat × Bytes) := some (if dflt then w else v, [])
  match dwB d.d10 7 0 with
  | 0x02 => own s.host.ps.toNat 0
  | 0x04 => (threshOf s d dflt).map fun k => (k, [])
  | 0x06 => own (b2n s.host.vwc) 1
  | 0x07 => own 0x007F007F 0x007F007F
  | 0x0B => own s.host.aecfg.toNat (2 ^ 32 - 1)
  | 0x0C => some (if dflt then 0 else b2n s.host.apst, if dflt then List.replicate 256 0 else bytesAt s.host.apstTab 0 256)
  | 0xD0 => own s.tel.written.toNat 0
  | 0xD4 => own (s.host.idle3.toNat + s.host.idle4.toNat * 65536) (60 + 600 * 65536)
  | f => if (plainRsv f).isNone || vectorBad s d then none else some (plainValue s d dflt, [])

/-- Whether dword 11 of a Get Features holds more than the choice of a temperature threshold or of an interrupt vector. -/
def getBad (d : Dw) : Bool :=
  match dwB d.d10 7 0 with
  | 0x04 => false
  | 0x09 => dwB d.d11 31 16 != 0
  | _ => d.d11 != 0

/-- GET_FEATURES (R400, R428). `SEL` 3 reports a feature that can be changed and not saved (assumption 9). -/
def execGetFeatures (h : Hdr) (d : Dw) (s : State) : Res :=
  hostCmd s h .info (.getFeatures h d) fun s =>
    let sel := dwB d.d10 10 8
    match featValue s d (sel != 0) with
    | none => completeSt s h .invalidField
    | some v =>
      if featBad d 11 || decide (4 ≤ sel) || getBad d then completeSt s h .invalidField
      else if sel = 3 then complete s h .success 4 0 []
      else complete (s.draw 1) h .success (BitVec.ofNat 32 v.1) 0 v.2

/-- Whether a Set Features carries a reserved bit or asks for a save, which is not supported (R400). -/
def setBad (d : Dw) : Bool := featBad d 8

/-- Number of Queues: 128 of each kind are allocated whatever is asked for, before any I/O queue is created (R399,
assumption 9). -/
def setQueues (s : State) (h : Hdr) (d : Dw) : State :=
  if dwB d.d11 15 0 = 0xFFFF ∨ dwB d.d11 31 16 = 0xFFFF then completeSt s h .invalidField
  else if !(s.host.sqs.isEmpty && s.host.cqs.isEmpty) then completeSt s h .sequence
  else complete s h .success 0x007F007F 0 []

/-- A Set Features whose feature has no row of its own. The base specification's features that R8 brings with it and that the
spec does not describe hold their values and do nothing else here (assumption 9); any other identifier, one of Flexible Data Placement too, is not
supported (R4, R400). -/
def setOther (s : State) (h : Hdr) (d : Dw) : State :=
  match dwB d.d10 7 0 with
  | 0x07 => setQueues s h d
  | 0x0B => completeSt { s with host := { s.host with aecfg := d.d11 } } h .success
  | f =>
    match plainRsv f with
    | none => completeSt s h .invalidField
    | some r =>
      if d.d11 &&& r ≠ 0 ∨ vectorBad s d = true then completeSt s h .invalidField
      else completeSt { s with host := { s.host with
        feats := s.host.feats.filter (fun p => p.1 != plainKey d) ++ [(plainKey d, d.d11)] } } h .success

/-- SET_FEATURES_POWER_MANAGEMENT (R425, R426). The row stands for every Set Features whose feature has none (R4, R400). -/
def execSetFeaturesPowerManagement (h : Hdr) (d : Dw) (s : State) : Res :=
  hostCmd s h .queues (.setFeaturesPowerManagement h d) fun s =>
    let v := dwB d.d11 4 0
    if setBad d then completeSt s h .invalidField
    else if dwB d.d10 7 0 ≠ 2 then setOther s h d
    else if decide (4 < v) || dwB d.d11 31 8 != 0 then completeSt s h .invalidField
    else selectPs (completeSt s h .success) v

/-- The stored form of a power limit (R428). -/
def storedLimit (v : Nat) : BitVec 16 := BitVec.ofNat 16 (if v = 0 then 0 else if v < 304 then 304 else min v 1920)

/-- SET_FEATURES_POWER_LIMIT (R428, R437). -/
def execSetFeaturesPowerLimit (h : Hdr) (d : Dw) (s : State) : Res :=
  hostCmd s h .power (.setFeaturesPowerLimit h d) fun s =>
    if setBad d || dwB d.d11 31 16 != 0 then completeSt s h .invalidField
    else completeSt { s with tel := { s.tel with written := storedLimit (dwB d.d11 15 0) } } h .success

/-- SET_FEATURES_IDLE_FALLBACK (R428). -/
def execSetFeaturesIdleFallback (h : Hdr) (d : Dw) (s : State) : Res :=
  hostCmd s h .queues (.setFeaturesIdleFallback h d) fun s =>
    if setBad d then completeSt s h .invalidField
    else completeSt { s with host := { s.host with
      idle3 := BitVec.ofNat 16 (dwB d.d11 15 0), idle4 := BitVec.ofNat 16 (dwB d.d11 31 16) } } h .success

/-- The reserved bits of the 32 entries of an autonomous transition table: 2:0 and 63:32 of each (R400; assumption 9). -/
def apstBad (table : Bytes) : Bool :=
  (List.range 32).any fun k => fieldAt table (8 * k) 8 % 8 != 0 || fieldAt table (8 * k + 4) 4 != 0

/-- SET_FEATURES_AUTONOMOUS_PST (R400, R428). -/
def execSetFeaturesAutonomousPst (h : Hdr) (d : Dw) (table : Bytes) (s : State) : Res :=
  hostCmd s h .queues (.setFeaturesAutonomousPst h d table) fun s =>
    if setBad d || dwB d.d11 31 1 != 0 || apstBad table then completeSt s h .invalidField
    else completeSt { s with host := { s.host with apst := dwB d.d11 0 0 == 1, apstTab := table } } h .success

/-- SET_FEATURES_VOLATILE_WRITE_CACHE (R418). -/
def execSetFeaturesVolatileWriteCache (h : Hdr) (d : Dw) (s : State) : Res :=
  hostCmd s h .queues (.setFeaturesVolatileWriteCache h d) fun s =>
    if setBad d || dwB d.d11 31 1 != 0 then completeSt s h .invalidField
    else completeSt { s with host := { s.host with vwc := dwB d.d11 0 0 == 1 } } h .success

/-- A threshold set for one temperature, or for all of them (R440, assumption 9). -/
def setThresh (v : Vector (BitVec 16) 9) (i : Nat) (k : BitVec 16) : Vector (BitVec 16) 9 :=
  vgen 9 fun j => if i = 15 ∨ j = i then k else v.toList.getD j 0

/-- SET_FEATURES_TEMPERATURE_THRESHOLD (R440). -/
def execSetFeaturesTemperatureThreshold (h : Hdr) (d : Dw) (s : State) : Res :=
  hostCmd s h .queues (.setFeaturesTemperatureThreshold h d) fun s =>
    let i := dwB d.d11 19 16
    let k := BitVec.ofNat 16 (dwB d.d11 15 0)
    if setBad d || dwB d.d11 31 22 != 0 || decide (1 < dwB d.d11 21 20) || (decide (8 < i) && i != 15) then completeSt s h .invalidField
    else if dwB d.d11 21 20 = 0 then completeSt { s with host := { s.host with overT := setThresh s.host.overT i k } } h .success
    else completeSt { s with host := { s.host with underT := setThresh s.host.underT i k } } h .success

/-! ## Namespaces -/

/-- The lowest namespace ID from 1 to 64 that is not in use (R399). -/
def freeNsid (s : State) : Option Nat := ((List.range 64).map (· + 1)).find? fun n => (findNs s n).isNone

/-- A namespace created over unallocated capacity (R2, R399, R412). Behind the two sizes the structure holds reserved bytes and
options that the drive does not have (R14, R399, R400, assumption 9). -/
def createNs (s : State) (h : Hdr) (data : Bytes) : State :=
  let size := fieldAt data 0 8
  if size = 0 ∨ fieldAt data 8 8 ≠ size ∨ (data.drop 16).any (· != 0) = true then completeSt s h .invalidField
  else if freeBlocks s < size then completeSt s h .nsCapacity
  else
    match freeNsid s with
    | none => completeSt s h .nsUnavailable
    | some n =>
      let x : Ns := { nsid := BitVec.ofNat 32 n, size := size, attached := false, index := none, residue := none }
      complete { s with nvm := { s.nvm with nss := s.nvm.nss ++ [x] }
                        media := { s.media with journal := s.media.journal + 1 } } h .success (BitVec.ofNat 32 n) 0 []

/-- A namespace, or all of them, deleted (R399). -/
def deleteNs (s : State) (h : Hdr) (nsid : BitVec 32) : State :=
  let mine := s.nvm.nss.filter fun n => n.nsid == nsid || nsid == BitVec.allOnes 32
  if mine = [] ∧ nsid ≠ BitVec.allOnes 32 then completeSt s h (if nsid = 0 ∨ 66 < nsid.toNat then .invalidNs else .invalidField)
  else
    let s1 := mine.foldl (fun st n => dropNs st n.nsid .invalidNs) s
    completeSt { s1 with nvm := { s1.nvm with nss := s1.nvm.nss.filter fun n => n.nsid != nsid && nsid != BitVec.allOnes 32 }
                         media := { s1.media with journal := s1.media.journal + 1 } } h .success

/-- NAMESPACE_MANAGEMENT (R399, R408). -/
def execNamespaceManagement (h : Hdr) (nsid : BitVec 32) (d : Dw) (data : Bytes) (s : State) : Res :=
  hostCmd s h .queues (.namespaceManagement h nsid d data) fun s =>
    let sel := dwB d.d10 3 0
    if sel = 1 ∧ namesIndex s h nsid = true then completeSt s h .indexNamespace
    else if decide (1 < sel) || dwB d.d10 31 4 != 0 || d.d11 != 0 || d.d12 != 0 || d.d13 != 0 || d.d14 != 0 || d.d15 != 0 ||
        (sel == 0 && nsid != 0) then completeSt s h .invalidField
    else if sel = 0 then createNs s h data
    else deleteNs s h nsid

/-- NAMESPACE_ATTACHMENT (R399, R408). -/
def execNamespaceAttachment (h : Hdr) (nsid : BitVec 32) (d : Dw) (s : State) : Res :=
  hostCmd s h .queues (.namespaceAttachment h nsid d) fun s =>
    let sel := dwB d.d10 3 0
    if namesIndex s h nsid then completeSt s h .indexNamespace
    else if decide (1 < sel) || dwB d.d10 31 4 != 0 || d.d11 != 0 || d.d12 != 0 || d.d13 != 0 || d.d14 != 0 || d.d15 != 0 then
      completeSt s h .invalidField
    else
      match findNs s nsid.toNat with
      | none => completeSt s h (if nsid = 0 ∨ 66 < nsid.toNat then .invalidNs else .invalidField)
      | some n =>
        if sel = 0 ∧ n.attached = true then completeSt s h .nsAttached
        else if sel = 1 ∧ n.attached = false then completeSt s h .nsNotAttached
        else
          let l : List Ns := s.nvm.nss.map fun x => (if x.nsid = nsid then { x with attached := sel == 0 } else x)
          completeSt { s with nvm := { s.nvm with nss := l } } h .success

/-- The blocks of a formatted namespace hold what the spec does not state (assumption 2). -/
def formatOne (s : State) (n : Ns) : State :=
  let s1 := dropNs s n.nsid .success
  let l : List Ns := s1.nvm.nss.map fun x => (if x.nsid = n.nsid then { x with residue := some s1.free } else x)
  { s1 with nvm := { s1.nvm with nss := l } }.draw (n.size * 4096)

/-- FORMAT_NVM (R399, R400, R408); safe mode refuses writes of every kind (R456). -/
def execFormatNvm (h : Hdr) (nsid : BitVec 32) (d : Dw) (s : State) : Res :=
  hostCmd s h .queues (.formatNvm h nsid d) fun s =>
    if namesIndex s h nsid then completeSt s h .indexNamespace
    else if dwB d.d10 8 0 != 0 || decide (1 < dwB d.d10 11 9) || dwB d.d10 31 12 != 0 || d.d11 != 0 || d.d12 != 0 || d.d13 != 0 ||
        d.d14 != 0 || d.d15 != 0 then completeSt s h .invalidField
    else
      let mine := s.nvm.nss.filter fun n => n.nsid == nsid || nsid == BitVec.allOnes 32
      if mine = [] ∧ nsid ≠ BitVec.allOnes 32 then completeSt s h (if nsid = 0 ∨ 66 < nsid.toNat then .invalidNs else .invalidField)
      else if s.rst.safe then completeSt s h .writeProtected
      else completeSt (mine.foldl formatOne s) h .success

/-! ## Firmware -/

/-- FIRMWARE_IMAGE_DOWNLOAD: a piece of an image is staged; bytes between pieces are not stated (R474). -/
def execFirmwareImageDownload (h : Hdr) (d : Dw) (data : Bytes) (s : State) : Res :=
  hostCmd s h .firmware (.firmwareImageDownload h d data) fun s =>
    let n := (d.d10.toNat + 1) * 4
    let off := d.d11.toNat * 4
    if n ≠ data.length ∨ 25165824 < off + n ∨ d.d12 ≠ 0 ∨ d.d13 ≠ 0 ∨ d.d14 ≠ 0 ∨ d.d15 ≠ 0 then completeSt s h .invalidField
    else
      let old := s.fw.staged
      let gap := off - old.length
      let img := old.take off ++ freeBytes s gap ++ data ++ old.drop (off + n)
      completeSt { s.draw gap with fw := { s.fw with staged := img } } h .success

end Sys2Proof.Machine
end

