-- ==== Sys2Proof/Machine/Partition.lean ====
section
/-! DEFINITION. Partition Management (09, R297 to R299, R316, R320, R321; 12, R403, R405). -/

namespace Sys2Proof.Machine

/-- A regulator of a descriptor (R297). -/
def regAt (b : Bytes) (o : Nat) : Reg := { rate := BitVec.ofNat 32 (fieldAt b o 4), burst := BitVec.ofNat 32 (fieldAt b (o + 4) 4) }

/-- A partition descriptor read from its bytes; a slice of 0 selects 2,000 µs (R297). -/
def partDescOf (b : Bytes) : PartDesc :=
  { clusters := BitVec.ofNat 12 (fieldAt b 2 2), foragers := BitVec.ofNat 32 (fieldAt b 4 4)
    slice := if fieldAt b 8 4 = 0 then 2000 else BitVec.ofNat 32 (fieldAt b 8 4)
    stackMask := BitVec.ofNat 4 (fieldAt b 0x0C 1), ncap := BitVec.ofNat 32 (fieldAt b 0x10 4)
    fcap := BitVec.ofNat 32 (fieldAt b 0x14 4), regN := regAt b 0x18, regF := regAt b 0x20, regFl := regAt b 0x28, regX := regAt b 0x30 }

/-- The burst of a regulator in bytes (R316). -/
def burstBytes (r : Reg) : Nat := min (max r.burst.toNat 64) 1048576 * 1024

/-- The operation dword and the partition number (R297, R405). -/
def partHeadBad (d : Dw) (b : Bytes) (op : Nat) : Bool := dwB d.d10 3 0 != op || dwB d.d10 31 4 != 0 || tailBad d || decide (8 ≤ fieldAt b 0 1) || b.length != 64

/-- The field checks of a descriptor (R297). -/
def partFieldsBad (b : Bytes) : Bool :=
  let sl := fieldAt b 8 4
  fieldAt b 1 1 != 0 || fieldAt b 2 2 == 0 || decide (4096 ≤ fieldAt b 2 2) || (sl != 0 && decide (sl < 500)) || decide (100000 < sl) ||
  decide (16 ≤ fieldAt b 0x0C 1) || !zeroAt b 0x0D 3 || !zeroAt b 0x38 8

/-- Whether a cluster or forager named belongs to another partition (R298). -/
def partClash (s : State) (p : PartId) (d : PartDesc) : Bool :=
  allPart.any fun q => q != p && (s.part q).defined &&
    ((s.part q).desc.clusters &&& d.clusters != 0 || (s.part q).desc.foragers &&& d.foragers != 0)

/-- Whether contexts are bound to a partition. -/
def partBound (s : State) (p : PartId) : Bool := allCtx.any fun c => (s.ctx c).st != .free && (s.ctx c).part == p

/-- A partition set up from a descriptor, with full buckets (assumption 13). -/
def partNew (d : PartDesc) : Part :=
  { Part.undef with defined := true, desc := d, tokens := vgen 4 fun i => ((burstBytes ((regsOf d).getD i ⟨0, 0⟩) * 1000 : Nat) : Int) }

/-- The partition number of a descriptor. -/
def partNo (b : Bytes) : PartId := Fin.ofNat 8 (fieldAt b 0 1)

/-- PARTITION_DEFINE (R297, R298, R321). -/
def execPartitionDefine (h : Hdr) (d : Dw) (desc : Bytes) (s : State) : Res :=
  hostCmd s h .prog (.partitionDefine h d desc) fun s =>
    let p := partNo desc
    let x := partDescOf desc
    stages s h [(partHeadBad d desc 0 || partFieldsBad desc, .invalidField), ((s.part p).defined || partClash s p x, .sequence)] fun s1 =>
      completeSt (s1.setPart p (partNew x)) h .success

/-- PARTITION_CHANGE (R297, R321). A number that is not defined, or a unit of another partition, is an invalid
field (assumption 13). -/
def execPartitionChange (h : Hdr) (d : Dw) (desc : Bytes) (s : State) : Res :=
  hostCmd s h .prog (.partitionChange h d desc) fun s =>
    let p := partNo desc
    let x := partDescOf desc
    stages s h [(partHeadBad d desc 1 || partFieldsBad desc || !(s.part p).defined || partClash s p x, .invalidField),
      (partBound s p, .sequence)] fun s1 =>
      completeSt (s1.setPart p { s1.part p with desc := x, tokens := (partNew x).tokens }) h .success

/-- PARTITION_DELETE (R297, R321, R405). -/
def execPartitionDelete (h : Hdr) (d : Dw) (desc : Bytes) (s : State) : Res :=
  hostCmd s h .prog (.partitionDelete h d desc) fun s =>
    let p := partNo desc
    stages s h [(partHeadBad d desc 2 || !zeroAt desc 1 63 || !(s.part p).defined, .invalidField), (partBound s p, .sequence)] fun s1 =>
      completeSt (s1.setPart p .undef) h .success

/-- The SRAM words of the foragers that a partition owns are written by their block reset (R27, R289). -/
def resetForagers (s : State) (p : PartId) : State :=
  { s with tiers := { s.tiers with
      sramPoison := s.tiers.sramPoison.filter fun q =>
        match q with
        | .forager n _ => !ownsForager s p n
        | _ => true } }

/-- The arrays and foragers of a partition after their block reset, and its save areas at zero (R27, R289, R320). Its
foragers hold no work once the contexts are gone. -/
def resetUnits (s : State) (p : PartId) : State :=
  let arrs := partArrs s p
  let s1 := arrs.foldl (fun st a =>
    let o := saveAddr st a
    { st with tiers := { st.tiers with mem := memZero st.tiers.mem o (o + saveBytes) } }) (clearArrays s p)
  let s2 := settleDev (resetForagers s1 p) (saveRanges s p)
  arrs.foldl (fun st a => st.setArr a { st.arr a with exc := .clear }) s2

/-- PARTITION_RESET (R320, R321). -/
def execPartitionReset (h : Hdr) (d : Dw) (desc : Bytes) (s : State) : Res :=
  hostCmd s h .prog (.partitionReset h d desc) fun s =>
    let p := partNo desc
    stages s h [(partHeadBad d desc 3 || !zeroAt desc 1 63, .invalidField), (!(s.part p).defined || !partBound s p, .sequence)] fun s1 =>
      let s2 := allCtx.foldl (fun st c =>
        if (st.ctx c).st ≠ .free ∧ (st.ctx c).part = p then deleteCtx st c .programFaulted .sequence else st) s1
      let s3 := s2.setPart p { s2.part p with holder := none, parked := none, sw := .idle, scans := [] }
      completeSt (resetUnits s3 p) h .success

end Sys2Proof.Machine
end

