-- ==== Sys2Proof/Machine/Index.lean ====
section
/-! DEFINITION. Index Management and brood merges (07, R222 to R232, R234, R247 to R256; 12, R403, R406 to R408). -/

namespace Sys2Proof.Machine

/-! ## Fields of the descriptor -/

/-- An unsigned field of an Index Management descriptor (R406). -/
def ixF (b : Bytes) (o n : Nat) : Nat := fieldAt b o n

/-- The fields of R406 as (offset, size) with the operations that use them as a bit mask. -/
def ixFields : List (Nat × Nat × Nat) :=
  [(0x01, 1, 1), (0x02, 1, 1), (0x03, 1, 1), (0x04, 2, 1), (0x06, 1, 1), (0x07, 1, 0x21), (0x08, 4, 1), (0x0C, 4, 1),
   (0x10, 4, 1), (0x14, 4, 1), (0x18, 4, 1), (0x1C, 4, 5), (0x20, 1, 0xD), (0x21, 1, 0xD), (0x22, 1, 5), (0x23, 1, 0),
   (0x24, 4, 4), (0x28, 8, 0xD), (0x30, 4, 9), (0x34, 4, 9), (0x38, 8, 0)]

/-- Whether the operation, the index number or an unused field is wrong (R406). -/
def ixHeadBad (d : Dw) (b : Bytes) (op : Nat) : Bool :=
  dwB d.d10 3 0 != op || dwB d.d10 31 4 != 0 || tailBad d || b.length != 64 || decide (64 ≤ ixF b 0 1) ||
    ixFields.any fun f => !f.2.2.testBit op && !zeroAt b f.1 f.2.1

/-- The index number of a descriptor. -/
def ixNo (b : Bytes) : IdxId := Fin.ofNat 64 (ixF b 0 1)

/-- The context whose working area holds a source. -/
def ixCtx (s : State) (b : Bytes) : Ctx := s.ctx (Fin.ofNat 64 (ixF b 0x20 1))

/-- Device address and size of the working area that holds a source (R406). -/
def srcArea (s : State) (b : Bytes) : Nat × Nat :=
  let x := ixCtx s b
  if ixF b 0x21 1 = 0 then (x.wnBase, x.wnSize) else (x.wfBase, x.wfSize)

/-- Whether a command waits for its source: the working area's context has a step in progress (R271), or a tier controller takes no new
request (R27). -/
def srcBusy (s : State) (b : Bytes) : Bool :=
  (ixCtx s b).cur.isSome || rangeBusy s ((srcArea s b).1, (srcArea s b).1 + (srcArea s b).2)

/-- The source fields that create and the stagings share. -/
def srcFieldsBad (b : Bytes) : Bool := decide (64 ≤ ixF b 0x20 1) || decide (2 ≤ ixF b 0x21 1) || ixF b 0x28 8 % 64 != 0

/-- The fields of a creation (R223, R406, R407). -/
def createIxBad (s : State) (b : Bytes) : Bool :=
  let dim := ixF b 0x04 2
  let w := ixF b 0x06 1
  let cf := ixF b 0x02 1
  decide (3 ≤ ixF b 0x01 1) || !(cf == 0 || cf == 2 || cf == 5) || !(ixF b 0x03 1 == 2 || ixF b 0x03 1 == 7) ||
  dim % 32 != 0 || decide (dim < 32) || decide (4096 < dim) || w % 8 != 0 || decide (w < 8) || decide (64 < w) ||
  decide (50 < ixF b 0x07 1) || ixF b 0x08 4 == 0 || ixF b 0x0C 4 == 0 || decide (16777216 < ixF b 0x0C 4) ||
  ixF b 0x10 4 == 0 || decide (4194304 < ixF b 0x10 4) || ixF b 0x14 4 == 0 || decide (ixF b 0x10 4 < ixF b 0x14 4) ||
  ixF b 0x1C 4 == 0 || decide (ixF b 0x0C 4 < ixF b 0x1C 4) || srcFieldsBad b || decide (2 ≤ ixF b 0x22 1) ||
  decide (0xFFFFFFFE < ixF b 0x30 4 + ixF b 0x34 4) ||
  match findNs s (ixF b 0x18 4) with
  | some n => !n.attached || n.index.isSome || n.nsid == 0 || decide (64 < n.nsid.toNat)
  | none => true

/-! ## Sources -/

/-- Bytes of a list scale (R228). -/
def lscaleBytes (x : Idx) : Nat := if x.codeFmt = 5 then 1 else 4

/-- The sizes of the parts of a centroid source (R407). -/
def srcParts (x : Idx) (ncent nret : Nat) (lsc : Bool) (attrs : Nat) : List Nat :=
  let dim := x.dim.toNat
  [ncent * dim * centElem x, if x.centFmt = 7 then 0 else ncent * (dim / 32) * 4, ncent * 256, nret * 16,
   if lsc then ncent * (dim / 32) * lscaleBytes x else 0, attrs * x.attrWidth.toNat]

/-- The offsets of parts that each start at the next multiple of 64 bytes. -/
def partOffs : Nat → List Nat → List Nat
  | _, [] => []
  | o, n :: t => roundUp o 64 :: partOffs (roundUp o 64 + n) t

/-- The end of the last part that holds bytes. -/
def partsEnd (o : Nat) (l : List Nat) : Nat := ((partOffs o l).zip l).foldl (fun e p => if p.2 = 0 then e else p.1 + p.2) o

/-- Rows of `n` bytes from device memory. -/
def rowsAt (m : Mem) (a n rows : Nat) : List Bytes := (List.range rows).map fun i => memGets m (a + i * n) n

/-- Words of `w` bytes of a byte string. -/
def wordsOf (b : Bytes) (w n : Nat) : List Nat := (List.range n).map fun i => fieldAt b (i * w) w

/-- A centroid source read from a working area (R407). -/
def readStage (s : State) (x : Idx) (a off ncent nret : Nat) (lsc : Bool) : Stage :=
  let dim := x.dim.toNat
  let o := partOffs off (srcParts x ncent nret lsc 0)
  let part (i : Nat) : Nat := a + o.getD i 0
  { ncent := ncent
    cents := rowsAt s.tiers.mem (part 0) (dim * centElem x) ncent
    cscales := if x.centFmt = 7 then [] else
      (rowsAt s.tiers.mem (part 1) (dim / 32 * 4) ncent).map fun r => (wordsOf r 4 (dim / 32)).map (BitVec.ofNat 32)
    graph := (rowsAt s.tiers.mem (part 2) 256 ncent).map fun r => (wordsOf r 8 32).map (BitVec.ofNat 64)
    ret := (rowsAt s.tiers.mem (part 3) 16 nret).map fun r => (BitVec.ofNat 64 (fieldAt r 0 8), BitVec.ofNat 64 (fieldAt r 8 8))
    lscales := if lsc then
      some ((rowsAt s.tiers.mem (part 4) (dim / 32 * lscaleBytes x) ncent).map fun r =>
        (wordsOf r (lscaleBytes x) (dim / 32)).map (BitVec.ofNat 32)) else none
    only := false }

/-- Attribute rows as stagings, by handle (R407). -/
def readAttrs (s : State) (x : Idx) (a first count : Nat) : List (Nat × Bytes) :=
  (List.range count).map fun i => (first + i, memGets s.tiers.mem (a + i * x.attrWidth.toNat) x.attrWidth.toNat)

/-- Rows laid over rows, the later taking the place of the earlier (R407). -/
def overRows (old new : List (Nat × Bytes)) : List (Nat × Bytes) :=
  new.foldl (fun l p => l.filter (fun q => q.1 != p.1) ++ [p]) old

/-! ## Banks -/

/-- A centroid bank written from rows and scales (R225). -/
def putBank (s : State) (x : Idx) (g : Gen) (cents : List Bytes) (scales : List (List (BitVec 32))) : State :=
  let n := x.dim.toNat * centElem x
  let m1 := ((List.range cents.length).zip cents).foldl (fun m p => memOver m (g.centAddr.toNat + p.1 * n) p.2) s.tiers.mem
  let m2 := ((List.range scales.length).zip scales).foldl (fun m p =>
    memOver m (g.centAddr.toNat + centSoffOf x + p.1 * (x.dim.toNat / 32) * 4) (p.2.flatMap fun v => toLe 4 v.toNat)) m1
  { s with tiers := { s.tiers with mem := m2 } }

/-- A graph bank written from rows of IDs (R225). -/
def putGraph (s : State) (g : Gen) (rows : List (List (BitVec 64))) : State :=
  let m' := ((List.range rows.length).zip rows).foldl (fun m p =>
    memOver m (g.graphAddr.toNat + p.1 * 256) (p.2.flatMap fun v => toLe 8 v.toNat)) s.tiers.mem
  { s with tiers := { s.tiers with mem := m' } }

/-- A forward table written to its memory (R226). -/
def putFwd (s : State) (a : Nat) (l : List (BitVec 64 × BitVec 64)) : State :=
  { s with tiers := { s.tiers with mem := memOver s.tiers.mem a (l.flatMap fun p => toLe 8 p.1.toNat ++ toLe 8 p.2.toNat) } }

/-- Attribute rows written to the table (R230). -/
def putAttrs (s : State) (x : Idx) (l : List (Nat × Bytes)) : State :=
  let m' := l.foldl (fun m p => memOver m (x.attrAddr.toNat + p.1 * x.attrWidth.toNat) p.2) s.tiers.mem
  { s with tiers := { s.tiers with mem := m' } }

/-- The device ranges of a generation's objects in Tier N: `ncent` rows of its banks and its forward table (R225, R226). -/
def genRanges (x : Idx) (g : Gen) (ncent nfwd : Nat) : List Range :=
  let n := x.dim.toNat * centElem x
  let b := g.centAddr.toNat + centSoffOf x
  [(g.centAddr.toNat, g.centAddr.toNat + ncent * n), (b, b + (if x.centFmt = 7 then 0 else ncent * (x.dim.toNat / 32) * 4)),
   (g.graphAddr.toNat, g.graphAddr.toNat + ncent * 256), (g.fwdAddr.toNat, g.fwdAddr.toNat + nfwd * 16)]

/-- The device ranges of attribute rows (R230). -/
def rowRanges (x : Idx) (l : List (Nat × Bytes)) : List Range :=
  l.map fun p => (x.attrAddr.toNat + p.1 * x.attrWidth.toNat, x.attrAddr.toNat + (p.1 + 1) * x.attrWidth.toNat)

/-! ## Creation and deletion -/

/-- Runs of pages allocated one after another for an index: each as (Tier N, pages, pinned) (R264, R268). -/
def allocIdx (i : IdxId) : List (Bool × Nat × Bool) → State → Option (State × List Nat)
  | [], s => some (s, [])
  | r :: t, s =>
    match allocRun s r.1 r.2.1 (.index i) r.2.2 with
    | none => none
    | some a => (allocIdx i t a.1).map fun b => (b.1, a.2 :: b.2)

/-- The objects of an index: two centroid banks, two graph banks, two forward tables, the attribute table and the
brood list (07, R225, R230, R247). -/
def idxObjects (x : Idx) : List (Bool × Nat × Bool) :=
  let cb := pagesFor (centBankBytes x)
  let gb := pagesFor (x.ncentCap.toNat * 256)
  let fb := pagesFor (x.ncentCap.toNat * 16)
  [(true, cb, true), (true, cb, true), (true, gb, true), (true, gb, true), (true, fb, true), (true, fb, true),
   (false, pagesFor (x.attrRows.toNat * x.attrWidth.toNat), false),
   (false, pagesFor (x.broodCap.toNat * (32 + 2 * x.dim.toNat)), false)]

/-- The header that a creation descriptor gives, before its objects are placed (R223). -/
def idxOf (b : Bytes) : Idx :=
  { Idx.none with
    live := true, metric := BitVec.ofNat 8 (ixF b 0x01 1), codeFmt := BitVec.ofNat 8 (ixF b 0x02 1)
    centFmt := BitVec.ofNat 8 (ixF b 0x03 1), dim := BitVec.ofNat 16 (ixF b 0x04 2), attrWidth := BitVec.ofNat 8 (ixF b 0x06 1)
    share := if ixF b 0x07 1 = 0 then 10 else BitVec.ofNat 8 (ixF b 0x07 1), chanMask := BitVec.ofNat 32 (ixF b 0x08 4)
    ncentCap := BitVec.ofNat 32 (ixF b 0x0C 4), broodCap := BitVec.ofNat 32 (ixF b 0x10 4)
    broodThresh := BitVec.ofNat 32 (ixF b 0x14 4), nsid := BitVec.ofNat 32 (ixF b 0x18 4)
    attrRows := BitVec.ofNat 32 (ixF b 0x30 4 + ixF b 0x34 4) }

/-- The record of generation r with its bank addresses (R225). -/
def bankGen (x : Idx) (cent graph : Nat) : Gen :=
  { Gen.empty with centAddr := BitVec.ofNat 64 cent, graphAddr := BitVec.ofNat 64 graph
                   centSoff := BitVec.ofNat 32 (centSoffOf x) }

/-- A namespace marked as holding an index, or freed of one. -/
def markNs (s : State) (nsid : BitVec 32) (i : Option IdxId) (res : Option Nat) : State :=
  { s with nvm := { s.nvm with nss := s.nvm.nss.map fun n => if n.nsid = nsid then { n with index := i, residue := res } else n } }

/-- Generation 1 formed from the source, with empty lists (R407). What the namespace held is gone, and a write to it that still
waits for the medium ends as any command that names it from now on (R408, assumption 16). -/
def createIdx (s : State) (b : Bytes) (x : Idx) (i : IdxId) : Option State :=
  let a := srcArea s b
  let off := ixF b 0x28 8
  let st := readStage s x a.1 off (ixF b 0x1C 4) 0 (ixF b 0x22 1 == 1)
  let parts := srcParts x (ixF b 0x1C 4) 0 (ixF b 0x22 1 == 1) (ixF b 0x34 4)
  let attrs := readAttrs s x (a.1 + (partOffs off parts).getD 5 0) (ixF b 0x30 4) (ixF b 0x34 4)
  match allocIdx i (idxObjects x) s with
  | none => none
  | some r =>
    let at' (k : Nat) : Nat := r.2.getD k 0
    let g0 := { bankGen x (at' 0) (at' 2) with
      gen := 1, ncent := BitVec.ofNat 32 (ixF b 0x1C 4), fwdAddr := BitVec.ofNat 64 (at' 4), valid := true
      attrs := attrs, arows := x.attrRows, chans := x.chanMask }
    let x' := { x with
      gens := Vector.replicate 2 (bankGen x (at' 1) (at' 3)) |>.set 0 g0, attrAddr := BitVec.ofNat 64 (at' 6)
      attrCap := pagesFor (x.attrRows.toNat * x.attrWidth.toNat), fwd2 := BitVec.ofNat 64 (at' 5), broodAddr := BitVec.ofNat 64 (at' 7)
      stage := if ixF b 0x22 1 = 1 then some { st with only := true } else none }
    let s1 := putAttrs (putGraph (putBank r.1 x' g0 st.cents st.cscales) g0 st.graph) x' attrs
    some (markNs (dropNs (s1.setIndex i x') x.nsid .indexNamespace) x.nsid (some i) none)

/-- The device ranges that the creation of an index has written. -/
def madeRanges (s : State) (i : IdxId) : List Range :=
  let x := s.index i
  let g := x.gens[x.cur]
  genRanges x g g.ncent.toNat 0 ++ rowRanges x g.attrs

/-- INDEX_CREATE (R223, R264, R321, R406, R407). It waits for its source (R27, R271), and while what it reads or writes can get no frame
(R266, R267). -/
def execIndexCreate (h : Hdr) (d : Dw) (desc : Bytes) (s : State) : Res :=
  hostCmd s h .prog (.indexCreate h d desc) fun s =>
    let i := ixNo desc
    let x := idxOf desc
    let a := srcArea s desc
    let stop := partsEnd (ixF desc 0x28 8) (srcParts x (ixF desc 0x1C 4) 0 (ixF desc 0x22 1 == 1) (ixF desc 0x34 4))
    stages s h [(ixHeadBad d desc 0 || createIxBad s desc || decide (a.2 < stop), .invalidField),
      ((s.index i).live, .sequence), (s.nvm.readOnly, .writeProtected)] fun s1 =>
      if entersReadOnly s1 1 then completeSt (goReadOnly s1) h .writeProtected
      else if srcBusy s1 desc then park s1 (.indexCreate h d desc)
      else
        match touchRanges s1 [(a.1 + ixF desc 0x28 8, a.1 + stop)] with
        | none => park s1 (.indexCreate h d desc)
        | some s2 =>
          match createIdx s2 desc x i with
          | none => completeSt s1 h .noMemory
          | some s3 =>
            match touchRanges s3 (madeRanges s3 i) with
            | none => park s1 (.indexCreate h d desc)
            | some s4 => completeSt (settleDev s4 (madeRanges s4 i)) h .success

/-- Whether a step holds a view on an index (R233). -/
def idxHeld (s : State) (i : IdxId) : Bool := allCtx.any fun c => (s.ctx c).views.any fun v => v.idx == i

/-- INDEX_DELETE (R321, R406, R408). Its pages stay in their stripes until these are erased, of use to no index (R371, R378). What the
namespace then holds is not stated (assumption 2). -/
def execIndexDelete (h : Hdr) (d : Dw) (desc : Bytes) (s : State) : Res :=
  hostCmd s h .prog (.indexDelete h d desc) fun s =>
    let i := ixNo desc
    let x := s.index i
    stages s h [(ixHeadBad d desc 1, .invalidField), (!x.live || idxHeld s i, .sequence)] fun s1 =>
      let dead (r : IdxRun) : IdxRun := if r.idx = i then { r with dead := true } else r
      let s2 := freePages { s1 with media := { s1.media with runs := s1.media.runs.map dead } } fun o => o == .index i
      let s3 := markNs (s2.setIndex i Idx.none) x.nsid none (some s2.free)
      let s4 := s3.draw (((findNs s2 x.nsid.toNat).map fun n => n.size).getD 0 * 4096)
      completeSt { fitMirror s4 with mergeQ := s4.mergeQ.filter (· != i)
                                     merge := match s4.merge with
                                       | some m => if m.idx = i then none else some m
                                       | none => none } h .success

/-! ## Stagings -/

/-- Whether the retirement pairs of a source fail their checks (R407). -/
def retBad (ncent : Nat) (l : List (BitVec 64 × BitVec 64)) : Bool :=
  let rs := l.map Prod.fst
  l.any (fun p => decide (ncent ≤ p.1.toNat) || decide (ncent ≤ p.2.toNat) || p.1 == p.2 || rs.contains p.2) ||
    rs.eraseDups.length != rs.length

/-- INDEX_STAGE_CENTROIDS (R407). It waits for its source (R27, R271), and while that can get no frame (R266, R267). -/
def execIndexStageCentroids (h : Hdr) (d : Dw) (desc : Bytes) (s : State) : Res :=
  hostCmd s h .prog (.indexStageCentroids h d desc) fun s =>
    let i := ixNo desc
    let x := s.index i
    let n := ixF desc 0x1C 4
    let nret := ixF desc 0x24 4
    let lsc := ixF desc 0x22 1 == 1
    let a := srcArea s desc
    let st := readStage s x a.1 (ixF desc 0x28 8) n nret lsc
    let long := decide (a.2 < partsEnd (ixF desc 0x28 8) (srcParts x n nret lsc 0))
    let bad := ixHeadBad d desc 2 || srcFieldsBad desc || decide (2 ≤ ixF desc 0x22 1) || n == 0 ||
      (x.live && (decide (x.ncentCap.toNat < n) || long))
    if !bad && x.live && srcBusy s desc then park s (.indexStageCentroids h d desc)
    else stages s h [(bad || (x.live && retBad n st.ret), .invalidField), (!x.live, .sequence),
      (s.nvm.readOnly, .writeProtected)] fun s1 =>
      match touchRanges s1 [(a.1 + ixF desc 0x28 8, a.1 + partsEnd (ixF desc 0x28 8) (srcParts x n nret lsc 0))] with
      | none => park s1 (.indexStageCentroids h d desc)
      | some s2 => completeSt (s2.setIndex i { s2.index i with stage := some st }) h .success

/-- Whether a run of page numbers is unallocated and below a limit. -/
def runFree (s : State) (a n hi : Nat) : Bool :=
  decide (a + n ≤ hi) && !s.tiers.pages.any fun p => decide (a ≤ p.no) && decide (p.no < a + n)

/-- Frees pages by number. -/
def freeRun (s : State) (a n : Nat) : State := freeWhere s fun p => decide (a ≤ p.no) && decide (p.no < a + n)

/-- The attribute table grown to hold more rows, in place where the addresses behind it are free, else at a new
address (R407; assumption 14). None where the pool cannot hold it. -/
def growAttrs (s : State) (i : IdxId) (rows : Nat) : Option State :=
  let x := s.index i
  let need := pagesFor (rows * x.attrWidth.toNat)
  let p0 := x.attrAddr.toNat / Config.pageBytes
  if need ≤ x.attrCap then some s
  else if x.attrCap ≠ 0 ∧ admits s (need - x.attrCap) 0 = true ∧
      runFree s (p0 + x.attrCap) (need - x.attrCap) (Config.tierXBase / Config.pageBytes) = true then
    some ((allocPages s (p0 + x.attrCap) (need - x.attrCap) (.index i) false).setIndex i { x with attrCap := need })
  else
    match allocRun s false need (.index i) false with
    | none => none
    | some r =>
      let old := memGets s.tiers.mem x.attrAddr.toNat (x.attrRows.toNat * x.attrWidth.toNat)
      let s1 := settleDev { r.1 with tiers := { r.1.tiers with mem := memOver r.1.tiers.mem r.2 old } } [(r.2, r.2 + old.length)]
      some ((freeRun s1 p0 x.attrCap).setIndex i { x with attrCap := need, attrAddr := BitVec.ofNat 64 r.2 })

/-- INDEX_STAGE_ATTRIBUTES (R407). It waits for its source (R27, R271), and while that, or a table that moved, can get no frame (R266,
R267). -/
def execIndexStageAttributes (h : Hdr) (d : Dw) (desc : Bytes) (s : State) : Res :=
  hostCmd s h .prog (.indexStageAttributes h d desc) fun s =>
    let i := ixNo desc
    let x := s.index i
    let first := ixF desc 0x30 4
    let count := ixF desc 0x34 4
    let a := srcArea s desc
    stages s h [(ixHeadBad d desc 3 || srcFieldsBad desc || decide (0xFFFFFFFE < first + count) ||
        (x.live && decide (a.2 < ixF desc 0x28 8 + count * x.attrWidth.toNat)), .invalidField), (!x.live, .sequence),
      (s.nvm.readOnly, .writeProtected)] fun s1 =>
      let rows := max x.attrRows.toNat (first + count)
      if srcBusy s1 desc then park s1 (.indexStageAttributes h d desc)
      else match growAttrs s1 i rows with
      | none => completeSt s1 h .noMemory
      | some s2 =>
        let y := s2.index i
        let o := a.1 + ixF desc 0x28 8
        let l := readAttrs s1 x o first count
        let moved := if y.attrAddr = x.attrAddr then [] else
          [(y.attrAddr.toNat, y.attrAddr.toNat + x.attrRows.toNat * x.attrWidth.toNat)]
        match touchRanges s2 ((o, o + count * x.attrWidth.toNat) :: moved) with
        | none => park s1 (.indexStageAttributes h d desc)
        | some s3 => completeSt (s3.setIndex i { y with attrRows := BitVec.ofNat 32 rows, attrStage := overRows y.attrStage l }) h .success

/-- INDEX_MERGE (R254, R406). -/
def execIndexMerge (h : Hdr) (d : Dw) (desc : Bytes) (s : State) : Res :=
  hostCmd s h .prog (.indexMerge h d desc) fun s =>
    let i := ixNo desc
    stages s h [(ixHeadBad d desc 4, .invalidField), (!(s.index i).live, .sequence), (s.nvm.readOnly, .writeProtected)] fun s1 =>
      completeSt (queueMerge s1 i) h .success

/-- INDEX_SET_SHARE (R406). -/
def execIndexSetShare (h : Hdr) (d : Dw) (desc : Bytes) (s : State) : Res :=
  hostCmd s h .prog (.indexSetShare h d desc) fun s =>
    let i := ixNo desc
    let v := ixF desc 0x07 1
    stages s h [(ixHeadBad d desc 5 || decide (50 < v), .invalidField), (!(s.index i).live, .sequence)] fun s1 =>
      completeSt (s1.setIndex i { s1.index i with share := if v = 0 then 10 else BitVec.ofNat 8 v }) h .success

/-! ## Brood merges -/

/-- BROOD_MERGE_START: the first queued merge takes its limit and the stagings made so far (R254, R255). Attribute rows
staged while it runs join them at its generation change (R407). Without main power no merge starts (R516). -/
def execBroodMergeStart (s : State) : Res :=
  match s.merge, s.mergeQ, s.nvm.readOnly with
  | none, i :: rest, false =>
    if !firmwareOn s then .next s else
    let x := s.index i
    let m : Merge := { idx := i, limit := x.head, stage := x.stage, attrs := x.attrStage, drop := x.dropChan }
    .next { s.setIndex i { x with stage := none, attrStage := [], dropChan := 0 } with mergeQ := rest, merge := some m }
  | _, _, _ => .next s

/-- A new generation while it is formed: its centroids in use, rows, graph, forward table. -/
structure Form where
  ncent : Nat
  cents : List Bytes
  scales : List (List (BitVec 32))
  graph : List (List (BitVec 64))
  fwd   : List (BitVec 64 × BitVec 64)
deriving DecidableEq, Repr

/-- An ID as a forward table writes it. -/
def idW (c : Nat) : BitVec 64 := BitVec.ofNat 64 c

/-- The mark of a free ID and of an empty graph slot (R225, R226). -/
def noneId : BitVec 64 := BitVec.allOnes 64

/-- Whether an ID is in a forward table as free. -/
def isFreeId (l : List (BitVec 64 × BitVec 64)) (c : Nat) : Bool := l.any fun p => p.1 == idW c && p.2 == noneId

/-- The centroid rows a generation holds in its bank (R225). -/
def bankRows (s : State) (x : Idx) (g : Gen) : List Bytes :=
  rowsAt s.tiers.mem g.centAddr.toNat (x.dim.toNat * centElem x) g.ncent.toNat

/-- The centroid scales a generation holds in its bank (R225). -/
def bankScales (s : State) (x : Idx) (g : Gen) : List (List (BitVec 32)) :=
  if x.centFmt = 7 then [] else
    (rowsAt s.tiers.mem (g.centAddr.toNat + centSoffOf x) (x.dim.toNat / 32 * 4) g.ncent.toNat).map fun r =>
      (wordsOf r 4 (x.dim.toNat / 32)).map (BitVec.ofNat 32)

/-- The graph rows a generation holds in its bank (R225). -/
def graphRows (s : State) (g : Gen) : List (List (BitVec 64)) :=
  (rowsAt s.tiers.mem g.graphAddr.toNat 256 g.ncent.toNat).map fun r => (wordsOf r 8 32).map (BitVec.ofNat 64)

/-- An edge of the new generation: a retired ID's becomes its survivor's, and one beyond `NCENT` empty (R226, R255). -/
def newEdge (old : List (BitVec 64 × BitVec 64)) (ncent : Nat) (v : BitVec 64) : BitVec 64 :=
  let u := match old.find? fun p => p.1 == v && p.2 != noneId with
    | some p => p.2
    | none => v
  if u ≠ noneId ∧ ncent ≤ u.toNat then noneId else u

/-- The forward table of the new generation: old entries free, revived IDs out, accepted retirements in. A pair is ignored whose retired
ID is free already, be it live again in the new generation, or whose survivor is not live there (R226, R255 item 1). -/
def newFwd (g : Gen) (st : Option Stage) (ncent : Nat) : List (BitVec 64 × BitVec 64) :=
  let revived (c : Nat) : Bool := match st with
    | some q => isFreeId g.fwd c && (q.graph.getD c []).any (· != noneId)
    | none => false
  let free := ((g.fwd.filter fun p => decide (p.1.toNat < ncent) && !revived p.1.toNat).map fun p => (p.1, noneId))
  let ok := match st with
    | some q => q.ret.filter fun p => !(g.fwd.any fun e => e.1 == p.1) && !isFreeId free p.2.toNat
    | none => []
  sortBy (fun p => p.1.toNat) (free ++ ok)

/-- The rows of the new generation (R226, R255 items 1 and 2). -/
def formRows (s : State) (x : Idx) (g : Gen) (st : Option Stage) : Form :=
  let st' := match st with
    | some q => if q.only then none else some q
    | none => none
  let ncent := (st'.map fun q => q.ncent).getD g.ncent.toNat
  let fwd := newFwd g st' ncent
  let oldC := bankRows s x g
  let oldS := bankScales s x g
  let oldG := graphRows s g
  let pick {α : Type} (staged : Stage → List α) (old : List α) (z : α) (c : Nat) : α :=
    match st' with
    | some q => if isFreeId fwd c then old.getD c z else (staged q).getD c z
    | none => old.getD c z
  let src (c : Nat) : Nat := match fwd.find? fun p => p.1 == idW c && p.2 != noneId with
    | some p => p.2.toNat
    | none => c
  let ids := List.range ncent
  { ncent := ncent
    cents := ids.map fun c => pick (fun q => q.cents) oldC [] (src c)
    scales := if x.centFmt = 7 then [] else ids.map fun c => pick (fun q => q.cscales) oldS [] (src c)
    graph := ids.map fun c =>
      if isFreeId fwd c then List.replicate 32 noneId
      else (pick (fun q => q.graph) oldG [] (src c)).map (newEdge g.fwd ncent)
    fwd := fwd }

/-- Element `k` of centroid `c` of a form, an INT8 element rounded once to binary32 (R255 item 3). -/
def formCent (x : Idx) (f : Form) (c k : Nat) : XVal × Fl :=
  let row := f.cents.getD c []
  if x.centFmt = 7 then plainVal (bareDesc .bf16 0) (fieldAt row (2 * k) 2)
  else
    let v := scaledVal (bareDesc .int8 2) (fieldAt row k 1) (((f.scales.getD c []).getD (k / 32) 0).toNat)
    (val32 (rne32 v.1).1, v.2)

/-- The live centroids of a form. -/
def formLive (f : Form) : List Nat := (List.range f.ncent).filter fun c => !f.fwd.any fun p => p.1 == idW c

/-- The nearest live centroid of a vector, ties to the lower ID (R255 item 3). -/
def nearest (x : Idx) (f : Form) (vec : Bytes) : Nat :=
  (minBy (fun c => (distOf (distance (metricOp x) x.dim.toNat 0 0 (bf16At vec) (formCent x f c)).1).toNat) (formLive f)).getD 0

/-- An entry with the list it belongs to and whether that list is written anew. -/
structure Placed where
  cent : Nat
  old  : Bool
  ent  : ListEnt
deriving DecidableEq, Repr

/-- The list that an entry of list `c` of the old generation goes to (R255 item 2). -/
def placeOld (x : Idx) (f : Form) (c : Nat) (e : ListEnt) : Placed :=
  if f.ncent ≤ c then { cent := nearest x f e.full, old := false, ent := e }
  else
    match f.fwd.find? fun p => p.1 == idW c && p.2 != noneId with
    | some p => { cent := p.2.toNat, old := false, ent := e }
    | none => { cent := c, old := true, ent := e }

/-- Every entry of the new generation in its list (R255 items 2 to 4). -/
def placeAll (x : Idx) (g : Gen) (f : Form) (brood : List BroodEnt) : List Placed :=
  (g.lists.flatMap fun l => (l.ents.filter fun e => !shadowed brood e.id).map (placeOld x f l.cent)) ++
  (liveBrood brood).map fun b =>
    { cent := nearest x f b.vec, old := false, ent := { code := [], id := b.id, handle := b.handle, full := b.vec } : Placed }

/-- The residual of an entry's element `k` from its centroid (R229). -/
def residual (x : Idx) (f : Form) (c : Nat) (e : ListEnt) (k : Nat) : XVal := (xsub (bf16At e.full k).1 (formCent x f c k).1).1

/-- Codes packed into bytes (R139). -/
def packCodes (bits : Nat) (l : List Nat) : Bytes :=
  if bits = 4 then (List.range (ceilDiv l.length 2)).map fun i => BitVec.ofNat 8 (l.getD (2 * i) 0 % 16 + l.getD (2 * i + 1) 0 % 16 * 16)
  else l.map fun v => BitVec.ofNat 8 v

/-- A list encoded with computed scales, or with staged ones (R255 item 5). -/
def encodeList (x : Idx) (f : Form) (c : Nat) (staged : Option (List (BitVec 32))) (ents : List ListEnt) : PList :=
  let d := codeDesc x
  let dim := x.dim.toNat
  let scale (b : Nat) : Nat := match staged with
    | some l => (l.getD b 0).toNat
    | none => calcScale d (ents.flatMap fun e => (List.range 32).map fun j => residual x f c e (32 * b + j))
  let scs := (List.range (dim / 32)).map scale
  { cent := c, gen := 0, scales := scs.map (BitVec.ofNat 32)
    ents := ents.map fun e => { e with
      code := packCodes (fmtBits d.fmt) ((List.range dim).map fun k => (toDesc d (scs.getD (k / 32) 0) .rne false (residual x f c e k)).1) } }

/-- The posting list of centroid `c` in the new generation: as it was where nothing about it changed (R255), and written anew with
the same codes where only the channels of its extents did (R227, R488). -/
def newList (s : State) (x : Idx) (g : Gen) (f : Form) (st : Option Stage) (all : List Placed) (mask : BitVec 32) (c : Nat) : Option PList :=
  let mine := all.filter fun p => p.cent == c
  let old := listOf g c
  let same := mine.all (fun p => p.old) && mine.length == old.ents.length &&
    decide (f.cents.getD c [] = (bankRows s x g).getD c []) && decide (f.scales.getD c [] = (bankScales s x g).getD c [])
  if mine = [] then none
  else if same then some (if mask = g.chans then old else { old with gen := g.gen + 1 })
  else
    let staged := match st with
      | some q => q.lscales.map fun l => l.getD c []
      | none => none
    some { encodeList x f c staged (mine.map fun p => p.ent) with gen := g.gen + 1 }

/-- Whether a step holds a view on a generation record (R234). -/
def recordHeld (s : State) (i : IdxId) (r : Fin 2) : Bool :=
  allCtx.any fun c => (s.ctx c).views.any fun v => v.idx == i && v.rcd == r

/-- The attribute rows that the next generation change puts in place: those staged before the merge took its stagings, and
those staged since (R407). -/
def attrDue (s : State) (m : Merge) : List (Nat × Bytes) := overRows m.attrs (s.index m.idx).attrStage

/-- The brood entries that a merge absorbs (R255). -/
def absorbed (x : Idx) (m : Merge) : List BroodEnt :=
  x.brood.filter fun e => decide (x.gens[x.cur].sbase.toNat < e.seq.toNat) && decide (e.seq.toNat ≤ m.limit.toNat)

/-- The forward table's address in the record that a merge fills (R225, R226). -/
def fwdAddrOf (x : Idx) (r : Fin 2) : BitVec 64 := if x.gens[r].fwdAddr = 0 then x.fwd2 else x.gens[r].fwdAddr

/-- The new generation stored in the non-current record (R255). -/
def formGen (s : State) (m : Merge) : State :=
  let x := s.index m.idx
  let g := x.gens[x.cur]
  let r : Fin 2 := x.cur + 1
  let old := x.gens[r]
  let f := formRows s x g m.stage
  let rows := attrDue s m
  let all := placeAll x g f (absorbed x m)
  let mask := if x.chanMask &&& ~~~m.drop = 0 then x.chanMask else x.chanMask &&& ~~~m.drop
  let fwdAddr := fwdAddrOf x r
  let g' : Gen := { old with
    gen := g.gen + 1, ncent := BitVec.ofNat 32 f.ncent, sbase := m.limit, fwdAddr := fwdAddr, valid := true, fwd := f.fwd
    lists := (formLive f).filterMap (newList s x g f m.stage all mask), attrs := overRows g.attrs rows, arows := x.attrRows, chans := mask }
  let x' := { x with gens := x.gens.set r g', cur := r, chanMask := mask, attrStage := []
                     brood := x.brood.filter fun e => decide (g.sbase.toNat < e.seq.toNat) }
  let s1 := putFwd (putGraph (putBank s x' g' f.cents f.scales) g' f.graph) fwdAddr.toNat f.fwd
  let s2 := settleDev (putAttrs s1 x' rows) (genRanges x' g' f.ncent f.fwd.length ++ rowRanges x' rows)
  s2.setIndex m.idx x'

/-- A run of a list before it is programmed: its channel, its pages and what they hold. -/
structure NewRun where
  chan  : ChanId
  pages : Nat
  bytes : Bytes
deriving DecidableEq, Repr

/-- The runs of a list: one of 16 pages for each extent (R227, R364), and those of its full vectors, packed in its order, on the
channels that follow. DESIGN CHOICE: the layout of the full vectors is the drive's own (R232, assumption 15). -/
def listRuns (i : IdxId) (x : Idx) (g : Gen) (l : PList) : List NewRun :=
  let n := extCount x l
  let v := l.ents.flatMap fun e => e.full
  (List.range n).map (fun j => { chan := extChan g l.cent j, pages := 16, bytes := extentBytes i x l j }) ++
  (List.range (ceilDiv v.length 262144)).map fun j =>
    let b := (v.drop (j * 262144)).take 262144
    { chan := extChan g l.cent (n + j), pages := ceilDiv b.length 16384, bytes := b }

/-- A list's runs programmed in the data pool; none while it has no room outside the last reserve (R255 item 6, R366). DESIGN
CHOICE: a list that takes over an entry which no level read is unreadable itself, as R255 names no outcome (assumption 15). -/
def programList (s : State) (i : IdxId) (x : Idx) (g : Gen) (bad : List (BitVec 64)) (l : PList) : Option State :=
  let rs := listRuns i x g l
  let hit := l.ents.any fun e => bad.contains e.id
  ((List.range rs.length).zip rs).foldl (fun (acc : Option State) p => acc.bind fun st =>
    programRun st { idx := i, cent := l.cent, gen := l.gen, ord := p.1, stripes := [], bytes := p.2.bytes
                    lost := if hit then List.range p.2.pages else [], nsid := (s.index i).nsid, dead := false
                    place := { sb := 0, slc := false, die := 0, block := 0, stripe := 0, slot := 0 } } p.2.chan p.2.pages) (some s)

/-- The lists that the current generation of an index wrote anew, programmed. -/
def programGen (s : State) (i : IdxId) (bad : List (BitVec 64)) : Option State :=
  let x := s.index i
  let g := x.gens[x.cur]
  (g.lists.filter fun l => l.gen == g.gen).foldl (fun (acc : Option State) l => acc.bind fun st => programList st i x g bad l) (some s)

/-- The blocks of flash that hold a list. -/
def listBlks (s : State) (i : IdxId) (g : Gen) (l : PList) : List IdxBlk :=
  let x := s.index i
  (List.range (extCount x l)).flatMap (extentBlks s i g l) ++
  (List.range (ceilDiv (l.ents.length * 2 * x.dim.toNat) 4096)).map fun k => idxBlk s i g l (extCount x l + k / 64) (k % 64)

/-- The lists of a generation that the next one does not keep as they are, which a merge reads. -/
def listsRead (g new : Gen) : List PList := g.lists.filter fun l => !new.lists.any fun k => k.cent == l.cent && k.gen == l.gen

/-- The device ranges that a merge reads and writes in DRAM. -/
def mergeRanges (s : State) (m : Merge) : List Range :=
  let x := s.index m.idx
  let g := x.gens[x.cur]
  let r : Fin 2 := x.cur + 1
  let f := formRows s x g m.stage
  genRanges x g g.ncent.toNat g.fwd.length ++ (absorbed x m).map (fun e => broodRange x e.seq) ++
    genRanges x { x.gens[r] with fwdAddr := fwdAddrOf x r } f.ncent f.fwd.length ++ rowRanges x (attrDue s m)

/-- The state with a merge's new generation formed, its objects in DRAM and on flash read and written; none while a page can get
no frame, a block it needs is under reset, or the data pool has no room (R27, R266, R267, R366, R368, R370). -/
def mergeDone (s : State) (m : Merge) : Option State :=
  let x := s.index m.idx
  let g := x.gens[x.cur]
  if (mergeRanges s m).any (rangeBusy s) then none
  else (touchRanges s (mergeRanges s m)).bind fun s1 =>
    let t := formGen s1 m
    let y := t.index m.idx
    let l := listsRead g y.gens[y.cur]
    if blksBusy s1 (l.flatMap (listBlks s1 m.idx g)) then none
    else
      let u := readPlaces t ((l.flatMap (listBlks s1 m.idx g)).filterMap fun b => b.place)
      let bad := (l.filter fun q => (listBlks s1 m.idx g q).any (idxLost u)).flatMap fun q => q.ents.map fun e => e.id
      programGen u m.idx bad

/-- GENERATION_CHANGE: the new record is durable and `CUR` changes, once no step holds a view on the record it
overwrites and what it reads and writes has frames, room and power, and no forager is being reset (R27, R234, R255, R267, R366, R516); the brood entries that only the overwritten
generation needed leave the mirror (R376). -/
def execGenerationChange (s : State) : Res :=
  match s.merge with
  | none => .next s
  | some m =>
    if recordHeld s m.idx ((s.index m.idx).cur + 1) || !firmwareOn s || flashDown s then .next s
    else
      match mergeDone s m with
      | none => .next s
      | some s1 => .next (fitMirror { s1 with merge := none })

/-- Contexts that wait for durability go on once all their entries are durable (R64). -/
def wakeFences (s : State) : State :=
  allCtx.foldl (fun st c => if (st.ctx c).wait = .fence ∧ allDurable st (st.ctx c) = true then unblockCtx st c else st) s

/-- Codewords of the brood mirror programmed, a page at a time (R329, R395). -/
def mirrorCount (s : State) (n : Nat) : State :=
  { s.tickSeqs (ceilDiv n 4) with media := { s.media with mediaWr := satAdd s.media.mediaWr n } }

/-- BROOD_MIRROR_DURABLE: the mirror of an index's entries up to a sequence number is on flash, in the SLC write region (R253,
R376, R395). -/
def execBroodMirrorDurable (i : IdxId) (upto : BitVec 64) (s : State) : Res :=
  let x := s.index i
  let v := min upto.toNat x.head.toNat
  if firmwareOn s && !flashDown s && x.live && decide (x.durable.toNat < v) then
    .next (wakeFences (fitMirror (mirrorCount (s.setIndex i { x with durable := BitVec.ofNat 64 v }) (mirrorLen x x.durable.toNat v))))
  else .next s

end Sys2Proof.Machine
end

