-- ==== Sys2Proof/Machine/Reset.lean ====
section
/-! DEFINITION. Resets, their scope and the exit from them (14, R448 to R458; 11, R385, R386, R391; 07, R253, R256;
01, R35, R37; 17, R511, R515, R518, R519). -/

namespace Sys2Proof.Machine

/-! ## The shutdown sequence -/

/-- What of a cached write reaches flash when only the blocks of a list are programmed: a group whole or not at all
(R385 item 5, R386, R422). -/
def survive (k : List BlkKey) (e : CEnt) : List (BlkKey × BlkVal) :=
  let l := entBlocks e
  let mine := l.filter fun p => k.contains p.1
  if 1 < e.group ∧ mine.length < l.length then [] else mine

/-- Blocks of a cached write programmed as the drive goes down, where `p` holds the pages that started programs carry: at most
one for each die, and no parity page (R386). None where one of the blocks belongs to a second program of its die, or has no room. -/
def programStarted (e : CEnt) (l : List (BlkKey × BlkVal)) (p : State × List Place) : Option (State × List Place) :=
  l.foldl (fun (acc : Option (State × List Place)) b => acc.bind fun a =>
    (programBlk a.1 true true b.1 e.dseq e.group b.2).bind fun t =>
      let q : Place := { placeIn t.2 with slot := 0 }
      if a.2.any fun o => o.die == q.die && o != q then none else some (t.1, q :: a.2)) (some p)

/-- What of a cached write survives: a group whole or not at all, other writes block by block (R385 item 5, R386, R422). -/
def programSome (k : List BlkKey) (p : State × List Place) (e : CEnt) : State × List Place :=
  if 1 < e.group then (programStarted e (survive k e) p).getD p
  else (survive k e).foldl (fun a b => (programStarted e [b] a).getD a) p

/-- The brood list after a loss: every entry up to the highest that is durable or that survives, and the next sequence
number beyond the recorded bound (R253). The stagings stay for the merge that runs again (R256, R407, R488). -/
def brooded (x : Idx) (upto : BitVec 64) : Idx :=
  let n := max x.durable.toNat upto.toNat
  if x.live then
    { x with brood := x.brood.filter fun e => decide (e.seq.toNat ≤ n)
             head := x.bound, durable := x.bound }
  else x

/-- The sequence number up to which an index's entries survive. -/
def upto (k : Survivors) (i : IdxId) : BitVec 64 := ((k.brood.find? fun p => p.1 == i).map fun p => p.2).getD 0

/-- An index with what a merge of it had taken given back, for the merge that is queued again (R256). -/
def giveBack (x : Idx) (m : Option Merge) (i : IdxId) : Idx :=
  match m with
  | some q =>
    if q.idx = i then { x with stage := x.stage <|> q.stage, attrStage := overRows q.attrs x.attrStage, dropChan := x.dropChan ||| q.drop }
    else x
  | none => x

/-- R386: started programs finish, the rest of the cache is gone, interrupted erases leave their blocks
erase-incomplete (R391), and a merge that ran is queued again, before those that were queued (R254, R256). The journal is
closed, or left `opened` (R449). -/
def shutdown (s : State) (k : Survivors) (opened : Bool) : State :=
  let s1 := (s.nvm.cache.foldl (programSome k.blocks) (s, [])).1
  fitMirror { s1 with
    nvm := { s1.nvm with cache := [], flushes := [] }
    media := { s1.media with einc := s1.media.einc ++ s1.media.erases.map (fun e => { die := e.die, block := e.block })
                             erases := [], idle := false, replayed := false, jopen := opened }
    idxs := vgen 64 fun i => brooded (giveBack (s1.index (Fin.ofNat 64 i)) s1.merge (Fin.ofNat 64 i)) (upto k (Fin.ofNat 64 i))
    mergeQ := ((s1.merge.map fun m => m.idx).toList ++ s1.mergeQ).eraseDups, merge := none }

/-! ## What a reset clears -/

/-- The pages of indexes, which are restored from flash as they are touched (R35, R277): no frame is taken before (R296). -/
def keptPages (l : List Page) : List Page :=
  (l.filter fun p => match p.owner with
    | .index _ => true
    | _ => false).map fun p => { p with age := 0, loc := match p.loc with
      | .none => .none
      | _ => .dropped }

/-- The tiers after a cold or warm reset: cleared to zero, with the index objects restored (R448, R453 step 4). -/
def tiersAfter (t u : Tiers) : Tiers :=
  let l := keptPages t.pages
  { u with mem := t.mem.filter (fun c => l.any fun p => p.no == c.1 / Config.pageBytes), pages := l }

/-- The tiers as a warm reset leaves them: repairs and retired frames last until cold reset (R293, R294, R491). The free frames
read as R296 has them until the drive runs again (assumption 20). -/
def Tiers.warm (t : Tiers) (o : Otp) : Tiers :=
  { Tiers.cold o.sprUsed o.sprLeft with
    sprUsed := t.sprUsed, sprLeft := t.sprLeft, rprStk := t.rprStk, rprPkg := t.rprPkg, rprRet := t.rprRet, rowUsed := t.rowUsed
    rowMark := t.rowMark
    limit := t.limit, pkgFail := t.pkgFail, stkFail := t.stkFail, goneN := t.goneN, goneF := t.goneF }

/-- The frames that are out of the pool until cold reset leave the free ones (R293, R490, assumption 20). -/
def Tiers.withoutGone (t : Tiers) : Tiers :=
  { t with freeN := vgen 4 fun k => t.freeN.toList.getD k 0 - t.goneN.toList.getD k 0, freeF := t.freeF - t.goneF }

/-- The ports whose lanes keep their links up through a warm reset (R458). -/
def keptPorts (f : Fab) : Vector PortSt 2 :=
  vgen 2 fun i =>
    let p := f.ports.toList.getD i .down
    if p.link then { p with rxerr := 0, txdrop := 0 } else f.held.toList.getD i .down

/-- The state that every cold and warm reset clears (R448). -/
def clearVolatile (s : State) (t : Tiers) : State :=
  { s with ready := [], parked := [], fw := { staged := [], slot := s.fw.slot, fellBack := s.fw.fellBack, act := none }
           cal := .neutral, host := .cold s.host.dbg, tiers := t, slots := Vector.replicate 32 .empty
           ctxs := Vector.replicate 64 .free, parts := Vector.replicate 8 .undef, fab := .cold
           log := { ents := [], ovf := 0, next := 0 }
           fgrs := vgen 32 fun n => { retired := (s.fgr (Fin.ofNat 32 n)).retired, extents := 0, bytes := 0 } }

/-- A boot store program that a reset cuts short leaves its word unspecified (R466, assumption 6). -/
def cutProgram (s : State) (o : BstOp) : State :=
  match o with
  | .program a _ => { s.draw 4 with bst := { s.bst with mem := memOver s.bst.mem a (freeBytes s 4) } }
  | _ => s

/-- The boot store after a reset (R466, R469, R470). -/
def bstReset (s : State) : State :=
  let s1 := cutProgram (cutProgram s s.bst.op) s.bst.op2
  { s1 with bst := { Bst.shipped with mem := s1.bst.mem, protRest := s1.bst.protRest, prot := s1.bst.prot, einc := s1.bst.einc
                                      pwdset := s1.bst.pwdset, key := s1.bst.key, locked := s1.bst.pwdset
                                      clk := s1.bst.clk, low := s1.bst.low } }

/-- The arrays after a reset: memories cleared; the map stays over a warm one (R505). -/
def arrsAfter (s : State) (cold : Bool) : Vector ArrSt 192 :=
  if cold then vmap ArrSt.ofFuse s.otp.amap else vmap (fun a => { a with buf := [], acc := [], exc := .clear }) s.arrs

/-- Where the exit from a cold reset stands: it waits for PERST# and for power (R453, R515). -/
def exitPhase (p : Pins) : Phase := if p.main && !p.perst then .trim else .held

/-- The cage supplies: on only while 12 V is there and `MODPRS_N` is low (R513). -/
def cageSupply (p : Pins) : Vector Bool 2 := vmap (fun b => b && p.main) p.present

/-- What a cold reset clears, with its cause (R448, R452, R453, R457, R511). The result of the last hold-up test stays until
the next one (R387, R518), and the time since the last checkpoint counts on the time counter that starts again (R384). -/
def coldClear (s1 : State) (cause : BitVec 4) : State :=
  let s2 := clearVolatile s1 (tiersAfter s1.tiers (Tiers.cold s1.otp.sprUsed s1.otp.sprLeft))
  { s2 with
    host := .cold s2.pins.strap
    media := { s2.media with charged := false, ckptAt := 0 }
    time := .cold, tel := .cold, sup := .cold, badPhys := [], arrs := arrsAfter s2 true
    pins := { Pins.inactive with perst := s2.pins.perst, strap := s2.pins.strap, present := s2.pins.present
                                 main := s2.pins.main, aux := s2.pins.aux, supply := cageSupply s2.pins }
    rst := { Rst.powerOn with phase := exitPhase s2.pins, cause := cause } }

/-- A cold reset with its cause: the drive shuts down, and then everything is cleared (R448, R449). -/
def coldReset (s : State) (k : Survivors) (cause : BitVec 4) : State := coldClear (bstReset (shutdown s k false)) cause

/-- A warm reset with its cause (R448 to R450, R452, R453, R458): the time counter, the primacy latch and the outputs stay; the
watchdog leaves the journal open. -/
def warmReset (s : State) (k : Survivors) (cause : BitVec 4) : State :=
  let s1 := bstReset (shutdown s k (cause == 0x5))
  let s2 := clearVolatile s1 (tiersAfter s1.tiers (s1.tiers.warm s1.otp))
  { s2 with
    time := { TimeSt.cold with now := s2.time.now, corrected := s2.time.corrected, holdUntil := s2.time.holdUntil }
    tel := { Tel.cold with sens := vmap (fun q => { value := 0, valid := false, failed := q.failed, bad := 0 : Sensor }) s2.tel.sens }
    sup := { Sup.cold with epoch := s2.sup.epoch, holder := s2.sup.holder, valid := s2.sup.valid }
    arrs := arrsAfter s2 false, fab := { s2.fab with held := keptPorts s1.fab }
    rst := { Rst.powerOn with phase := .trim, cold := false, cause := cause, stamp := stampOf s } }

/-- Nothing in the cache survives but what is on the medium. -/
def noSurvivors : Survivors := { blocks := [], brood := [] }

/-- What survives where no event names it, as after a thermal trip or a commit in recovery: the drive's own timing
decides (assumption 10). -/
def someSurvivors (s : State) : Survivors :=
  let keys := s.nvm.cache.flatMap fun e => (entBlocks e).map fun p => p.1
  { blocks := ((List.range keys.length).zip keys).filterMap fun p => if Config.freeBit (s.free + p.1) then some p.2 else none
    brood := allIdx.map fun i =>
      (i, BitVec.ofNat 64 ((s.index i).durable.toNat + (Config.freeWord (s.free + i.val)).toNat % ((s.index i).head.toNat - (s.index i).durable.toNat + 1))) }

/-- Whether a warm source can act: the package has power and is not held in cold reset (R439, R450). -/
def warmable (s : State) : Bool :=
  match s.rst.phase with
  | .held => false
  | .noPower => false
  | .tripped => false
  | _ => true

/-- Whether the firmware or the boot ROM's recovery serves its ports (R453, R473). -/
def served (s : State) : Bool := s.rst.phase == .run || s.rst.phase == .recovery

/-! ## Reset sources -/

/-- POWER_ON (R448, R452, R453). -/
def execPowerOn (s : State) : Res :=
  .next (coldReset { s with pins := { s.pins with main := true, aux := true }
                            media := { s.media with lossSeen := s.media.lossSeen || !s.nvm.cache.isEmpty } } noSurvivors 0x0)

/-- PERST_ASSERT (R448, R457); a package that a thermal trip holds stays held (R439). -/
def execPerstAssert (k : Survivors) (s : State) : Res :=
  let s1 := { s with pins := { s.pins with perst := true } }
  match s.rst.phase with
  | .noPower => .next s1
  | .tripped => .next s1
  | _ => .next (coldReset s1 k 0x1)

/-- PERST_DEASSERT: the exit sequence starts once power is good (R453, R515). -/
def execPerstDeassert (s : State) : Res :=
  let s1 := { s with pins := { s.pins with perst := false } }
  .next (if s.rst.phase = .held then { s1 with rst := { s1.rst with phase := exitPhase s1.pins } } else s1)

/-- NVM_SUBSYSTEM_RESET (R448). -/
def execNvmSubsystemReset (k : Survivors) (s : State) : Res := .next (if served s then warmReset s k 0x2 else s)

/-- PCIE_HOT_RESET (R448, R450). -/
def execPcieHotReset (k : Survivors) (s : State) : Res := .next (if warmable s then warmReset s k 0x3 else s)

/-- WATCHDOG_EXPIRY (R451); `TMO` 0 stops the watchdog (R481). -/
def execWatchdogExpiry (k : Survivors) (s : State) : Res :=
  .next (if s.rst.phase = .run ∧ s.rst.wdog ≠ 0 then warmReset s k 0x5 else s)

/-- POWER_FAIL: the drive goes down on hold-up energy (R386, R519). -/
def execPowerFail (k : Survivors) (s : State) : Res :=
  let s1 := coldReset { s with pins := { s.pins with main := false } } k 0x0
  .next { s1 with rst := { s1.rst with phase := .noPower }
                  media := { s1.media with lossSeen := s1.media.lossSeen || s.rst.phase == .run } }

/-- POWER_RETURN: a cold reset with cause power-on follows the shutdown (R519). -/
def execPowerReturn (s : State) : Res :=
  if s.rst.phase = .noPower then
    let s1 := { s with pins := { s.pins with main := true } }
    .next (coldClear s1 0x0)
  else .next s

/-! ## Exit from reset -/

/-- Safe mode: every island at the bottom of its range, and the transmitters in idle (R23, R456). -/
def enterSafe (s : State) : State :=
  { s with rst := { s.rst with phase := .boot, safe := true }
           tel := { s.tel with clkC := 600, clkF := 500, clkS := 800, tracked := [] }
           pins := { s.pins with sending := Vector.replicate 8 false }
           fab := { s.fab with held := Vector.replicate 2 .down } }

/-- The PCIe link trains, to which rate and width the link partner decides (R398, R453 step 3, assumption 30). -/
def trainLink (s : State) : State :=
  let w (k n : Nat) : Nat := (Config.freeWord (s.free + k)).toNat % n
  { s.draw 2 with host := { s.host with pcie := { s.host.pcie with rate := BitVec.ofNat 4 (1 + w 0 6), width := BitVec.ofNat 6 (2 ^ w 1 4)
                                                                   d3hot := false } } }

/-- TRIM_LOAD_PASS (R444, R454, R456); with the trim loader's end the PCIe link trains (R453 step 3). -/
def execTrimLoadPass (ok : Bool) (s : State) : Res :=
  if s.rst.phase ≠ .trim then .next s
  else if ok then .next (trainLink { s with rst := { s.rst with phase := .boot, trimv := true } })
  else
    let n := s.rst.crcf + 1
    let s1 := { s with rst := { s.rst with crcf := n } }
    if n.toNat < 3 then .next s1
    else .next (logFault (trainLink (enterSafe s1)) 0x0F 0 0 2 (BitVec.ofNat 64 n.toNat) 0)

/-- A supervisor's claim of primacy (R477): the latch advances where the expectation holds. -/
def claim (s : State) (n : Fin 2) (epoch : BitVec 16) (holder : Fin 2) (valid : Bool) : State :=
  let u := s.sup
  if u.epoch = epoch ∧ u.holder = holder ∧ u.valid = valid then
    let one := vgen 2 fun i =>
      let q := u.one.toList.getD i .stopped
      if i = n.val then { q with primary := true, view := epoch + 1, waiting := false } else { q with waiting := false }
    { s with sup := { u with epoch := epoch + 1, holder := n, valid := true, ok := u.ok.set n true, one := one } }
  else { s with sup := { u with ok := u.ok.set n false } }

/-- A supervisor that starts, as a follower (R453 step 6, R460). -/
def startSup (u : Sup) (n : Fin 2) : Sup :=
  { u with one := u.one.set n { u.one[n] with running := true, primary := false, view := u.epoch, hb := 0, waiting := true } }

/-- The first claim after a boot (R480). -/
def firstClaim (s : State) : State :=
  claim s (if s.sup.valid then s.sup.holder else 0) s.sup.epoch s.sup.holder s.sup.valid

/-- The outputs that firmware drives from here on: their levels are its own (R457, assumption 7). -/
def driveOutputs (s : State) : State :=
  { s.draw 5 with pins := { s.pins with
      alertN := Config.freeBit s.free, sdaLow := Config.freeBit (s.free + 1), clkreqN := Config.freeBit (s.free + 2)
      ledAct := Config.freeBit (s.free + 3), ledFlt := Config.freeBit (s.free + 4) } }

/-- BOOT_IMAGE_LOADED: the supervisors start from the slot that passes, or the drive stays in recovery (R453, R472,
R473, R480). From then on the frames that are out of the pool leave it, and ports whose lanes kept their links carry frames
(R293, R458). -/
def execBootImageLoaded (s : State) : Res :=
  if s.rst.phase ≠ .boot then .next s
  else
    match bootSlot s with
    | none => .next { s with rst := { s.rst with phase := .recovery } }
    | some k =>
      let fell := k != chosenSlot s
      let s0 := driveOutputs { s with tiers := s.tiers.withoutGone
                                      fab := { s.fab with ports := keptPorts s.fab, held := Vector.replicate 2 .down } }
      let s1 := firstClaim { s0 with rst := { s.rst with phase := .run }, fw := { s.fw with slot := k, fellBack := fell }
                                     sup := startSup (startSup s.sup 0) 1 }
      .next (if fell then logFault s1 0x10 0 0 0 0 0 else s1)

/-- The reads of a replay: every codeword of the superblocks opened after the checkpoint in force (R385 item 3). The stripes that the
drive went down before it could end get their parity pages. DESIGN CHOICE: the spec does not say when (assumption 15). -/
def replayReads (s : State) : State :=
  let s1 := readPlaces s ((s.media.sbs.filter fun b => decide (s.media.ckptOrd < b.opened)).flatMap codesOf)
  s1.media.sbs.foldl (fun st b => endStripes st b (owedStripes st b)) s1

/-- MAP_REPLAY: the map is rebuilt, from the checkpoint, the journal and the open superblocks, and an enabled controller is ready
(R253, R256, R385, R396, R399, R449). What it takes for each block is what `mapped` names: the highest number on the medium, whole
groups alone having come there (R385 items 4 and 5). What counts towards the next checkpoint counts on (R384). -/
def execMapReplay (s : State) : Res :=
  if s.rst.phase ≠ .run ∨ s.media.replayed = true then .next s
  else
    let s1 := replayReads (if s.media.lossSeen then countErr s 10 1 else s)
    .next { s1 with media := { s1.media with replayed := true, lossSeen := false, jopen := false }
                    host := { s1.host with rdy := s1.host.ccEn } }

/-- CONTROLLER_ENABLE: `CC.EN` is set, and `CSTS.RDY` follows once replay has ended (R399, R453, R473). -/
def execControllerEnable (s : State) : Res :=
  if served s then
    .next { s with host := { s.host with ccEn := true, rdy := s.media.replayed || s.rst.phase == .recovery, noFetch := false, shst := 0 } }
  else .next s

/-! ## Queues ended and controller reset -/

/-- The commands of a host queue that wait somewhere end with a status (R424, R448). -/
def endQueue (s : State) (q : BitVec 16) (st : Status) : State :=
  let ofQ (i : Instr) : Bool := match cmdHdr i with
    | some g => g.port == .host && g.sq == q
    | none => false
  let held := (s.ready ++ s.parked).filter ofQ
  let s1 := held.foldl (fun acc i => match cmdHdr i with
    | some g => completeSt acc g st
    | none => acc) { s with ready := s.ready.filter (fun i => !ofQ i), parked := s.parked.filter (fun i => !ofQ i) }
  let s2 := s1.nvm.cache.foldl (fun acc e => match e.wait with
    | some w => if w.1 = q then completeSt acc (hostHdr w.1 w.2) st else acc
    | none => acc) s1
  let s3 := s2.nvm.flushes.foldl (fun acc f => if f.sq = q then completeSt acc (hostHdr f.sq f.cid) st else acc) s2
  let unwait (e : CEnt) : CEnt := match e.wait with
    | some w => if w.1 = q then { e with wait := none } else e
    | none => e
  let s4 := { s3 with nvm := { s3.nvm with cache := s3.nvm.cache.map unwait, flushes := s3.nvm.flushes.filter fun f => f.sq != q }
                      host := { s3.host with waitQ := s3.host.waitQ.filter fun w => w.1 != q } }
  freeLocks (dropHiveCmds s4 q st) fun l => l.sq == q && l.ctx.isNone

/-- A submission queue deleted, with its commands and its bound context (R424). -/
def dropSq (s : State) (q : BitVec 16) : State :=
  let s1 := match ctxOfSq s q with
    | some c => deleteCtx s c .deletedSq .deletedSq
    | none => s
  let s2 := endQueue s1 q .deletedSq
  { s2 with host := { s2.host with sqs := s2.host.sqs.filter fun x => x.id != q } }

/-- The outstanding Asynchronous Event Requests end with a status. -/
def endAers (s : State) (st : Status) : State :=
  s.host.aers.foldl (fun acc cid => completeSt acc (hostHdr 0 cid) st) { s with host := { s.host with aers := [] } }

/-- NVME_CONTROLLER_RESET: `CC.EN` is cleared (R424, R428, R448); features return to their defaults as the base
specification has it (assumption 9). -/
def execNvmeControllerReset (s : State) : Res :=
  if s.host.ccEn then
    let s1 := (s.host.sqs.map fun x => x.id).foldl dropSq s
    let s2 := endAers (endQueue s1 0 .deletedSq) .deletedSq
    let c := HostSt.cold s2.host.dbg
    .next { s2 with host := { s2.host with
      ccEn := false, rdy := false, shst := 0, noFetch := false, sqs := [], cqs := [], apst := false, apstTab := []
      idle3 := c.idle3, idle4 := c.idle4, vwc := true, overT := c.overT, underT := c.underT, notes := [], masked := [], feats := [], waitQ := [] } }
  else .next s

/-- NORMAL_SHUTDOWN: the whole write cache is drained before `CSTS.SHST` reports completion (R449). -/
def execNormalShutdown (s : State) : Res :=
  if s.host.ccEn ∧ s.host.shst = 0 then .next (endShutdown { s with host := { s.host with shst := 1, noFetch := true } })
  else .next s

end Sys2Proof.Machine
end

