-- ==== Sys2Proof/Machine/Supervisor.lean ====
section
/-! DEFINITION. The supervisors, the primacy latch, block resets and the activation of firmware in service (14, R459
to R462, R473 to R481; 15, R485, R486; 01, R27). -/

namespace Sys2Proof.Machine

/-- A supervisor. -/
def supOne (s : State) (n : Fin 2) : SupOne := s.sup.one[n]

/-- The state with a supervisor replaced. -/
def setSup (s : State) (n : Fin 2) (x : SupOne) : State := { s with sup := { s.sup with one := s.sup.one.set n x } }

/-- Whether a supervisor's write carries the latch's holder and epoch (R478). -/
def fenceOk (s : State) (n : Fin 2) (epoch : BitVec 16) : Bool := s.sup.valid && s.sup.holder == n && s.sup.epoch == epoch

/-- One more rejected control write (R478, R481). -/
def countFenced (s : State) : State := { s with sup := { s.sup with fenced := satInc s.sup.fenced } }

/-- A fault entry of class 0x01 for a supervisor (R482, R494). -/
def supLog (s : State) (n : Fin 2) (outcome : BitVec 8) : State := logFault s 0x01 1 (BitVec.ofNat 16 n.val) outcome 0 0

/-! ## Block resets -/

/-- Whether a code names a block (R460). -/
def blockCode (b : Nat) : Bool :=
  decide (b < 12) || (decide (0x10 ≤ b) && decide (b < 0x34)) || (decide (0x38 ≤ b) && decide (b < 0x3F)) ||
  decide (b = 0x40 ∨ b = 0x41 ∨ b = 0x48 ∨ b = 0x50 ∨ b = 0x51)

/-- The supervisor whose block a code names. -/
def supOf (b : Nat) : Option (Fin 2) := if b = 0x50 then some 0 else if b = 0x51 then some 1 else none

/-- A supervisor writes a block's code to `BLK` with `GO`: its reset starts, joins the one in progress, or waits (R459, R460). -/
def goBlock (s0 : State) (b : BitVec 8) : State :=
  let s := { s0 with rst := { s0.rst with blk := b } }
  match s.rst.act with
  | .none => { s with rst := { s.rst with act := .idling b } }
  | .idling c => if c = b ∨ s.rst.waiting.contains b then s else { s with rst := { s.rst with waiting := s.rst.waiting ++ [b] } }
  | .resetting c => if c = b ∨ s.rst.waiting.contains b then s else { s with rst := { s.rst with waiting := s.rst.waiting ++ [b] } }

/-- `GO` of `RST_BLK` written by a supervisor whose write the latch accepts (R450, R460, R461). -/
def goWrite (s : State) (n : Fin 2) (b : BitVec 8) : State :=
  let s1 := { s with rst := { s.rst with blk := b } }
  if s.rst.phase ≠ .run then s
  else if !blockCode b.toNat || supOf b.toNat == some n then { s1 with rst := { s1.rst with err := true } }
  else goBlock s b

/-- RST_BLK_GO (R459 to R462, R478): what an inert port writes is not taken at all (R430, R456). -/
def execRstBlkGo (p : Port) (blk : BitVec 8) (s : State) : Res :=
  match p with
  | .supervisor n e =>
    if fenceOk s n e then .next (goWrite s n blk)
    else
      let s1 := countFenced s
      .next (if (supOf blk.toNat).isSome then { s1 with rst := { s1.rst with err := true } } else s1)
  | _ => .next (if regsLive s && reaches s p then countDeny s else s)

/-- The loops restart from the nominal clocks, reduced as R436 reduces them (R23, R460). -/
def resetLoops (t : Tel) : Tel :=
  { t with clkC := 600, clkF := 900, clkS := 1000, gap := 15, ps := 0, p1 := 0, last := [], exc := 0, guard := false
           gapT := Vector.replicate 6 0, throtC := Vector.replicate 6 (Vector.replicate 12 0)
           throtF := Vector.replicate 6 (Vector.replicate 32 0), psSum := 0, psCnt := 0, clPow := Vector.replicate 12 0
           clClk := Vector.replicate 12 0 }

/-- What the reset of a block clears (R460); it writes the words of its memories (R289). -/
def resetBlock (s : State) (b : Nat) : State :=
  if b < 12 then
    let l := allArr.filter fun a => clusterOf a == b
    dropWords (l.foldl (fun st a => st.setArr a { st.arr a with buf := [], acc := [], exc := .clear }) s) l
  else if 0x10 ≤ b ∧ b < 0x30 then
    { s with tiers := { s.tiers with sramPoison := s.tiers.sramPoison.filter fun q => match q with
      | .forager n _ => n.val != b - 0x10
      | _ => true } }
  else if b = 0x40 ∨ b = 0x41 then
    { s with fab := { s.fab with ports := s.fab.ports.set (b % 2) PortSt.down (Nat.mod_lt _ (by decide)) } }
  else if b = 0x48 then { s with tel := resetLoops s.tel }
  else
    match supOf b with
    | some n => setSup s n { supOne s n with running := false, primary := false, blkRst := true }
    | none => s

/-- Whether a block is a tier controller that a move to a tier may run through: that of any stack or, where the page comes from
Tier F, of any package for a move to Tier N, and that of any package for a move to Tier F. -/
def tierBlock (b : Nat) (target : BitVec 2) : Bool := (target == 0 && decide (0x30 ≤ b ∧ b < 0x34)) || decide (0x38 ≤ b ∧ b < 0x3F)

/-- Whether a prefetch is under way whose move runs through a tier controller (R126, R278). -/
def movesBy (b : Nat) (p : Pref) : Bool := !p.done && !p.fired && tierBlock b p.target

/-- Whether a hive-wide command is in flight to a fabric port: its `QUERY` has been sent, and the other port is down. DESIGN CHOICE,
as for the contexts (R27, R411, R459; assumption 29). -/
def sentBy (s : State) (b : Nat) (m : HiveCmd) : Bool :=
  (b == 0x40 || b == 0x41) && !s.fab.ports[Fin.ofNat 2 (b + 1)].link && m.sent

/-- Whether a context is part of a switch of its partition's arrays that runs through a cluster, one of theirs, or of a save or
restore that runs through a Tier N controller, that of the stack of one of their save areas (R301, R305, R308). -/
def switching (s : State) (b : Nat) (c : CtxId) : Bool :=
  ((partArrs s (s.ctx c).part).any fun a => clusterOf a == b || 0x30 + clusterOf a / 3 == b) &&
  match (s.part (s.ctx c).part).sw with
  | .save o _ => o == c
  | .restore d => d == c
  | .clear d => decide (b < 12) && d == c
  | .idle => false

/-- The contexts with a request in flight to a block (R459): those whose instruction may be running on its arrays, whose arrays are
being saved, restored or cleared through it, whose scan runs on the forager, whose access waits for a move that runs through the
tier controller, and whose LEASE or Tier X read waits on the fabric while the other port is down. DESIGN CHOICE: the spec gives no
such list (assumption 29). -/
def inFlight (s : State) (b : Nat) (c : CtxId) : Bool :=
  let x := s.ctx c
  let port := decide (b < 0x42) && !s.fab.ports[Fin.ofNat 2 (b + 1)].link
  if b < 12 then (x.st == .running && ownsCluster s x.part b) || switching s b c
  else if 0x10 ≤ b ∧ b < 0x30 then
    scanOn s (Fin.ofNat 32 (b - 0x10)) == some c
  else if b < 0x40 then
    switching s b c ||
    match x.wait with
    | .access i => (x.prefs[i]?).any fun p => tierBlock b p.target
    | _ => false
  else
    match x.wait with
    | .lease _ _ => port
    | .far => port
    | _ => false

/-- Whether a block still holds a request: of some context, the move of a prefetch, or a hive-wide command. The instruction of a
context that runs on a cluster ends before the cluster is idle, and its next one waits. -/
def holdsWork (s : State) (b : Nat) : Bool :=
  (allCtx.any fun c => if b < 12 then switching s b c else inFlight s b c || (s.ctx c).prefs.any (movesBy b)) ||
    s.fab.cmds.any (sentBy s b)

/-- BLOCK_IDLE: the block is reset at once, and no request fails (R459). A block that holds a request is not idle. -/
def execBlockIdle (s : State) : Res :=
  match s.rst.act with
  | .idling b => .next (if holdsWork s b.toNat then s else resetBlock { s with rst := { s.rst with act := .resetting b } } b.toNat)
  | _ => .next s

/-- The moves of prefetches that run through a tier controller fail with it, and their fallbacks take over (R27, R278). -/
def failMoves (s : State) (b : Nat) : State :=
  let fail (p : Pref) : Pref := if movesBy b p then { p with failed := true } else p
  { s with ctxs := vmap (fun x => { x with prefs := x.prefs.map fail }) s.ctxs }

/-- The hive-wide commands in flight to a fabric port that is reset complete with Block Reset (R27, R411, R459). -/
def failHiveCmds (s : State) (b : Nat) : State :=
  (s.fab.cmds.filter (sentBy s b)).foldl (fun st m => completeSt st (hostHdr m.sq m.cid) .blockReset)
    { s with fab := { s.fab with cmds := s.fab.cmds.filter fun m => !sentBy s b m } }

/-- The unit that a block's context faults report (R69). -/
def blockUnit (b : Nat) : BitVec 8 :=
  if b < 12 then 0xE0 else if b < 0x30 then BitVec.ofNat 8 (0xB0 + b) else if b < 0x40 then 0xE1 else 0xE2

/-- Scope and unit of a block in the event log (R494). -/
def blockScope (b : Nat) : BitVec 8 × BitVec 16 :=
  if 0x10 ≤ b ∧ b < 0x30 then (5, BitVec.ofNat 16 (b - 0x10))
  else if 0x30 ≤ b ∧ b < 0x34 then (9, BitVec.ofNat 16 (b - 0x30))
  else if 0x38 ≤ b ∧ b < 0x3F then (9, BitVec.ofNat 16 (0x10 + 2 * (b - 0x38)))
  else if b = 0x40 ∨ b = 0x41 then (8, BitVec.ofNat 16 ((b - 0x40) * 256))
  else if b = 0x50 ∨ b = 0x51 then (1, BitVec.ofNat 16 (b - 0x50))
  else (0, 0)

/-- BLOCK_RESET_TIMEOUT: the block is reset, `FORCED` is set, and its requests fail (R27, R459, R482). -/
def execBlockResetTimeout (s : State) : Res :=
  match s.rst.act with
  | .idling b =>
    let mine := allCtx.filter (inFlight s b.toNat)
    let s1 := { s with rst := { s.rst with act := .resetting b, forced := true } }
    let s2 := mine.foldl (fun st c => faultCtx st c .blockReset (blockUnit b.toNat) 0 0) s1
    let s3 := resetBlock (wakeParked (failHiveCmds (failMoves s2 b.toNat) b.toNat)) b.toNat
    .next (logFault s3 0x12 (blockScope b.toNat).1 (blockScope b.toNat).2 0 0 0)
  | _ => .next s

/-! ## Firmware activation in service -/

/-- The activation ends: the boot record is written, and the Commit completes (R475 step 5). -/
def endActivation (s : State) (h : Hdr) (k : BitVec 1) : State :=
  let s1 := writeRec s k
  wakeParked (completeSt { s1 with fw := { s1.fw with slot := k, act := none, fellBack := false } } h .success)

/-- What follows the return of a supervisor during an activation: the handover, or the end (R475, R478). -/
def activationStep (s : State) (n : Fin 2) : State :=
  match s.fw.act with
  | none => s
  | some (h, k, st) =>
    if st = 1 then
      let s1 := claim s n s.sup.epoch s.sup.holder s.sup.valid
      let s2 := setSup s1 (n + 1) { supOne s1 (n + 1) with primary := false, view := s1.sup.epoch }
      goBlock { s2 with fw := { s2.fw with act := some (h, k, 4) } } (BitVec.ofNat 8 (0x50 + (n + 1).val))
    else endActivation s h k

/-- The next block reset that waits starts (R460). -/
def nextBlock (s : State) : State :=
  match s.rst.waiting with
  | [] => { s with rst := { s.rst with act := .none } }
  | b :: t => { s with rst := { s.rst with act := .idling b, waiting := t } }

/-- A reset supervisor returns as follower (R460, R485). -/
def supReturn (s : State) (n : Fin 2) : State :=
  if (supOne s n).heldOff then s
  else
    let s1 := { s with sup := startSup s.sup n }
    activationStep (setSup s1 n { supOne s1 n with waiting := false }) n

/-- Instructions that waited for a block under reset go on, and every partition's arrays are given out again (R27, R84). -/
def wakeBusy (s : State) : State :=
  let s1 := allCtx.foldl (fun st c => if (st.ctx c).wait = .busy then unblockCtx st c else st) s
  allPart.foldl dispatch s1

/-- BLOCK_RESET_DONE: the block returns with what waited for it, and `BUSY` clears or a waiting reset starts (R27, R460, R475). -/
def execBlockResetDone (s : State) : Res :=
  match s.rst.act with
  | .resetting b =>
    let s1 := wakeBusy (wakeParked (nextBlock s))
    .next (match supOf b.toNat with
      | some n => supReturn s1 n
      | none => s1)
  | _ => .next s

/-- The image that an activation starts: the staged one written to the slot, or the one the slot holds (R474, R475). -/
def activationImage (s : State) (k : BitVec 1) : State × Option Status :=
  if s.fw.staged ≠ [] then commitImage s k
  else if s.rst.phase = .run ∧ k = s.fw.slot then (s, some .invalidFwSlot)
  else if !slotOk s k then (s, some .invalidFwImage)
  else (s, none)

/-- The slot that a Firmware Commit writes: in recovery slot 0, else the one it names (R473, R474). -/
def slotFor (s : State) (k : BitVec 1) : BitVec 1 := if s.rst.phase = .recovery then 0 else k

/-- FIRMWARE_COMMIT_ACTIVATE: action 011b (R473 to R475). With one supervisor out of service the slot waits for a
conventional reset (assumption 17). -/
def execFirmwareCommitActivate (h : Hdr) (d : Dw) (s : State) : Res :=
  hostCmd s h .firmware (.firmwareCommitActivate h d) fun s =>
    if commitFieldsBad d || dwB d.d10 5 3 != 3 then completeSt s h .invalidField
    else
      match (commitSlot s d).map (slotFor s) with
      | none => completeSt s h .invalidFwSlot
      | some k =>
        if s.fw.act.isSome then park s (.firmwareCommitActivate h d)
        else
          let r := activationImage s k
          match r.2 with
          | some st => completeSt r.1 h st
          | none =>
            let s1 := r.1
            let m := s1.sup.holder + 1
            if s.rst.phase = .recovery then
              let s2 := completeSt (writeRec s1 k) h .success
              warmReset s2 (someSurvivors s2) 0x4
            else if fwCompat (slotImage s1 k) ≠ fwCompat (slotImage s1 s1.fw.slot) ∨ (supOne s1 m).running = false then
              completeSt (writeRec s1 k) h .fwNeedsReset
            else goBlock { s1 with fw := { s1.fw with act := some (h, k, 1) } } (BitVec.ofNat 8 (0x50 + m.val))

/-- FIRMWARE_COMMIT: actions 000b, 001b and 010b (R473, R474). In recovery the commit writes slot 0, and a warm reset
follows; its cause is that of a management reset (assumption 17). -/
def execFirmwareCommit (h : Hdr) (d : Dw) (s : State) : Res :=
  hostCmd s h .firmware (.firmwareCommit h d) fun s =>
    if commitFieldsBad d || decide (2 < dwB d.d10 5 3) then completeSt s h .invalidField
    else
      match (commitSlot s d).map (slotFor s) with
      | none => completeSt s h .invalidFwSlot
      | some k =>
        let rc := s.rst.phase == .recovery
        let r := if dwB d.d10 5 3 = 2 then activationImage { s with fw := { s.fw with staged := [] } } k else commitImage s k
        match r.2 with
        | some st => completeSt s h st
        | none =>
          let s1 := completeSt (writeRec { r.1 with fw := { r.1.fw with staged := if dwB d.d10 5 3 = 2 then s.fw.staged else [] } } k) h .success
          if rc then warmReset s1 (someSurvivors s1) 0x4 else s1

/-! ## Supervisors -/

/-- SUP_CLAIM: a supervisor's claim; a field not wholly enabled has no effect (R477, R498), nor has a
claim without main power, on which the supervisors run (R516). -/
def execSupClaim (n : Fin 2) (v : BitVec 64) (be : BitVec 8) (s : State) : Res :=
  .next (if s.pins.main && bitsOf be 2 0 = 7 then
    claim s n (BitVec.ofNat 16 (bitsOf v 15 0)) (Fin.ofNat 2 (bitsOf v 16 16)) (bitsOf v 17 17 == 1) else s)

/-- PRIMACY_CLAIM_TIMEOUT: the latch has not advanced since a supervisor's start, and it claims (R480). -/
def execPrimacyClaimTimeout (n : Fin 2) (s : State) : Res :=
  .next (if (supOne s n).running && (supOne s n).waiting then claim s n s.sup.epoch s.sup.holder s.sup.valid else s)

/-- SUPERVISOR_HEARTBEAT: the counter advances, and a supervisor that has lost primacy steps down (R479). The first heartbeat after a
block reset ends what the reset was for (R485, R486). -/
def execSupervisorHeartbeat (n : Fin 2) (s : State) : Res :=
  let q := supOne s n
  .next (if q.running then
    let s1 := setSup s n { q with hb := q.hb + 1, view := s.sup.epoch, blkRst := false, failed := q.failed && !q.blkRst
                                  primary := q.primary && s.sup.holder == n && !newer s.sup.epoch q.view }
    if q.blkRst && q.failed then supLog s1 n 0 else s1
  else s)

/-- HEARTBEAT_TIMEOUT: the other supervisor claims, where the stalled one is primary, and takes over (R479, R482, R485). -/
def execHeartbeatTimeout (n : Fin 2) (s : State) : Res :=
  let m := n + 1
  if (supOne s n).running && (supOne s m).running && s.sup.takeover.isNone then
    let s1 := if s.sup.valid && s.sup.holder == n then claim s m s.sup.epoch s.sup.holder s.sup.valid else s
    let s2 := setSup s1 n { supOne s1 n with failed := true, fails := (supOne s1 n).fails ++ [s1.time.now] }
    .next (supLog { s2 with sup := { s2.sup with takeover := some n } } n 1)
  else .next s

/-- Failures of a supervisor within the last 24 hours (R486). -/
def recentFails (s : State) (n : Fin 2) : Nat :=
  ((supOne s n).fails.filter fun t => decide (s.time.now.toNat < t.toNat + 86400000000000)).length

/-- A supervisor is held in block reset until the next reset (R486). -/
def holdSup (s : State) (n : Fin 2) : State :=
  supLog (setSup s n { supOne s n with running := false, primary := false, heldOff := true }) n 2

/-- TAKEOVER_COMPLETE: the survivor resets the failed supervisor's block, or holds it after three failures (R485, R486). -/
def execTakeoverComplete (s : State) : Res :=
  match s.sup.takeover with
  | none => .next s
  | some n =>
    let s1 := { s with sup := { s.sup with takeover := none } }
    .next (if 3 ≤ recentFails s1 n then holdSup s1 n else goBlock s1 (BitVec.ofNat 8 (0x50 + n.val)))

/-- An activation in service that a supervisor held in block reset cannot carry on: the slot waits for a conventional reset
(R475, R486, assumption 17). -/
def dropActivation (s : State) : State :=
  match s.fw.act with
  | none => s
  | some (h, k, _) => wakeParked (completeSt (writeRec { s with fw := { s.fw with act := none } } k) h .fwNeedsReset)

/-- SUPERVISOR_RETURN_TIMEOUT: a supervisor has not advanced its heartbeat within 1 s of its block reset, whoever asked for the reset
(R486). -/
def execSupervisorReturnTimeout (n : Fin 2) (s : State) : Res :=
  let q := supOne s n
  if s.rst.phase == .run && q.blkRst && !q.heldOff then
    let s1 := dropActivation (holdSup s n)
    .next (match s1.rst.act with
      | .resetting b => if supOf b.toNat = some n then nextBlock s1 else s1
      | _ => s1)
  else .next s

end Sys2Proof.Machine
end

