-- ==== Sys2Proof/Machine/FabricMgmt.lean ====
section
/-! DEFINITION. Fabric Management and `FAB_NODE` (10, R337, R338, R340, R341, R344, R350, R362; 12, R409, R410; 09,
R321; 14, R458). -/

namespace Sys2Proof.Machine

/-- Fabric Management is accepted from the management port alone (R409, R430). -/
def fabCmd (s : State) (h : Hdr) (i : Instr) (f : State → State) : Res :=
  hostCmd s h .fabric i fun s1 => if h.port == .management then f s1 else completeSt (countDeny s1) h .notAuthorised

/-- `OP` of a Fabric Management command and its reserved bits (R409). -/
def fabHeadBad (d : Dw) (op : Nat) : Bool := dwB d.d10 3 0 != op || dwB d.d10 31 4 != 0 || d.d13 != 0 || d.d14 != 0 || d.d15 != 0

/-- Whether the drive is in a hive. -/
def inHive (s : State) : Bool := s.fab.hive != 0

/-- SET_NODE_ID (R321, R337, R409). -/
def execSetNodeId (h : Hdr) (d : Dw) (s : State) : Res :=
  fabCmd s h (.setNodeId h d) fun s =>
    stages s h [(fabHeadBad d 0 || d.d12 != 0 || dwB d.d11 31 13 != 0, .invalidField), (inHive s, .sequence)] fun s1 =>
      completeSt (leaveIdle { s1 with fab := { s1.fab with
        node := BitVec.ofNat 12 (dwB d.d11 11 0), auto := dwB d.d11 12 12 == 1, set := true } }) h .success

/-- Whether a port may write the registers of a class: R430, with the management and debug ports inert in safe mode
(R456). -/
def mayWrite (s : State) (k : Cls) (p : Port) : Bool := admitted s k p && !(s.rst.safe && p != .host)

/-- Whether bytes `hi` to `lo` of a register are all enabled (R498). -/
def wholly (be : BitVec 8) (lo hi : Nat) : Bool := (List.range (hi + 1 - lo)).all fun i => be.getLsbD (lo + i)

/-- The fields of `FAB_NODE` that a write sets (R362, R498). -/
def putFabNode (s : State) (v : BitVec 64) (be : BitVec 8) : State :=
  if inHive s then s
  else
    let f := s.fab
    let n := wholly be 0 1
    let a := wholly be 1 1
    leaveIdle { s with fab := { f with
      node := if n then BitVec.ofNat 12 (bitsOf v 11 0) else f.node, auto := if a then bitOf v 12 else f.auto
      set := f.set || n || a, prio := if wholly be 2 2 then BitVec.ofNat 8 (bitsOf v 23 16) else f.prio } }

/-- FAB_NODE_WRITE (R362, R430, R478): a supervisor's is fenced, and what an inert port writes is not taken at all. -/
def execFabNodeWrite (p : Port) (v : BitVec 64) (be : BitVec 8) (s : State) : Res :=
  .next (if !regsLive s then s
    else
      match p with
      | .supervisor n e => if fenceOk s n e then putFabNode s v be else countFenced s
      | _ => if !reaches s p then s else if !mayWrite s .fabric p then countDeny s else putFabNode s v be)

/-- JOIN_HIVE (R321, R341, R350, R409). -/
def execJoinHive (h : Hdr) (d : Dw) (s : State) : Res :=
  fabCmd s h (.joinHive h d) fun s =>
    let c : CtxId := Fin.ofNat 64 (dwB d.d12 5 0)
    stages s h [(fabHeadBad d 1 || dwB d.d11 31 16 != 0 || dwB d.d11 15 0 == 0 || dwB d.d12 31 6 != 0 || (s.ctx c).st == .free, .invalidField),
      (inHive s || !s.fab.set, .sequence)] fun s1 =>
      completeSt { s1 with fab := { s1.fab with
        hive := BitVec.ofNat 16 (dwB d.d11 15 0), st := .joining, hiveCtx := some c, epoch := 0, heard := 0, anns := [], pows := [] } } h .success

/-- What a drive keeps of the hive when it leaves it: nothing but its ports, routes and identity, an adopted node ID
excepted (R337, R341, R358). No slot comes that could hold a context pinned (R311). -/
def outOfHive (s : State) (st : HiveSt) : State :=
  let s1 := s.fab.lent.foldl (fun acc l => freeLent acc l.req l.node) s
  let s2 := (s1.fab.leases.filter fun l => l.granted && !l.lost).foldl loseLease s1
  { s2 with
    ctxs := vmap (fun x => { x with pinEnd := 0, sending := none }) s2.ctxs
    fab := { s2.fab with
      node := if s.fab.auto then 0 else s.fab.node
      hive := 0, st := st, knode := 0, epoch := 0, heard := 0, sched := none, pend := none, member := 0, round := 0, fresh := false, hiveCtx := none
      asm := [], slots := [], kids := [], covers := [], oos := [], acked := [], rejoin := none, grants := [], anns := [], pows := []
      grant := none, grantNext := none, bulk := [], bulkSent := 0, bulkUsed := none, inUsed := none, slotSent := none, queries := [] } }

/-- LEAVE_HIVE (R321, R341, R409). -/
def execLeaveHive (h : Hdr) (d : Dw) (s : State) : Res :=
  fabCmd s h (.leaveHive h d) fun s =>
    stages s h [(fabHeadBad d 2 || d.d11 != 0 || d.d12 != 0, .invalidField), (!inHive s, .sequence)] fun s1 =>
      completeSt (outOfHive s1 .noHive) h .success

/-- The pieces of a schedule that are held are discarded (R410). -/
def dropPieces (s : State) : State := { s with fab := { s.fab with stg := [], stgTotal := 0 } }

/-- SCHEDULE_PIECE (R344, R409, R410). A drive that adopts a schedule from its host sends it once. -/
def execSchedulePiece (h : Hdr) (d : Dw) (data : Bytes) (s : State) : Res :=
  fabCmd s h (.schedulePiece h d data) fun s =>
    let off := d.d11.toNat
    let total := d.d12.toNat
    let stop := off + data.length
    if fabHeadBad d 3 || decide (4096 < data.length) || data.isEmpty then completeSt s h .invalidField
    else if off ≠ s.fab.stg.length ∨ total < stop ∨ (data.length ≠ 4096 ∧ stop ≠ total) ∨ (s.fab.stg ≠ [] ∧ total ≠ s.fab.stgTotal) then
      completeSt (dropPieces s) h .invalidField
    else
      let b := s.fab.stg ++ data
      if stop = total then
        let s1 := dropPieces s
        if adoptable s1 b then completeSt (queueBulk (adopt s1 (schedOf b)) 0x02 toAll b) h .success
        else completeSt s1 h .invalidField
      else completeSt { s with fab := { s.fab with stg := b, stgTotal := total } } h .success

/-- A route entry read from its bytes; an address's first byte is its most significant (R409). -/
def routeOf (b : Bytes) : Route :=
  let f := fieldAt b 2 1
  { node := BitVec.ofNat 12 (fieldAt b 0 2), v0 := f.testBit 0, mac0 := BitVec.ofNat 48 (beNat (bytesAt b 4 6)), v1 := f.testBit 1
    mac1 := BitVec.ofNat 48 (beNat (bytesAt b 10 6)), static := f.testBit 2 }

/-- The route table with an entry replaced. -/
def putRoute (s : State) (r : Route) : State :=
  { s with fab := { s.fab with routes := s.fab.routes.filter (fun q => q.node != r.node) ++ [r] } }

/-- ROUTE_ENTRY (R338, R409). -/
def execRouteEntry (h : Hdr) (d : Dw) (data : Bytes) (s : State) : Res :=
  fabCmd s h (.routeEntry h d data) fun s =>
    if fabHeadBad d 4 || d.d11 != 0 || d.d12 != 0 || data.length != 16 || decide (4096 ≤ fieldAt data 0 2) ||
        decide (8 ≤ fieldAt data 2 1) || fieldAt data 3 1 != 0 then completeSt s h .invalidField
    else completeSt (putRoute s (routeOf data)) h .success

/-- FABRIC_SETTINGS (R323, R341, R409). -/
def execFabricSettings (h : Hdr) (d : Dw) (s : State) : Res :=
  fabCmd s h (.fabricSettings h d) fun s =>
    if fabHeadBad d 5 || d.d12 != 0 || dwB d.d11 15 12 != 0 then completeSt s h .invalidField
    else completeSt { s with fab := { s.fab with
      vid := BitVec.ofNat 12 (dwB d.d11 11 0), gprio := BitVec.ofNat 8 (dwB d.d11 23 16), prio := BitVec.ofNat 8 (dwB d.d11 31 24) } } h .success

end Sys2Proof.Machine
end

