-- ==== Sys2Proof/Machine/BootStore.lean ====
section
/-! DEFINITION. The boot store's operations and registers (14, R464 to R470; 12, R430; 16, R502). -/

namespace Sys2Proof.Machine

/-- A result in `RES` (R465). -/
def bstRes (s : State) (r : BitVec 4) : State := { s with bst := { s.bst with res := r } }

/-- `BUSY` (R470). -/
def bstBusy (s : State) : Bool := s.bst.op != .none || s.bst.op2 != .none

/-- `BST_STAT` (R470). -/
def bstStat (s : State) : BitVec 64 :=
  BitVec.ofNat 64 (b2n (bstBusy s) + 2 * b2n s.bst.esusp + 16 * s.bst.res.toNat + 256 * b2n s.bst.locked + 512 * b2n s.bst.pwdset +
    1024 * s.bst.badpwd.toNat + 65536 * s.bst.esect.toNat)

/-- The sector that holds `ADDR`. -/
def bstSector (s : State) : Nat := s.bst.addr.toNat / 4096

/-- Whether a sector is under a suspended erase (R468). -/
def suspSector (s : State) (n : Nat) : Bool := s.bst.esusp && s.bst.esect.toNat == n

/-- Whether a register write of the boot store class is taken: the mask's ports, and the firmware itself (R430, R462,
R470). -/
def bstPort (s : State) (p : Port) : Bool :=
  match p with
  | .supervisor _ _ => true
  | _ => mayWrite s .bstProt p

/-- Whether a write of a boot store register comes in at all: an inert port's does not (R430, R456). -/
def bstReaches (s : State) (p : Port) : Bool :=
  match p with
  | .supervisor _ _ => true
  | _ => reaches s p

/-- A command written to `BST_CMD` reaches the boot store: a port of the class, and nothing else running unless the
command is one that R468 permits (R430, R465). -/
def bstCmd (p : Port) (during : Bool) (f : State → State) (s : State) : State :=
  if !regsLive s || !bstReaches s p then s
  else if !bstPort s p then countDeny s
  else if bstBusy s && !during then bstRes s 4
  else f s

/-- A word that the boot store cannot deliver as stored: its bytes are unspecified (R464, R467). -/
def freeWord32 (s : State) : BitVec 32 := BitVec.ofNat 32 (leNat (freeBytes s 4))

/-- The wait states that a read needs at the clock in use and the lowest supply then present (R464). -/
def waitNeed (s : State) : Nat := (if s.bst.low then [1, 2, 3, 5, 7] else [1, 2, 2, 4, 5]).getD s.bst.clk.val 7

/-- Whether `WS` is enough for a read (R464). -/
def waitOk (s : State) : Bool := decide (waitNeed s ≤ s.bst.wait.toNat)

/-- Operation 0x1 (R464, R465, R467, R468): the word that holds `ADDR`. -/
def bstDoRead (s : State) : State :=
  let n := bstSector s
  let a := s.bst.addr.toNat / 4 * 4
  let put (st : State) (v : BitVec 32) (r : BitVec 4) : State := { st with bst := { st.bst with data := v, res := r } }
  if suspSector s n then
    let s1 := bstRes s 3
    put s1 ((bstStat s1).truncate 32) 3
  else if s.bst.einc.contains n then put (s.draw 4) (freeWord32 s) 2
  else put (s.draw 4) (if waitOk s then BitVec.ofNat 32 (leNat (memGets s.bst.mem a 4)) else freeWord32 s) 0

/-- BST_READ (R465). -/
def execBstRead (p : Port) (s : State) : Res := .next (bstCmd p s.bst.esusp bstDoRead s)

/-- An operation starts; while one runs beside a suspended erase the next program waits for it (R465, R468). -/
def bstStart (s : State) (o : BstOp) : State :=
  if s.bst.op = .none then { s with bst := { s.bst with op := o } }
  else if s.bst.op2 = .none then { s with bst := { s.bst with op2 := o } }
  else bstRes s 4

/-- Operation 0x2 (R465, R467 to R469). -/
def bstDoProgram (s : State) : State :=
  let n := bstSector s
  if sectorProt s n then bstRes s 1
  else if suspSector s n then bstRes s 3
  else if s.bst.einc.contains n then bstRes s 2
  else if s.bst.addr.toNat % 4 ≠ 0 then bstRes s 9
  else bstStart s (.program s.bst.addr.toNat s.bst.data)

/-- BST_PROGRAM (R465). -/
def execBstProgram (p : Port) (s : State) : Res := .next (bstCmd p s.bst.esusp bstDoProgram s)

/-- Operation 0x3: the sector's erase-incomplete bit is set as the erase begins (R465, R466, R468, R469). -/
def bstDoErase (s : State) : State :=
  let n := bstSector s
  if sectorProt s n then bstRes s 1
  else if s.bst.esusp then bstRes s 4
  else { s with bst := { s.bst with op := .erase n, einc := s.bst.einc.filter (· != n) ++ [n] } }

/-- BST_ERASE (R465, R466). -/
def execBstErase (p : Port) (s : State) : Res := .next (bstCmd p false bstDoErase s)

/-- Operation 0x4 (R465). -/
def bstDoSuspend (s : State) : State :=
  match s.bst.op with
  | .erase n => { s with bst := { s.bst with op := .suspend n } }
  | _ => bstRes s 4

/-- BST_SUSPEND (R465, R468). -/
def execBstSuspend (p : Port) (s : State) : Res := .next (bstCmd p true bstDoSuspend s)

/-- Operation 0x5 (R465). -/
def bstDoResume (s : State) : State :=
  if s.bst.esusp then { s with bst := { s.bst with op := .erase s.bst.esect.toNat, esusp := false, res := 0 } } else bstRes s 4

/-- BST_RESUME (R465). -/
def execBstResume (p : Port) (s : State) : Res := .next (bstCmd p false bstDoResume s)

/-- Operation 0x6 (R465, R469). -/
def bstDoProtect (s : State) : State := if s.bst.locked then bstRes s 1 else bstStart s (.protect (bstSector s))

/-- BST_PROTECT (R465). -/
def execBstProtect (p : Port) (s : State) : Res := .next (bstCmd p false bstDoProtect s)

/-- Operation 0x7 (R465, R469). -/
def bstDoClear (s : State) : State := if s.bst.locked then bstRes s 1 else bstStart s .clearProt

/-- BST_CLEAR_PROTECTION (R465). -/
def execBstClearProtection (p : Port) (s : State) : Res := .next (bstCmd p false bstDoClear s)

/-- Operation 0x8 (R465, R469). -/
def bstDoPassword (s : State) : State := if s.bst.locked || s.bst.pwdset then bstRes s 1 else bstStart s (.storePwd s.bst.pwd)

/-- BST_STORE_PASSWORD (R465). -/
def execBstStorePassword (p : Port) (s : State) : Res := .next (bstCmd p false bstDoPassword s)

/-- Operation 0x9 (R465). -/
def bstDoLock (s : State) : State := if s.bst.pwdset then { s with bst := { s.bst with locked := true, res := 0 } } else bstRes s 4

/-- BST_LOCK (R465). -/
def execBstLock (p : Port) (s : State) : Res := .next (bstCmd p false bstDoLock s)

/-- Operation 0xA (R465, R469). -/
def bstDoUnlock (s : State) : State :=
  if s.bst.badpwd = 3 then bstRes s 7
  else if s.bst.pwdset && s.bst.pwd == s.bst.key then { s with bst := { s.bst with locked := false, res := 0 } }
  else { s with bst := { s.bst with badpwd := s.bst.badpwd + 1, res := 7 } }

/-- BST_UNLOCK (R465, R469). -/
def execBstUnlock (p : Port) (s : State) : Res := .next (bstCmd p false bstDoUnlock s)

/-- Operation codes 0x0 and 0xB to 0xF (R465). -/
def bstDoReserved (s : State) : State := bstRes s 8

/-- BST_RESERVED_OP (R465). -/
def execBstReservedOp (p : Port) (op : BitVec 4) (s : State) : Res :=
  .next (if op = 0 ∨ 0xB ≤ op.toNat then bstCmd p false bstDoReserved s else s)

/-- What an operation has done when it ends (R465 to R469); a program that failed leaves its word unspecified. -/
def bstDone (s : State) (o : BstOp) (ok : Bool) : State :=
  match o with
  | .none => s
  | .program a v =>
    if ok then bstRes { s with bst := { s.bst with mem := memOver s.bst.mem a (toLe 4 v.toNat) } } 0
    else bstRes { s.draw 4 with bst := { s.bst with mem := memOver s.bst.mem a (freeBytes s 4) } } 5
  | .erase n => if ok then bstRes (eraseSector s n) 0 else bstRes s 6
  | .suspend n => { s with bst := { s.bst with esusp := true, esect := BitVec.ofNat 14 n, res := 0 } }
  | .protect n => bstRes { s with bst := { s.bst with prot := s.bst.prot.filter (· != n) ++ [n] } } 0
  | .clearProt => bstRes { s with bst := { s.bst with prot := [], protRest := false } } 0
  | .storePwd v => bstRes { s with bst := { s.bst with key := v, pwdset := true } } 0

/-- BST_OPERATION_COMPLETE: the running operation ends, and one that waited starts (R465). -/
def execBstOperationComplete (ok : Bool) (s : State) : Res :=
  let s1 := bstDone s s.bst.op ok
  .next { s1 with bst := { s1.bst with op := s1.bst.op2, op2 := .none } }

/-- What a write of `OP` to `BST_CMD` does (R465). -/
def bstOp (op : BitVec 4) (p : Port) (s : State) : State :=
  match op.toNat with
  | 1 => bstCmd p s.bst.esusp bstDoRead s
  | 2 => bstCmd p s.bst.esusp bstDoProgram s
  | 3 => bstCmd p false bstDoErase s
  | 4 => bstCmd p true bstDoSuspend s
  | 5 => bstCmd p false bstDoResume s
  | 6 => bstCmd p false bstDoProtect s
  | 7 => bstCmd p false bstDoClear s
  | 8 => bstCmd p false bstDoPassword s
  | 9 => bstCmd p false bstDoLock s
  | 10 => bstCmd p false bstDoUnlock s
  | _ => bstCmd p false bstDoReserved s

end Sys2Proof.Machine
end

