-- ==== Sys2Proof/Machine/Media.lean ====
section
/-! DEFINITION. Upkeep of the flash medium (11): failed programs and erases, dies under rebuild, erase suspension, patrol,
relocation, racking, garbage collection and checkpoints. -/

namespace Sys2Proof.Machine

/-- Whether the drive's background work on the medium runs; it pauses in PS4 (R426). -/
def working (s : State) : Bool := firmwareOn s && s.host.ps != 4

/-- Whether a place lies in a flash block. -/
def inBlk (b : FlashBlk) (p : Place) : Bool := p.die == b.die && p.block == b.block

/-- Whether a test picks a page of a run. -/
def hitRun (f : Place → Bool) (r : IdxRun) : Bool := (List.range r.stripes.length).any fun k => f (r.at (4 * k))

/-- The runs in use of which a test picks a page (R378). DESIGN CHOICE: a run moves as a whole (assumption 15). -/
def runsIn (s : State) (f : Place → Bool) : List IdxRun := s.media.runs.filter fun r => hitRun f r && runUsed s r

/-- The places of the codewords that a move of blocks and index pages reads, those of a page one after another. -/
def movePlaces (l : List MBlk) (r : List IdxRun) : List Place :=
  l.map (fun q => q.place) ++ r.flatMap fun x => (List.range (4 * x.stripes.length)).map x.at

/-- Logical blocks of blocks and index pages that move. -/
def moveCount (l : List MBlk) (r : List IdxRun) : Nat := l.length + r.foldl (fun n x => n + 4 * x.stripes.length) 0

/-- A block as its relocation carries it: one that no level reads stays unreadable (R369, R373). -/
def carried (s : State) (q : MBlk) : MBlk := if placeLost s q.place then { q with val := .uncorrectable } else q

/-- The pages that a test picks, left behind by a move, are discarded (R379). -/
def discard (s : State) (f : Place → Bool) : State :=
  { s with nvm := { s.nvm with blocks := s.nvm.blocks.filter fun q => !f q.place }
           media := { s.media with runs := s.media.runs.filter fun r => !hitRun f r } }

/-- The valid pages that `f` picks read by `rd`, moved to the data pool and their old copies discarded; none while no free
superblock outside the last reserve is there (R366, R368, R370, R372, R379). The superblocks `g` picks take no further program. -/
def rehome (s : State) (rd : State → List Place → State) (f : Place → Bool) (g : Sb → Bool) : Option State :=
  let s1 := shut s g
  let l := mappedIn s1 f
  let r := runsIn s1 f
  let t := rd s1 (movePlaces l r)
  (moveBlocks (discard t f) false false (l.map (carried t))).bind fun s2 => moveRuns s2 (r.map (carriedRun t))

/-! ## Failed programs and erases -/

/-- The entry of a retired block (R482, R493, R494). -/
def blockLog (s : State) (b : FlashBlk) : State :=
  logFault s 0x05 7 (BitVec.ofNat 16 b.die.val) 0 (firstLba (mappedIn s (inBlk b))) 0

/-- The earlier pages of a block that do not decode at level 2 or below and that their stripes give back: the spec leaves to the
flash which (R371, R374, assumption 2). -/
def needsRebuild (s : State) (b : FlashBlk) (p : Place) : Bool :=
  inBlk b p && !placeLost s p && (stripeLoss s p).isEmpty && Config.freeBit (s.free + p.stripe)

/-- The codewords at a list of places are read: those that `f` picks are rebuilt from their stripes, the others decode below
(R368, R374). -/
def readSome (f : Place → Bool) (s : State) (l : List Place) : State :=
  l.foldl (fun st p => readOne st p (if f p then 3 else cellsAt st p % 3)) s

/-- Those pages rebuilt from their stripes elsewhere, as far as the data pool has room, with the rest of a run that one of them
belongs to (R371, R374, assumption 15). -/
def rebuildBlock (s : State) (b : FlashBlk) : State :=
  let f := needsRebuild s b
  (rehome (s.draw 2500) (readSome f) f fun _ => false).getD s

/-- FLASH_PROGRAM_FAIL: the data went to another stripe, the block is retired, and its earlier pages are rebuilt where they do
not decode; no read changes (R374, R396). -/
def execFlashProgramFail (b : FlashBlk) (s : State) : Res :=
  if s.media.retBlk.contains b || s.media.dieRet.contains b.die || !firmwareOn s then .next s
  else .next (rebuildBlock (blockLog (retireBlock (countErr s 5 1) b) b) b)

/-- FLASH_ERASE_FAIL: the erase of a block has failed, and the block is retired (R374, R396). -/
def execFlashEraseFail (b : FlashBlk) (s : State) : Res :=
  if s.media.erases.any fun e => e.die == b.die && e.block == b.block then
    let l := s.media.erases.filter fun e => !(e.die == b.die && e.block == b.block)
    .next (blockLog (retireBlock (countErr { s with media := { s.media with erases := l } } 6 1) b) b)
  else .next s

/-! ## Failed dies -/

/-- The swap region's superblocks at a die position (R365). -/
def swapAt (s : State) (pos : Nat) : List Nat :=
  ((List.range 120).map fun b => pos * 9375 + b).filter (fun n => regionOf s n == .swap) ++
  (s.media.moved.filter fun p => p.1 / 9375 == pos && decide (120 ≤ p.1 % 9375) && p.2 == .swap).map fun p => p.1

/-- The flash blocks that die `d` and a die of the same position under rebuild both have in a superblock that was in use
when that die failed, or in the swap region: its stripes lost two pages (R364, R373). -/
def lostWith (s : State) (d : Fin 1536) (r : Fin 1536 × Nat) : List FlashBlk :=
  if r.1 ≠ d ∧ r.1.val % 48 = d.val % 48 then
    let used := (s.media.sbs.filter fun b => b.num / 9375 == d.val % 48 && decide (b.opened ≤ r.2)).map fun b => b.num
    (used ++ swapAt s (d.val % 48)).flatMap fun n => [{ die := d, block := Fin.ofNat 9375 n }, { die := r.1, block := Fin.ofNat 9375 n }]
  else []

/-- Blocks of a die that leave service with it (R372, R395). -/
def dieBlocks (s : State) (d : Fin 1536) : Nat := 9375 - (s.media.retBlk.filter fun b => b.die == d).length

/-- The blocks of a region on a die that are in service when it fails. -/
def dieRegion (s : State) (d : Fin 1536) (g : Region) : Nat :=
  regionAt s (d.val % 48) g - (s.media.retBlk.filter fun b => b.die == d && regionOf s (sbOf b.die b.block) == g).length

/-- A die leaves service with all its blocks, no further page joins their stripes, and its rebuild starts (R364 to R366, R372,
R373). -/
def retireDie (s : State) (d : Fin 1536) : State :=
  if s.media.dieRet.contains d then s
  else
    let s := shut s fun q => q.num / 9375 == d.val % 48
    let n := dieBlocks s d
    let lost := s.media.rebuild.flatMap (lostWith s d)
    let s1 := { s with media := { s.media with
      dieRet := s.media.dieRet ++ [d], blkRet := s.media.blkRet + n, rebuild := s.media.rebuild ++ [(d, s.media.order)]
      erases := s.media.erases.filter fun e => e.die != d } }
    let s2 := [Region.pool, .slc, .swap, .sys].foldl (fun st g => loseCap st g (dieRegion s d g)) (countErr s1 7 n)
    loseBlocks s2 6 (BitVec.ofNat 16 d.val) lost []

/-- DIE_FAILURE (R372, R373, R482, R494). -/
def execDieFailure (die : Fin 1536) (s : State) : Res :=
  if s.media.dieRet.contains die || !s.pins.main then .next s
  else
    let d0 := firstLba (mappedIn s fun p => p.die == die)
    .next (retireDie (logFault s 0x04 6 (BitVec.ofNat 16 die.val) 1 d0 0) die)

/-- Whether a page lies on a die and can still be rebuilt from its stripe. -/
def onDie (s : State) (d : Fin 1536) (p : Place) : Bool := p.die == d && !placeLost s p

/-- DIE_REBUILD_COMPLETE: every valid page of the die has been rebuilt into other superblocks, each read at level 3 (R368,
R372). The rebuild waits while the data pool has no room for them, while a forager is being reset (R27) and without main power
(R516). -/
def execDieRebuildComplete (die : Fin 1536) (s : State) : Res :=
  if firmwareOn s && !flashDown s && s.media.rebuild.any fun r => r.1 == die then
    let f := onDie s die
    match rehome s readPlaces f fun b => b.num / 9375 == die.val % 48 with
    | none => .next s
    | some s1 =>
      let s2 := { s1 with media := { s1.media with rebuild := s1.media.rebuild.filter fun r => r.1 != die } }
      .next (logFault s2 0x04 6 (BitVec.ofNat 16 die.val) 0 (firstLba (mappedIn s f)) 0)
  else .next s

/-! ## Erases -/

/-- The first erase of a die, which is the one that runs or is suspended. -/
def dieErase (s : State) (d : Fin 1536) : Option Erase := s.media.erases.find? fun e => e.die == d

/-- The first erase of a die replaced, or taken out of the list. -/
def putErase (d : Fin 1536) (x : Option Erase) : List Erase → List Erase
  | [] => []
  | e :: t => if e.die = d then x.toList ++ t else e :: putErase d x t

/-- The state with the first erase of a die replaced. -/
def setErase (s : State) (d : Fin 1536) (x : Option Erase) : State :=
  { s with media := { s.media with erases := putErase d x s.media.erases } }

/-- ERASE_SUSPEND: a read waits for the die, and its erase has been suspended fewer than 16 times (R390, R396 class 9). -/
def execEraseSuspend (die : Fin 1536) (s : State) : Res :=
  match dieErase s die with
  | none => .next s
  | some e =>
    if e.halted ∨ 16 ≤ e.susp ∨ foragerDown s (chanOf die) = true then .next s
    else .next (countErr (setErase s die (some { e with halted := true, susp := e.susp + 1 })) 9 1)

/-- ERASE_RESUME: no read waits for the die any more (R390). -/
def execEraseResume (die : Fin 1536) (s : State) : Res :=
  match dieErase s die with
  | none => .next s
  | some e => if e.halted && !foragerDown s (chanOf die) then .next (setErase s die (some { e with halted := false })) else .next s

/-- ERASE_COMPLETE: the erase has run to its end, and its record is durable (R390, R391, R393). -/
def execEraseComplete (die : Fin 1536) (s : State) : Res :=
  match dieErase s die with
  | none => .next s
  | some e =>
    if e.halted || foragerDown s (chanOf die) then .next s
    else
      let b : FlashBlk := { die := e.die, block := e.block }
      let s1 := setErase s die none
      .next { s1 with media := { s1.media with einc := s1.media.einc.filter (· != b), wear := addWear b e.slc s1.media.wear } }

/-- Erases of a superblock's blocks begin, each one flash operation (R329, R383 item 3, R389). -/
def startErases (s : State) (num : Nat) (slc : Bool) : State :=
  let l := (sbChans s num).map fun n =>
    ({ die := dieAt n (num / 9375), block := Fin.ofNat 9375 num, slc := slc, susp := 0, halted := false } : Erase)
  { s.tickSeqs l.length with media := { s.media with erases := s.media.erases ++ l } }

/-- A victim whose valid pages have been moved is free, its erase starts, and the regions take what they lack (R365, R383,
R388). -/
def reclaim (s : State) (b : Sb) : State := keepCaps (startErases (freeSb s b) b.num b.slc)

/-! ## Patrol and relocation -/

/-- The page that a patrol finds at level 4 and the other page of its stripe that is lost with it: that of a die under rebuild,
else a programmed page of another block of the superblock (R373). Which page the patrol read, and which other block it is then, are free
(assumption 2). -/
def patrolLoss (s : State) (b : FlashBlk) : List (FlashBlk × Nat) :=
  let l := stripesIn s b
  let k := l.getD ((Config.freeWord s.free).toNat % l.length) 0
  let num := sbOf b.die b.block
  let dead := (s.media.rebuild.filter fun r =>
    r.1 != b.die && r.1.val % 48 == b.die.val % 48 && decide (openedAt s num ≤ r.2)).map fun r => r.1
  let rest := ((sbChans s num).map fun n => dieAt n (num / 9375)).filter fun d =>
    d != b.die && (stripesIn s { die := d, block := b.block }).contains k
  let d := match dead with
    | d :: _ => d
    | [] => rest.getD ((Config.freeWord (s.free + 1)).toNat % rest.length) b.die
  [(b, k), ({ die := d, block := b.block }, k)]

/-- Whether a block may hold pages of the brood mirror: it lies in the SLC write region, in no superblock in use for data, and the
mirror has superblocks (R253, R376). Which they are the model does not say (assumption 15). -/
def mirrorBlk (s : State) (b : FlashBlk) : Bool :=
  let n := sbOf b.die b.block
  regionOf s n == .slc && s.media.mirSb != 0 && !(s.media.sbs.any fun q => q.num == n)

/-- PATROL_READ: a page of a block is read, and the decode level that it reached is counted (R329, R368, R370, R391, R396).
From level 2 on the block is to be relocated; level 4 means that the stripe lost a second page (R373). Of a page of the brood mirror
the loss is logged, and has no other effect. It waits while its channel's forager is being reset (R27). -/
def execPatrolRead (b : FlashBlk) (level : Fin 5) (s : State) : Res :=
  let s1 := ((noteLevel s b level.val 2).draw 3).tickSeq
  if !working s || foragerDown s (chanOf b.die) then .next s
  else if s.media.erases.any fun e => e.die == b.die && e.block == b.block then
    .next { s with media := { s.media with einc := s.media.einc.filter (· != b) ++ [b] } }
  else if stripesIn s b = [] then
    .next (if !mirrorBlk s b then s
      else if level.val = 4 then logFault s1 0x06 7 (BitVec.ofNat 16 b.die.val) 2 0 0 else s1)
  else
    .next (if level.val = 4 then loseBlocks s1 7 (BitVec.ofNat 16 b.die.val) [] (patrolLoss s b) else s1)

/-- RELOCATION: the valid data of a block marked by R370 has been moved (R370, R379, R396 class 8). -/
def execRelocation (b : FlashBlk) (s : State) : Res :=
  if working s && !flashDown s && s.media.reloc.contains b then
    match rehome s readPlaces (inBlk b) fun q => q.num == sbOf b.die b.block with
    | none => .next s
    | some s1 => .next (countErr { s1 with media := { s1.media with reloc := s1.media.reloc.filter (· != b) } } 8 1)
  else .next s

/-! ## Racking and garbage collection -/

/-- Whether at least 75 % of the SLC write region is occupied, by host data or by the brood mirror (R376, R377). DESIGN CHOICE:
the part is taken in superblocks (assumption 15). -/
def slcCrowded (s : State) : Bool := decide (3 * slcSize s ≤ 4 * ((s.media.sbs.filter fun b => b.slc).length + s.media.mirSb))

/-- The SLC superblock that racking empties: the drive chooses (assumption 15). -/
def rackVictim (s : State) : Option Sb :=
  minBy (fun b => b2n (!b.closed) * (s.media.order + 1) + b.closedAt) (s.media.sbs.filter fun b => b.slc)

/-- A victim's valid pages read and moved into the data pool, the victim free and under erase, with the number of logical
blocks moved. -/
def emptySb (s : State) (b : Sb) : Option (State × Nat) :=
  let s1 := shut s fun q => q.num == b.num
  let l := sbValid s1 b.num
  let r := runsIn s1 fun p => p.sb == b.num
  let t := readPlaces s1 (movePlaces l r)
  ((moveBlocks t false false (l.map (carried t))).bind fun s2 => moveRuns s2 (r.map (carriedRun t))).map fun s3 =>
    (reclaim s3 b, moveCount l r)

/-- RACKING (R376, R377, R379, R388, R395). -/
def execRacking (s : State) : Res :=
  if working s && !flashDown s && (slcCrowded s || s.media.idle) then
    match (rackVictim s).bind (emptySb s) with
    | none => .next s
    | some p => .next (wakeParked { p.1 with media := { p.1.media with racked := satAdd p.1.media.racked p.2 } })
  else .next s

/-- HOST_WRITE_IDLE: no host write for 10 ms (R377, R516). -/
def execHostWriteIdle (s : State) : Res :=
  .next (if firmwareOn s then { s with media := { s.media with idle := true } } else s)

/-- The garbage collection victim: the closed data-pool superblock with the fewest valid pages, among equals the one
closed earliest (R378). -/
def gcVictim (s : State) : Option Sb :=
  minBy (fun b => validPages s b.num * (s.media.order + 1) + b.closedAt) (s.media.sbs.filter fun b => !b.slc && b.closed)

/-- GARBAGE_COLLECTION (R378 to R380, R388, R395): at the background share below 128 free superblocks outside the last reserve,
in the foreground below 32. -/
def execGarbageCollection (s : State) : Res :=
  if working s && !flashDown s && decide (s.media.poolFree < 128) then
    match (gcVictim s).bind fun v => (emptySb s v).map fun p => (sbCap s v, p) with
    | none => .next s
    | some (room, p) =>
      let credit := if foreground p.1 then p.1.media.credit + (room - p.2) else 0
      .next (wakeParked { p.1 with media := { p.1.media with gcMoved := satAdd p.1.media.gcMoved p.2, credit := credit } })
  else .next s

/-- The map as a checkpoint holds it (R381, R384). -/
def mapNow (s : State) : List MapEnt :=
  (s.nvm.blocks.filter (mapped s)).map fun b => { key := b.key, dseq := b.dseq, place := b.place }

/-- Whether a checkpoint is due: 64 superblocks have been opened since the previous one, or 10 s have passed (R384). -/
def ckptDue (s : State) : Bool := decide (64 ≤ s.media.opened) || decide (s.media.ckptAt + 10000000000 ≤ s.time.now.toNat)

/-- CHECKPOINT: the map pages changed since the previous one are durable in the other slot, and the journal before it is
free again (R383 item 4, R384). -/
def execCheckpoint (s : State) : Res :=
  if s.rst.phase = .run ∧ ckptDue s = true then
    .next { s with media := { s.media with
      ckptSlot := !s.media.ckptSlot, ckptGen := s.media.ckptGen + 1, opened := 0, journal := 0, ckptAt := s.time.now.toNat
      ckptOrd := s.media.order
      ckpts := s.media.ckpts.set (b2n (!s.media.ckptSlot) % 2) (mapNow s) (Nat.mod_lt _ (by decide)) } }
  else .next s

end Sys2Proof.Machine
end

