-- ==== Sys2Proof/Machine/Upkeep.lean ====
section
/-! DEFINITION. Upkeep of the memories (08, R281 to R296; 15, R487, R490): the scrubber, the correctable-error tables,
poison found by the drive itself, repair from spares, and the repair of a failed array, which R292 shares with 15. -/

namespace Sys2Proof.Machine

/-- The active array that a physical array carries. -/
def activeOf (s : State) (phys : Fin 200) : Option ArrId := allArr.find? fun a => (s.arr a).inserv && (s.arr a).phys.toNat == phys.val

/-- The scope and unit of an SRAM word: its active array, its channel, or the drive for an idle spare array (R494). -/
def sramScope (s : State) (pl : EccPlace) : BitVec 8 × BitVec 16 :=
  match pl with
  | .comb p _ => match activeOf s p with
    | some a => (4, BitVec.ofNat 16 a.val)
    | none => (0, 0)
  | .forager n _ => (5, BitVec.ofNat 16 n.val)
  | .tier _ => (0, 0)

/-- The word of a place, by its offset. -/
def wordOf (pl : EccPlace) : EccPlace :=
  match pl with
  | .comb p o => .comb p (o / 8 * 8)
  | .forager n o => .forager n (o / 8 * 8)
  | .tier p => .tier p

/-- An SRAM word that its code does not correct is poisoned and logged (R287). -/
def failWord (s : State) (pl : EccPlace) : State :=
  if s.tiers.sramPoison.contains (wordOf pl) then s
  else
    let s1 := { s with tiers := { s.tiers with sramPoison := wordOf pl :: s.tiers.sramPoison } }
    logFault (countErr s1 17 1) 0x0D (sramScope s pl).1 (sramScope s pl).2 3 (BitVec.ofNat 64 (ceAddr s pl 0)) 0

/-! ## The scrubber -/

/-- A comb SRAM row with an error: the second within a lap, or one that is not corrected, marks it for repair (R292). -/
def noteRow (s : State) (pl : EccPlace) (hard : Bool) : State :=
  match pl with
  | .comb p o =>
    let r : Fin 200 × Nat := (p, Config.rowOf (o / 8 * 8))
    if hard || s.tiers.rowHits.contains r then
      { s with tiers := { s.tiers with rowMark := s.tiers.rowMark.filter (· != r) ++ [r] } }
    else { s with tiers := { s.tiers with rowHits := s.tiers.rowHits ++ [r] } }
  | _ => s

/-- What the scrub of one place finds and does (R284, R286, R287, R295). -/
def scrubOne (s : State) (pl : EccPlace) (r : EccResult) : State :=
  match ceTableOf s pl with
  | none => s
  | some k =>
    match r with
    | .clean => s
    | .secded b => noteRow (enterCe (countErr s (ceClass k) 1) pl 0 b.val) pl false
    | .pageCode n => if n = 0 ∨ 1 < k.val then s else enterCe (countErr s (ceClass k + 1) 1) pl 1 n.val
    | .uncorrectable =>
      match pl with
      | .tier p => failCode s p
      | _ => noteRow (failWord s pl) pl true

/-- One more lap of a scrub register. -/
def lapDone (x : Scrub) : Scrub := { x with laps := x.laps + 1 }

/-- A lap ends with the highest code page of a tier's window, and for SRAM with the last word of physical array 199
(R295, R296, assumption 20). -/
def endLap (s : State) (pl : EccPlace) : State :=
  match pl with
  | .tier p =>
    if p = Config.tierFBase / 2048 - 1 then { s with tiers := { s.tiers with scrubN := lapDone s.tiers.scrubN } }
    else if p = Config.tierXBase / 2048 - 1 then { s with tiers := { s.tiers with scrubF := lapDone s.tiers.scrubF } }
    else s
  | .comb p o =>
    if p.val = 199 ∧ o / 8 * 8 = Config.bufBytes + Config.accBytes - 8 then
      { s with tiers := { s.tiers with scrubS := lapDone s.tiers.scrubS, rowHits := [] } }
    else s
  | .forager _ _ => s

/-- The lap time of a place's scrub; 0 stops it (R296). -/
def lapTime (s : State) (pl : EccPlace) : BitVec 32 :=
  match pl with
  | .tier p => if p < Config.tierFBase / 2048 then s.tiers.scrubN.lap else s.tiers.scrubF.lap
  | _ => s.tiers.scrubS.lap

/-- Whether the block behind a place is being reset: the tier controller of a page, the cluster of an array, or a forager (R27). -/
def placeDown (s : State) (pl : EccPlace) : Bool :=
  match pl with
  | .tier p => rangeDown s (p * 2048, (p + 1) * 2048)
  | .comb p _ => (activeOf s p).any fun a => blockDown s (clusterOf a)
  | .forager n _ => foragerDown s n

/-- SCRUB_PAGE: the scrubber reads, corrects and writes back one code page or SRAM word (R281 to R287, R295, R296). It
pauses in PS4 (R426), and where it needs a block that is being reset (R27). -/
def execScrubPage (pl : EccPlace) (r : EccResult) (s : State) : Res :=
  if working s && !placeDown s pl && lapTime s pl != 0 then .next (endLap (scrubOne s pl r) pl) else .next s

/-! ## A failed array -/

/-- The lower of a reticle field's two spares that carries no active number and has not failed; an array that the fuse map
retired is no spare (R19 to R21). -/
def freeSpare (s : State) (f : Nat) : Option (Fin 200) :=
  [Fin.ofNat 200 (50 * f + 48), Fin.ofNat 200 (50 * f + 49)].find? fun p => !s.badPhys.contains p && (activeOf s p).isNone

/-- The save area of an array that is withdrawn closes up, so that each remaining array of the cluster finds what it
saved (R308, R487). -/
def dropSave (s : State) (a : ArrId) : State :=
  let o := saveAddr s a
  let e := Config.saveBase + clusterOf a * 23068672 + 16 * saveBytes
  let out (x : Nat) : Bool := decide (o ≤ x) && decide (x < o + saveBytes)
  let down (x : Nat) : Nat := if o + saveBytes ≤ x ∧ x < e then x - saveBytes else x
  { s with tiers := { s.tiers with
      mem := (s.tiers.mem.filter fun c => !out c.1).map fun c => (down c.1, c.2)
      poison := (s.tiers.poison.filter fun p => !out (p * 2048)).map fun p => down (p * 2048) / 2048 } }

/-- The context that a failed array takes down: the Running one, or the holder, whose state the array holds (R487). -/
def arrayCtx (s : State) (a : ArrId) : Option CtxId :=
  match allPart.find? fun p => ownsCluster s p (clusterOf a) with
  | some p => (runningOf s p) <|> (s.part p).holder
  | none => none

/-- A failed array: its context faults, and a spare stands in or the active number is withdrawn (R20, R482, R487, R493). -/
def failArray (s : State) (phys : Fin 200) (cls : BitVec 8) : State :=
  let s1 := { s with badPhys := s.badPhys ++ [phys] }
  let d (v : Nat) : BitVec 64 := if cls = 0x02 then BitVec.ofNat 64 v else 0
  match activeOf s phys with
  | none => logFault s1 cls 0 0 3 (d phys.val) (d (2 ^ 64 - 1))
  | some a =>
    let s2 := match arrayCtx s1 a with
      | some c => faultCtx s1 c .unitFail (BitVec.ofNat 8 a.val) 0 0
      | none => s1
    let x := s2.arr a
    let unit := BitVec.ofNat 16 a.val
    match freeSpare s2 (a.val / 48) with
    | some q =>
      let y := { x with phys := BitVec.ofNat 8 q.val, spare := true, buf := [], acc := [], exc := AExc.clear }
      logFault (s2.setArr a y) cls 4 unit 0 (d phys.val) (d q.val)
    | none =>
      let y := { x with phys := 0xFF, inserv := false, spare := false, buf := [], acc := [], exc := AExc.clear }
      logFault ((dropSave s2 a).setArr a y) cls 4 unit 2 (d phys.val) (d (2 ^ 64 - 1))

/-- ARRAY_FAILURE (R487); without main power no array runs (R516). -/
def execArrayFailure (phys : Fin 200) (s : State) : Res :=
  if s.badPhys.contains phys || !s.pins.main then .next s else .next (failArray s phys 0x02)

/-! ## Rows -/

/-- Whether an array holds the state of a context (R292, R300). -/
def holdsState (s : State) (a : ArrId) : Bool := allPart.any fun p => ownsCluster s p (clusterOf a) && (s.part p).holder.isSome

/-- SRAM_ROW_REPAIR: a marked row switches to a spare of its bank; with none left, the array is reported failed (R292,
R294, R482, R487). Without main power no array is there to repair (R516). -/
def execSramRowRepair (pl : EccPlace) (s : State) : Res :=
  match pl with
  | .comb p o =>
    let r : Fin 200 × Nat := (p, Config.rowOf (o / 8 * 8))
    let bank : Fin 200 × Nat := (p, r.2 / 512)
    if !s.pins.main || !s.tiers.rowMark.contains r || s.badPhys.contains p || (activeOf s p).elim false (holdsState s) then .next s
    else
      let t : Tiers := { s.tiers with rowMark := s.tiers.rowMark.filter (· != r) }
      if (t.rowUsed.filter (· == bank)).length < 2 then
        .next { s with tiers := { t with rowUsed := t.rowUsed ++ [bank], sprUsed := satInc t.sprUsed, sprLeft := BitVec.ofNat 16 (t.sprLeft.toNat - 1) } }
      else .next (failArray { s with tiers := t } p 0x0C)
  | _ => .next s

/-- A frame taken in a stack, or in Tier F, for the page of another one there (R293, assumption 20). -/
def takeDram (s : State) (stk : Option (Fin 4)) : Option State :=
  match stk with
  | some k => (takeN s (movingPages s) (1 <<< k.val)).map fun r => r.1
  | none => takeF s (movingPages s)

/-- Frames taken one after another. -/
def takeMany (stk : Option (Fin 4)) : Nat → State → Option State
  | 0, s => some s
  | n + 1, s => (takeDram s stk).bind (takeMany stk n)

/-- Frames that leave the pool for good, with the admission limit (R264, R293, R294). -/
def retireFrames (s : State) (stk : Option (Fin 4)) (n : Nat) : State :=
  { s with tiers := { s.tiers with
      goneN := match stk with
        | some k => s.tiers.goneN.set k (s.tiers.goneN[k] + n)
        | none => s.tiers.goneN
      goneF := if stk.isNone then s.tiers.goneF + n else s.tiers.goneF
      limit := s.tiers.limit - n, rprRet := satAdd s.tiers.rprRet n } }

/-- DRAM_ROW_REPAIR: the pages of a failing row move to other frames; the row is repaired and its frames return, or they
are retired (R293, R294, R482). It waits while no other frame can be had (R267) and while the tier controller is being reset
(R27); without main power the DRAM holds nothing (R516). -/
def execDramRowRepair (frames : List Nat) (site : BitVec 8) (spare : Bool) (s : State) : Res :=
  let n := frames.eraseDups.length
  let tierN := decide (site.toNat < 4)
  let down := blockDown s (if tierN then 0x30 + site.toNat else 0x38 + (site.toNat - 0x10) / 2)
  if (!tierN && !(decide (0x10 ≤ site.toNat) && decide (site.toNat < 0x1E))) || !s.pins.main || down then .next s
  else
    let k : Fin 4 := Fin.ofNat 4 site.toNat
    let stk := if tierN then some k else none
    match takeMany stk n s with
    | none => .next s
    | some s1 =>
      let t := s1.tiers
      if spare then
        let t1 := if tierN then { t with freeN := t.freeN.set k (t.freeN[k] + n), rprStk := t.rprStk.set k (satInc t.rprStk[k]) }
          else { t with freeF := t.freeF + n, rprPkg := satInc t.rprPkg }
        .next { s1 with tiers := t1 }
      else .next (logFault (retireFrames s1 stk n) 0x0B 9 (site.zeroExtend 16) 0 0 0)

end Sys2Proof.Machine
end

