-- ==== Sys2Proof/Machine/Failures.lean ====
section
/-! DEFINITION. Failures of a Tier F package, a Tier N stack and a forager (15, R488, R490, R491). Without
main power only the always-on domain runs, and nothing of these fails in service (17, R516). -/

namespace Sys2Proof.Machine

/-! ## A Tier F package -/

/-- A frame for a page whose own is gone: in Tier F, else in swap, where demotion finds no other room (R267, R490). A page that
finds none has no frame until it is touched. -/
def reframe (s : State) (no : Nat) : State :=
  match takeF s (movingPages s) with
  | some s1 => setLoc s1 no .tierF
  | none =>
    match takeSwap s with
    | some s1 => setLoc s1 no .swap
    | none => setLoc s no .dropped

/-- A page whose frame is lost with a package: its code pages are restored or poisoned, and prefetches of those that are
poisoned have lost their tier (R278, R286, R287, R290, R490). -/
def losePage (p : Fin 14) (s : State) (no : Nat) : State :=
  let s1 := (codePages no).foldl (fun st k => failCodeAt (st.draw 1) k (some (0x10 + p.val))) s
  ((codePages no).filter fun k => s1.tiers.poison.contains k).foldl (fun st k => failPrefs st (k * 2048, (k + 1) * 2048)) s1

/-- Pages whose frames are gone give them up together, and then each takes another frame: none takes the lost frame of
another (R267, R490). -/
def reframeAll (s : State) (l : List Nat) : State := l.foldl reframe (l.foldl (fun st no => setLoc st no .none) s)

/-- TIER_F_PACKAGE_FAILURE: `lost` names the pages with frames in the package (R264, R482, R490). -/
def execTierFPackageFailure (p : Fin 14) (lost : List Nat) (s : State) : Res :=
  if s.tiers.pkgFail.contains p || !s.pins.main then .next s
  else
    let mine := (s.tiers.pages.filter fun q => q.loc == .tierF && lost.contains q.no).map fun q => q.no
    let s1 := retireFrames s none 32768
    let s2 := { s1 with tiers := { s1.tiers with
      pkgFail := s1.tiers.pkgFail ++ [p], freeF := s1.tiers.freeF - (32768 - mine.length) } }
    let s3 := logFault s2 0x09 9 (BitVec.ofNat 16 (0x10 + p.val)) 0 0 0
    .next (reframeAll (mine.foldl (losePage p) s3) mine)

/-! ## A Tier N stack -/

/-- Every command of a context ends: those queued as denied, the running step with a fault (R491). -/
def stackCtx (s : State) (c : CtxId) : State :=
  let s1 := flushQueue s c .operationDenied
  if (s.ctx c).cur.isSome then faultCtx s1 c .unitFail 0xE1 0 0 else s1

/-- Hive-wide commands that no query carries yet end as denied (R350, R491). -/
def denyHive (s : State) : State :=
  let l := s.fab.cmds.filter fun m => !m.sent
  l.foldl (fun st m => completeSt st (hostHdr m.sq m.cid) .operationDenied)
    { s with fab := { s.fab with cmds := s.fab.cmds.filter fun m => m.sent } }

/-- TIER_N_STACK_FAILURE: every running step faults, and programs and execution are denied until cold reset (R482, R491). -/
def execTierNStackFailure (st : Fin 4) (s : State) : Res :=
  if !s.pins.main then .next s
  else
    let s1 := { s with tiers := { s.tiers with stkFail := true } }
    let s2 := logFault s1 0x0A 9 (BitVec.ofNat 16 st.val) 2 0 0
    .next (wakeParked (denyHive (allCtx.foldl stackCtx s2)))

/-! ## A forager -/

/-- The indexes whose lists use a channel are to be merged without it (R254, R488). -/
def dropChannel (s : State) (n : ChanId) (k : IdxId) : State :=
  let x := s.index k
  if x.live && x.chanMask.getLsbD n.val then
    queueMerge (s.setIndex k { x with dropChan := x.dropChan ||| (1 <<< n.val) }) k
  else s

/-- FORAGER_FAILURE: the channel leaves service as its 48 dies, and every index on it is merged anew (R482, R488). -/
def execForagerFailure (n : ChanId) (s : State) : Res :=
  if (s.fgr n).retired || !s.pins.main then .next s
  else
    let s1 := logFault (s.setFgr n { s.fgr n with retired := true }) 0x03 5 (BitVec.ofNat 16 n.val) 1 0 0
    let s2 := ((List.range 48).map (dieAt n)).foldl retireDie s1
    .next (allIdx.foldl (fun st k => dropChannel st n k) s2)

end Sys2Proof.Machine
end

