-- ==== Sys2Proof/Machine/Frames.lean ====
section
/-! DEFINITION. Received Hornak frames (10, R331, R332, R335, R336), what each message does (R337, R338, R340, R341,
R344, R351, R353 to R358, R360, R361), and the timers of discovery and election. -/

namespace Sys2Proof.Machine

/-! ## Acceptance -/

/-- Whether a stamp lies from 1 s older to 1 ms newer than the drive's own (R331, R332). -/
def stampIn (own v : BitVec 48) : Bool := decide ((own - v).toNat ≤ 1000000000) || decide ((v - own).toNat ≤ 1000000)

/-- `VER` and the reserved fields (R333). -/
def frameFieldsOk (f : FrameHdr) : Bool :=
  f.ver == 1 && f.rsvA == 0 && f.rsvB == 0 && decide (f.src.toNat < 4096) &&
  (if f.dst.getLsbD 15 then f.dst == toAll else decide (f.dst.toNat < 4096))

/-- Whether the joined hive sent a frame. -/
def sameHive (s : State) (f : FrameHdr) : Bool := f.hive == s.fab.hive && s.fab.hive != 0

/-- Whether the same frame was accepted within the last 1 ms (R335 item 8). -/
def isRepeat (s : State) (typ : BitVec 8) (f : FrameHdr) : Bool :=
  s.fab.recent.any fun r => r.src == f.src && r.typ == typ && r.stamp == f.stamp && r.seq == f.seq &&
    decide (s.time.now.toNat ≤ r.seenAt.toNat + 1000000)

/-- The checks of R335 in their order; the first that fails drops the frame. -/
def frameOk (s : State) (typ : BitVec 8) (f : FrameHdr) : Bool :=
  frameFieldsOk f && decide (1 ≤ typ.toNat ∧ typ.toNat ≤ 15) && (typ == 1 || sameHive s f) &&
  (f.dst == toAll || f.dst == toNode s.fab.node) && stampIn (stampOf s) f.stamp &&
  (typ == 1 || newerEq f.epoch s.fab.epoch) &&
  (decide (typ.toNat < 3) || decide (8 < typ.toNat) || (match s.fab.sched with
    | some q => f.sgen == q.sgen
    | none => false)) &&
  !isRepeat s typ f

/-- A frame is remembered for 1 ms (R335 item 8). -/
def remember (s : State) (typ : BitVec 8) (f : FrameHdr) : State :=
  let old := s.fab.recent.filter fun r => decide (s.time.now.toNat ≤ r.seenAt.toNat + 1000000)
  { s with fab := { s.fab with recent := old ++ [{ src := f.src, typ := typ, stamp := f.stamp, seq := f.seq, seenAt := s.time.now }] } }

/-- The sender's node ID. -/
def srcNode (f : FrameHdr) : BitVec 12 := f.src.truncate 12

/-- A segment joins its message; a message that is whole is taken out and acted on (R336). -/
def assemble (s : State) (typ : BitVec 8) (f : FrameHdr) (pl : Bytes) (act : State → FrameHdr → Bytes → State) : State :=
  if f.segcnt.toNat ≤ 1 then act s f pl
  else
    let mine (a : Asm) : Bool := a.src == srcNode f && a.typ == typ && a.msg == f.msg
    let a := (s.fab.asm.find? mine).getD
      { src := srcNode f, typ := typ, msg := f.msg, first := f, begun := s.time.now, parts := [] }
    let parts := a.parts.filter (fun p => p.1 != f.segno.toNat) ++ [(f.segno.toNat, pl)]
    let a' := { a with first := if f.segno = 0 then f else a.first, parts := parts }
    let rest := s.fab.asm.filter fun q => !mine q
    if parts.length = f.segcnt.toNat then
      act { s with fab := { s.fab with asm := rest } } a'.first ((sortBy (fun p => p.1) parts).flatMap fun p => p.2)
    else { s with fab := { s.fab with asm := rest ++ [a'] } }

/-- The addresses that a port receives with: its lowest lane's, or in degraded operation those of the good lanes (R324,
R325), and every group address of R334. -/
def hearsMac (s : State) (p : Fin 2) (m : BitVec 48) : Bool :=
  m.toNat / 65536 == 0x034B5248 ||
    (if s.fab.ports[p].degr then portLanes s p else [Fin.ofNat 8 (4 * p.val)]).any fun l => s.otp.macs[l] == m

/-- A frame arrives on a port whose link is up. PAUSE, PFC and gPTP frames, and frames to other stations, are none of
Hornak's; one of another EtherType or longer than 8,262 bytes is dropped and counted (R323); the rest meets the checks of
R335 and joins its message (R336). A drive without an entry in the active schedule takes part in no hive: but for
`ANNOUNCE` and `SCHEDULE`, what it accepts does nothing (R337). -/
def receive (s : State) (p : Fin 2) (typ : BitVec 8) (f : FrameHdr) (pl : Bytes) (act : State → FrameHdr → Bytes → State) : Res :=
  .next (
    if s.rst.phase ≠ .run ∨ s.fab.ports[p].link = false then s
    else if f.etype = 0x8808 ∨ f.etype = 0x88F7 ∨ hearsMac s p f.dstMac = false then s
    else if f.etype ≠ 0x88B5 ∨ 8192 < pl.length then countRx s p
    else if !frameOk s typ f then countRx s p
    else if 2 < typ.toNat ∧ excluded s = true then remember s typ f
    else assemble (remember s typ f) typ f pl act)

/-- RESERVED_FRAME: a frame of a reserved type is dropped and counted (R334, R335). -/
def execReservedFrame (p : Fin 2) (typ : BitVec 8) (f : FrameHdr) (pl : Bytes) (s : State) : Res :=
  receive s p (if 1 ≤ typ.toNat ∧ typ.toNat ≤ 15 then 0 else typ) f pl fun s1 _ _ => s1

/-- The 64-bit round that the low 32 bits of a frame name, nearest to the present one (R331, R346). -/
def roundOf (s : State) (v : BitVec 32) : BitVec 64 :=
  let d := (v - s.fab.round.truncate 32).toInt
  BitVec.ofInt 64 ((s.fab.round.toNat : Int) + d)

/-! ## Discovery and election -/

/-- An `ANNOUNCE` message (R337), whose GiB-lent field a keeper learns (R342). -/
def annOf (f : FrameHdr) (b : Bytes) : Ann :=
  { node := srcNode f, eui := BitVec.ofNat 64 (fieldAt b 0 8), prio := BitVec.ofNat 8 (fieldAt b 8 1), st := BitVec.ofNat 8 (fieldAt b 9 1)
    lanes := BitVec.ofNat 8 (fieldAt b 11 1), sgen := BitVec.ofNat 32 (fieldAt b 12 4), gib := BitVec.ofNat 16 (fieldAt b 16 2), epoch := f.epoch }

/-- A learned address (R338). -/
def learn (s : State) (p : Fin 2) (f : FrameHdr) : State :=
  let old := (s.fab.routes.find? fun r => r.node == srcNode f).getD
    { node := srcNode f, v0 := false, mac0 := 0, v1 := false, mac1 := 0, static := false }
  if old.static then s
  else putRoute s (if p = 0 then { old with v0 := true, mac0 := f.srcMac } else { old with v1 := true, mac1 := f.srcMac })

/-- An election key: the lower wins (R341). -/
def electKey (prio : BitVec 8) (eui : BitVec 64) : Nat := prio.toNat * 2 ^ 64 + eui.toNat

/-- Whether an announcement's key is lower than the drive's own (R341). -/
def lowerKey (s : State) (a : Ann) : Bool := decide (electKey a.prio a.eui < electKey s.fab.prio s.otp.eui)

/-- The drive is a member under a keeper (R341). -/
def follow (s : State) (a : Ann) : State :=
  { s with fab := { s.fab with st := .member, epoch := a.epoch, knode := a.node } }

/-- The state of the election after an announcement of the joined hive is heard (R341); a drive without an entry in the
active schedule takes no part (R337). -/
def hear (s : State) (a : Ann) : State :=
  if excluded s then s else match s.fab.st with
  | .listening => if a.st = 6 ∧ newerEq a.epoch s.fab.epoch then follow s a else s
  | .member => if a.st = 6 ∧ newerEq a.epoch s.fab.epoch then follow s a else s
  | .candidate =>
    if a.st = 6 ∨ (a.st = 4 ∧ lowerKey s a) then { s with fab := { s.fab with st := .listening } } else s
  | .keeper =>
    if a.st = 6 ∧ (newer a.epoch s.fab.epoch ∨ (a.epoch = s.fab.epoch ∧ lowerKey s a)) then follow s a else s
  | _ => s

/-- A node ID conflict: the drive with the higher EUI-64 leaves the hive, and a fault is logged (R340, R482). -/
def conflict (s : State) : State :=
  let s1 := logFault s 0x11 11 (toNode s.fab.node) 2 0 0
  outOfHive s1 .conflict

/-- The length and the reserved bytes of an `ANNOUNCE` (R14, R337). -/
def annOk (b : Bytes) : Bool := b.length == 32 && zeroAt b 18 14

/-- ANNOUNCE (R337, R338, R340, R341). One of another hive teaches its address only: no two drives of one hive have then announced
one node ID (R335 item 3, R340). -/
def execAnnounce (p : Fin 2) (f : FrameHdr) (pl : Bytes) (s : State) : Res :=
  receive s p 1 f pl fun s1 f1 b =>
    let a := annOf f1 b
    let s2 := learn s1 p f1
    if !annOk b then countRx s1 p
    else if !sameHive s2 f1 then s2
    else if a.node = s2.fab.node ∧ s2.otp.eui.toNat > a.eui.toNat then conflict s2
    else
      let s3 := { s2 with fab := { s2.fab with
        anns := s2.fab.anns.filter (fun q => q.node != a.node) ++ [a]
        heard := if newer a.epoch s2.fab.heard then a.epoch else s2.fab.heard } }
      hear s3 a

/-- ELECTION_TIMEOUT: 300 ms pass without what the state waits for (R337, R341). -/
def execElectionTimeout (s : State) : Res :=
  let f := s.fab
  .next (if excluded s then s else match f.st with
    | .listening => if f.prio = 255 then s else { s with fab := { f with st := .candidate } }
    | .member => if f.prio = 255 then s else { s with fab := { f with st := .candidate } }
    | .candidate =>
      let e := (if newer f.heard f.epoch then f.heard else f.epoch) + 1
      { s with fab := { f with st := .keeper, epoch := e, knode := f.node } }
    | _ => s)

/-- ROUTE_ENTRY_EXPIRY: a learned address that nothing refreshed for 1 s (R338). -/
def execRouteEntryExpiry (node : BitVec 12) (p : Fin 2) (s : State) : Res :=
  .next { s with fab := { s.fab with routes := s.fab.routes.map fun r =>
    if r.node = node ∧ r.static = false then (if p = 0 then { r with v0 := false } else { r with v1 := false }) else r } }

/-- MESSAGE_TIMEOUT: messages incomplete 1 ms after their first segment are discarded (R336). -/
def execMessageTimeout (s : State) : Res :=
  .next { s with fab := { s.fab with asm := s.fab.asm.filter fun a => decide (s.time.now.toNat < a.begun.toNat + 1000000) } }

/-- GiB lent, as an `ANNOUNCE` carries them (R337). -/
def gibLent (s : State) : Nat := ceilDiv (lentPages s) gibPages

/-- The drive's election state as `STATE` of `FAB_HIVE` codes it (R362). -/
def hiveCode : HiveSt → Nat
  | .noHive => 0 | .joining => 1 | .listening => 2 | .member => 3 | .candidate => 4 | .conflict => 5 | .keeper => 6

/-- The drive's own `ANNOUNCE` message on a port (R337). -/
def annBytes (s : State) (p : Fin 2) : Bytes :=
  toLe 8 s.otp.eui.toNat ++ toLe 1 s.fab.prio.toNat ++ toLe 1 (hiveCode s.fab.st) ++ toLe 1 p.val ++
  toLe 1 (lanesUp s p) ++ toLe 4 ((s.fab.sched.map fun q => q.sgen.toNat).getD 0) ++ toLe 2 (gibLent s) ++ List.replicate 14 0

/-- The announcement sent on every up port, which each names its own (R334, R337), or counted (R339). -/
def sendAnn (s : State) : State :=
  if upPorts s = [] then dropMsg s toAll 1
  else (upPorts s).foldl (fun st p => sendOn st (fun _ => [p]) 1 toAll st.fab.round (annBytes st p)) s

/-- ANNOUNCE_TIMER: every 100 ms, in the bulk window while a schedule is active (R334, R348). -/
def execAnnounceTimer (s : State) : Res :=
  .next (if !mayTransmit s then s else if s.fab.sched.isSome then queueBulk s 1 toAll [] else sendAnn s)

/-- SCHEDULE_RESEND: the keeper sends its schedule (R344, R348). -/
def execScheduleResend (s : State) : Res :=
  match s.fab.sched with
  | some q => .next (if s.fab.st = .keeper ∧ mayTransmit s = true then queueBulk s 2 toAll q.raw else s)
  | none => .next s

/-- SCHEDULE: a received table is adopted, or dropped and counted (R344). -/
def execSchedule (p : Fin 2) (f : FrameHdr) (pl : Bytes) (s : State) : Res :=
  receive s p 2 f pl fun s1 _ b => if adoptable s1 b then adopt s1 (schedOf b) else countRx s1 p

/-! ## Hive steps -/

/-- The pair that a `QUERY` message carries, stamp above sequence number, as one number (R329). -/
def pairKey (stamp : BitVec 48) (sq : BitVec 16) : Nat := stamp.toNat * 65536 + sq.toNat

/-- Whether one pair of a drive precedes another (R330, R331). -/
def pairBefore (a b : Nat) : Bool :=
  let sa := BitVec.ofNat 48 (a / 65536)
  let sb := BitVec.ofNat 48 (b / 65536)
  newer sb sa || (sa == sb && newer (BitVec.ofNat 16 b) (BitVec.ofNat 16 a))

/-- Whether one query precedes another: by round and intake member (R351), and the queries of one intake member in a round,
which two port islands may bring, by the pairs that their frames carry (R26). -/
def queryBefore (s : State) (a b : BitVec 64 × BitVec 12 × Nat) : Bool :=
  let i (n : BitVec 12) : Nat := (s.fab.sched.bind fun q => q.indexOf n).getD 512
  decide (a.1.toNat < b.1.toNat) ||
    (a.1 == b.1 && (decide (i a.2.1 < i b.2.1) || (i a.2.1 == i b.2.1 && pairBefore a.2.2 b.2.2)))

/-- Whether a hive step precedes another step of its queue. -/
def stepBefore (s : State) (a b : StepReq) : Bool :=
  match a.src, b.src with
  | .hive r n o, .hive r' n' o' => queryBefore s (r, n, o) (r', n', o')
  | _, _ => false

/-- A step joins the hive steps of its context before those that it precedes (R26, R351). -/
def insertHive (s : State) (r : StepReq) (l : List StepReq) : List StepReq :=
  l.filter (fun q => !stepBefore s r q) ++ [r] ++ l.filter (stepBefore s r)

/-- The root notes a query that it is to answer in the slot of its round, in the order of the queries (R26, R355). -/
def noteQuery (s : State) (round : BitVec 64) (intake : BitVec 12) (o : Nat) : State :=
  let v := (round, intake, o)
  { s with fab := { s.fab with queries := s.fab.queries.filter (fun q => !queryBefore s v q) ++ [v] ++ s.fab.queries.filter (queryBefore s v) } }

/-- A query is accepted: the drive notes it, and its hive context gets a hive step in the order of R351 where it can run
one; a member with no hive context, or whose hive context is Faulted, has nothing ready in its slot. A drive without an
entry in the schedule takes no part (R337). `o` is the pair of the message's first frame. -/
def queueHive (s : State) (round : BitVec 64) (intake : BitVec 12) (o : Nat) (b : Bytes) : State :=
  match s.fab.sched with
  | none => s
  | some q =>
    let n := fieldAt b 0 8
    if excluded s then s
    else
      let s1 := noteQuery s round intake o
      match s.fab.hiveCtx with
      | none => s1
      | some c =>
        if (s.ctx c).st = .faulted ∨ (s.ctx c).st = .free then s1
        else
          let par := ((List.range 14).map fun i => BitVec.ofNat 64 (fieldAt b (8 + 8 * i) 8)).take 13 ++ [round + BitVec.ofNat 64 q.depth]
          let r : StepReq := { src := .hive round intake o, count := BitVec.ofNat 7 n, params := par, hin := b.drop 120, outLen := 1048576 }
          nextStep (s1.setCtx c { s1.ctx c with queue := insertHive s1 r (s1.ctx c).queue }) c

/-- The form of a `QUERY` message: a sequence count of 1 to 64 with all other bits of its word zero, and 14 parameter words
(R334). -/
def queryOk (b : Bytes) : Bool := decide (120 ≤ b.length) && decide (1 ≤ fieldAt b 0 8 ∧ fieldAt b 0 8 ≤ 64)

/-- QUERY: one hive step on each member (R351); one with reserved bits set is dropped and counted (R14, R335). -/
def execQuery (p : Fin 2) (f : FrameHdr) (pl : Bytes) (s : State) : Res :=
  receive s p 3 f pl fun s1 f1 b => if !queryOk b then countRx s1 p else if s1.time.insync then queueHive s1 (roundOf s1 f1.round) (srcNode f1) (pairKey f1.stamp f1.seq) b else s1

/-! ## Answers -/

/-- Whether a child's message meets its slot and its acceptance limit (R347, R353). -/
def childTimely (s : State) (q : Sched) (r child : Nat) (f : FrameHdr) : Bool :=
  let t : BitVec 48 := BitVec.ofNat 48 (q.slotAt r child)
  (decide ((t - f.stamp).toNat ≤ 256) || decide ((f.stamp - t).toNat ≤ 256)) && decide (s.time.now.toNat ≤ q.limitAt r child)

/-- A child's message is accepted for its round (R353), while the drive is in synchronisation (R346). -/
def takeChild (s : State) (f : FrameHdr) (cover : BitVec 512) (body : Bytes) : State :=
  let r := roundOf s f.round
  match s.fab.sched with
  | none => s
  | some q =>
    match ownIndex s q, q.indexOf (srcNode f) with
    | some i, some child =>
      if s.time.insync = true ∧ (q.slot r.toNat child).parent = i ∧ childTimely s q r.toNat child f then
        let rest := s.fab.kids.filter fun m => !(m.round == r && m.child == child)
        { s with fab := { s.fab with kids := rest ++ [{ round := r, child := child, cover := cover, body := body }] } }
      else s
    | _, _ => s

/-- ANSWER (R352, R353). -/
def execAnswer (p : Fin 2) (f : FrameHdr) (pl : Bytes) (s : State) : Res :=
  receive s p 4 f pl fun s1 f1 b => takeChild s1 f1 (BitVec.ofNat 512 (fieldAt b 0 64)) (b.drop 64)

/-- Whether a coverage bitmap names every member (R355). -/
def coversAll (q : Sched) (b : BitVec 512) : Bool := (List.range q.members.length).all fun i => b.getLsbD i

/-- A hive-wide command completes with the root's answer (R355). -/
def endHiveCmd (s : State) (m : HiveCmd) (cover : BitVec 512) (body : Bytes) (full : Bool) : State :=
  let s1 := { s with fab := { s.fab with cmds := s.fab.cmds.filter fun q => !(q.sq == m.sq && q.cid == m.cid) } }
  wakeParked (complete s1 (hostHdr m.sq m.cid) .success (if full then 0 else 0x10000) (BitVec.ofNat 32 (64 + body.length))
    ((toLe 64 cover.toNat ++ body).take m.outLen))

/-- The earliest command that the drive carried for the answers of a round and that the root has not passed over. -/
def openCmd (s : State) (round : BitVec 64) : Option HiveCmd :=
  s.fab.sched.bind fun q => s.fab.cmds.find? fun m => m.sent && !m.skip && m.round + BitVec.ofNat 64 q.depth == round

/-- The answer of a round completes the earliest command the drive carried for it (R355). The root answers the queries of
one intake member in their order, so an answer belongs to the first that waits. -/
def takeFinal (s : State) (round : BitVec 64) (cover : BitVec 512) (body : Bytes) : State :=
  match s.fab.sched, openCmd s round with
  | some q, some m => endHiveCmd s m cover body (coversAll q cover)
  | _, _ => s

/-- The root has no answer for the earliest command of a round: the command waits for the end of R355, and a later answer
of the round is for the next. -/
def passOver (s : State) (round : BitVec 64) : State :=
  match openCmd s round with
  | some m => { s with fab := { s.fab with cmds := s.fab.cmds.map fun k => if k.sq = m.sq ∧ k.cid = m.cid then { k with skip := true } else k } }
  | none => s

/-- Whether a node is the root of a round (R343). -/
def isRoot (s : State) (r : Nat) (n : BitVec 12) : Bool :=
  s.fab.sched.any fun q => (q.indexOf n).any fun i => (q.slot r i).parent == 0xFFFF

/-- ABSENT of a child counts as accepted with zero coverage (R353); that of the root to an intake member stands in place of
a FINAL (R349). One whose bitmap is not all zero is dropped and counted (R14, R334, R335). -/
def execAbsent (p : Fin 2) (f : FrameHdr) (pl : Bytes) (s : State) : Res :=
  receive s p 5 f pl fun s1 f1 b =>
    let r := roundOf s1 f1.round
    if b.any (· != 0) then countRx s1 p
    else if isRoot s1 r.toNat (srcNode f1) && s1.time.insync then passOver s1 r else takeChild s1 f1 0 []

/-- FINAL (R346, R355). -/
def execFinal (p : Fin 2) (f : FrameHdr) (pl : Bytes) (s : State) : Res :=
  receive s p 6 f pl fun s1 f1 b =>
    if s1.time.insync then takeFinal s1 (roundOf s1 f1.round) (BitVec.ofNat 512 (fieldAt b 0 64)) (b.drop 64) else s1

/-- RESYNC: the child stops its slots until the named round, and acknowledges when in sync (R354). -/
def execResync (p : Fin 2) (f : FrameHdr) (pl : Bytes) (s : State) : Res :=
  receive s p 7 f pl fun s1 f1 b =>
    let s2 := { s1 with fab := { s1.fab with rejoin := some (BitVec.ofNat 64 (fieldAt b 0 8)) } }
    if s2.time.insync then queueBulk s2 8 (toNode (srcNode f1)) (bytesAt b 0 8) else s2

/-- RESYNC_ACK: the parent stops repeating, and the child rejoins in the round it was named (R354). -/
def execResyncAck (p : Fin 2) (f : FrameHdr) (pl : Bytes) (s : State) : Res :=
  receive s p 8 f pl fun s1 f1 _ =>
    match s1.fab.sched.bind fun q => q.indexOf (srcNode f1) with
    | some child =>
      { s1 with fab := { s1.fab with
          oos := s1.fab.oos.filter fun o => o.1 != child
          acked := s1.fab.acked.filter (fun o => o.1 != child) ++ s1.fab.oos.filter fun o => o.1 == child } }
    | none => s1

/-! ## Leases -/

/-- LEASE_REQ: the keeper grants or refuses (R357). -/
def execLeaseReq (p : Fin 2) (f : FrameHdr) (pl : Bytes) (s : State) : Res :=
  receive s p 9 f pl fun s1 f1 b =>
    if s1.fab.st = .keeper then keeperGrant s1 (srcNode f1) (BitVec.ofNat 32 (fieldAt b 4 4)) (fieldAt b 0 4) else s1

/-- LEASE_GRANT: the lender lends, or the requester takes the grant or refusal (R274, R357). A drive that has adopted no
schedule takes part in no hive (R37). -/
def execLeaseGrant (p : Fin 2) (f : FrameHdr) (pl : Bytes) (s : State) : Res :=
  receive s p 0x0A f pl fun s1 _ b =>
    let req := BitVec.ofNat 32 (fieldAt b 0 4)
    let lender := BitVec.ofNat 12 (fieldAt b 4 4)
    let pages := fieldAt b 8 4
    let base := BitVec.ofNat 64 (fieldAt b 12 8)
    if (newestSched s1).isNone then s1
    else if pages ≠ 0 ∧ lender = s1.fab.node then (lendPages s1 req (reqNode req) pages base).getD s1
    else takeGrant s1 req lender pages base

/-- LEASE_REL: the requester's lease is revoked by the keeper, the lender frees its frames, the keeper forgets the
grant (R358). -/
def execLeaseRel (p : Fin 2) (f : FrameHdr) (pl : Bytes) (s : State) : Res :=
  receive s p 0x0B f pl fun s1 f1 b =>
    let req := BitVec.ofNat 32 (fieldAt b 0 4)
    let s2 := match s1.fab.leases.find? fun l => l.req == req && l.granted && !l.lost with
      | some l => if srcNode f1 = s1.fab.knode then loseLease s1 l else s1
      | none => s1
    let s3 := (s2.fab.lent.filter fun l => l.req == req && (l.node == srcNode f1 || srcNode f1 == s2.fab.knode)).foldl (fun st l => freeLent st l.req l.node) s2
    { s3 with fab := { s3.fab with grants := s3.fab.grants.filter fun g => !(g.req == req && g.node == srcNode f1) } }

/-- The device address of a byte of a lent range: the run of pages lent for the request (R274). -/
def lentAddr (s : State) (l : Lent) (off : Nat) : Option Nat :=
  (s.tiers.pages.find? fun p => p.owner == .lent l.req l.node).map fun p => p.no * Config.pageBytes + off

/-- An `XDATA` message: status, request, offset, length, data (assumption 11). -/
def xdataBytes (ok : Bool) (req off len : Nat) (data : Bytes) : Bytes :=
  toLe 4 (b2n (!ok)) ++ toLe 4 req ++ toLe 8 off ++ toLe 8 len ++ data

/-- XACC: the lender writes a range of a lease, or reads it and reports an uncorrectable error in it as the failure of the
range, with which the lease is lost and its frames are free (R274, R289, R357, R358). The layout is that of `xaccBytes`. -/
def execXacc (p : Fin 2) (f : FrameHdr) (pl : Bytes) (s : State) : Res :=
  receive s p 0x0C f pl fun s1 f1 b =>
    let req := fieldAt b 4 4
    let off := fieldAt b 8 8
    let n := fieldAt b 16 8
    let back (st : State) (ok : Bool) (d : Bytes) : State := queueBulk st 0x0D (toNode (srcNode f1)) (xdataBytes ok req off n d)
    match s1.fab.lent.find? fun l => l.req.toNat == req && l.node == srcNode f1 with
    | none => back s1 false []
    | some l =>
      let fail := back (freeLent s1 l.req l.node) false []
      match lentAddr s1 l off with
      | none => fail
      | some a =>
        if l.pages * Config.pageBytes < off + n then fail
        else if fieldAt b 0 4 = 1 then
          back (settleDev { s1 with tiers := { s1.tiers with mem := memOver s1.tiers.mem a (bytesAt b 24 n) } } [(a, a + n)]) true []
        else if rangePoison s1 (a, a + n) then fail
        else back s1 true (memGets s1.tiers.mem a n)

/-- XDATA: data that the drive has asked for reaches the window, and what waits for them goes on; the failure of a range
loses the lease (R275, R357, R358). Other data are dropped. -/
def execXdata (p : Fin 2) (f : FrameHdr) (pl : Bytes) (s : State) : Res :=
  receive s p 0x0D f pl fun s1 f1 b =>
    let off := fieldAt b 8 8
    let n := fieldAt b 16 8
    match s1.fab.leases.find? fun l => l.req.toNat == fieldAt b 4 4 && l.granted && l.lender == srcNode f1 && !l.lost with
    | none => s1
    | some l =>
      if fieldAt b 0 4 ≠ 0 then loseLease s1 l
      else if (off, n, false) ∈ l.reads ∧ b.length = 24 + n then
        let s2 := { s1 with tiers := { s1.tiers with mem := memOver s1.tiers.mem (windowBase l.window + off) (b.drop 24) } }
        wakeFar (mapReads s2 l.req fun d => d.map fun v => if v = (off, n, false) then (off, n, true) else v)
      else s1

/-- LEASE_REPLY_TIMEOUT: no answer within 10 ms is a refusal (R357). -/
def execLeaseReplyTimeout (req : BitVec 32) (s : State) : Res := .next (takeGrant s req 0 0 0)

/-- LEASE_LOSS_TIMEOUT: the lender has sent no accepted frame for 100 ms (R358). DESIGN CHOICE: `LEASE_REL` tells keeper and lender,
who frees the frames of the lost lease (assumption 12). -/
def execLeaseLossTimeout (lender : BitVec 12) (s : State) : Res :=
  .next ((s.fab.leases.filter fun l => l.granted && l.lender == lender && !l.lost).foldl (fun a l => releaseMsgs (loseLease a l) l) s)

/-! ## Power -/

/-- A member's values join what the keeper has, which keeps those of its last two rounds (R360). -/
def putPow (s : State) (w : Pow) : State :=
  let old := s.fab.pows.filter fun q => q.node == w.node && q.round != w.round
  let keep := (minBy (fun q => 2 ^ 64 - q.round.toNat) old).toList
  { s with fab := { s.fab with pows := s.fab.pows.filter (fun q => q.node != w.node) ++ keep ++ [w] } }

/-- POWER: the keeper records a member's values (R359, R360). -/
def execPower (p : Fin 2) (f : FrameHdr) (pl : Bytes) (s : State) : Res :=
  receive s p 0x0E f pl fun s1 f1 b =>
    let w : Pow := { node := srcNode f1, demand := fieldAt b 0 4, floor := fieldAt b 4 4, cap := fieldAt b 8 4, room := fieldAt b 12 4
                     health := BitVec.ofNat 8 (fieldAt b 16 1), round := roundOf s1 f1.round }
    if s1.fab.st = .keeper then putPow s1 w else s1

/-- BUDGET: the member has its grant for the next round (R360, R361); a drive without an entry in the schedule takes no part
(R337). -/
def execBudget (p : Fin 2) (f : FrameHdr) (pl : Bytes) (s : State) : Res :=
  receive s p 0x0F f pl fun s1 f1 b =>
    match s1.fab.sched.bind (ownIndex s1) with
    | some i =>
      if 4 * i + 4 ≤ b.length then { s1 with fab := { s1.fab with grantNext := some (roundOf s1 f1.round + 1, fieldAt b (4 * i) 4) } }
      else s1
    | none => s1

end Sys2Proof.Machine
end

