-- ==== Sys2Proof/Machine/Queues.lean ====
section
/-! DEFINITION. Queue commands, Abort, Asynchronous Event Requests, in-band NVMe-MI and unsupported opcodes (12, R399,
R400, R402, R423, R424). -/

namespace Sys2Proof.Machine

/-- ABORT: the command named is not aborted (R400, R423). -/
def execAbort (h : Hdr) (d : Dw) (s : State) : Res :=
  hostCmd s h .queues (.abort h d) fun s =>
    if d.d11 ≠ 0 ∨ d.d12 ≠ 0 ∨ d.d13 ≠ 0 ∨ d.d14 ≠ 0 ∨ d.d15 ≠ 0 then completeSt s h .invalidField else complete s h .success 1 0 []

/-- ASYNCHRONOUS_EVENT_REQUEST: at most 16 are outstanding (R399). -/
def execAsynchronousEventRequest (h : Hdr) (s : State) : Res :=
  hostCmd s h .queues (.asynchronousEventRequest h) fun s =>
    if 16 ≤ s.host.aers.length then completeSt s h .aerLimit
    else deliver { s with host := { s.host with aers := s.host.aers ++ [h.cid] } }

/-- Whether a completion queue exists. -/
def cqExists (s : State) (q : Nat) : Bool := s.host.cqs.any fun x => x.id.toNat == q

/-- Whether a queue identifier is none of the 128 I/O queues (R399). -/
def qidBad (q : Nat) : Bool := q == 0 || decide (128 < q)

/-- The controller capabilities of R399 as `CAP` lays them out: `MQES` 4,095, `CQR`, `TO` 20, `NSSRS`, the command sets,
`MPSMIN` 4 KiB and `MPSMAX` 64 KiB. PRESUMED: the places are the base specification's (assumption 9); no row of the table
reads BAR0, where the register stands. -/
def ctrlCap : BitVec 64 :=
  BitVec.ofNat 64 (4095 + 1 * 2 ^ 16 + 20 * 2 ^ 24 + 1 * 2 ^ 36 + 65 * 2 ^ 37 + 0 * 2 ^ 48 + 4 * 2 ^ 52)

/-- Whether a queue size, as a zero-based number of entries, is above `CAP.MQES` or below two entries (R399). -/
def qsizeBad (n : Nat) : Bool := n == 0 || decide (bitsOf ctrlCap 15 0 < n)

/-- CREATE_IO_SUBMISSION_QUEUE (R399). -/
def execCreateIoSubmissionQueue (h : Hdr) (d : Dw) (s : State) : Res :=
  hostCmd s h .queues (.createIoSubmissionQueue h d) fun s =>
    let q := dwB d.d10 15 0
    let n := dwB d.d10 31 16
    let cq := dwB d.d11 31 16
    stages s h [(dwB d.d11 0 0 == 0 || dwB d.d11 15 3 != 0 || d.d12 != 0 || d.d13 != 0 || d.d14 != 0 || d.d15 != 0, .invalidField),
      (!cqExists s cq, .cqInvalid), (qidBad q || sqExists s (BitVec.ofNat 16 q), .invalidQueue), (qsizeBad n, .invalidQueueSize)] fun s1 =>
      let x : Sq := { id := BitVec.ofNat 16 q, size := n + 1, cq := BitVec.ofNat 16 cq }
      completeSt { s1 with host := { s1.host with sqs := s1.host.sqs ++ [x] } } h .success

/-- DELETE_IO_SUBMISSION_QUEUE (R424). -/
def execDeleteIoSubmissionQueue (h : Hdr) (d : Dw) (s : State) : Res :=
  hostCmd s h .queues (.deleteIoSubmissionQueue h d) fun s =>
    let q := dwB d.d10 15 0
    stages s h [(dwB d.d10 31 16 != 0 || d.d11 != 0 || d.d12 != 0 || d.d13 != 0 || d.d14 != 0 || d.d15 != 0, .invalidField),
      (q == 0 || !sqExists s (BitVec.ofNat 16 q), .invalidQueue)] fun s1 =>
      completeSt (dropSq s1 (BitVec.ofNat 16 q)) h .success

/-- CREATE_IO_COMPLETION_QUEUE (R398, R399). -/
def execCreateIoCompletionQueue (h : Hdr) (d : Dw) (s : State) : Res :=
  hostCmd s h .queues (.createIoCompletionQueue h d) fun s =>
    let q := dwB d.d10 15 0
    let n := dwB d.d10 31 16
    let v := dwB d.d11 31 16
    stages s h [(dwB d.d11 0 0 == 0 || dwB d.d11 15 2 != 0 || d.d12 != 0 || d.d13 != 0 || d.d14 != 0 || d.d15 != 0, .invalidField),
      (qidBad q || cqExists s q, .invalidQueue), (qsizeBad n, .invalidQueueSize), (decide (128 < v), .invalidVector)] fun s1 =>
      let x : Cq := { id := BitVec.ofNat 16 q, size := n + 1, ien := dwB d.d11 1 1 == 1, vector := BitVec.ofNat 16 v }
      completeSt { s1 with host := { s1.host with cqs := s1.host.cqs ++ [x] } } h .success

/-- DELETE_IO_COMPLETION_QUEUE: not while a submission queue uses it (R399). -/
def execDeleteIoCompletionQueue (h : Hdr) (d : Dw) (s : State) : Res :=
  hostCmd s h .queues (.deleteIoCompletionQueue h d) fun s =>
    let q := dwB d.d10 15 0
    stages s h [(dwB d.d10 31 16 != 0 || d.d11 != 0 || d.d12 != 0 || d.d13 != 0 || d.d14 != 0 || d.d15 != 0, .invalidField),
      (!cqExists s q, .invalidQueue), (s.host.sqs.any fun x => x.cq.toNat == q, .invalidQueueDel)] fun s1 =>
      completeSt { s1 with host := { s1.host with cqs := s1.host.cqs.filter fun x => x.id.toNat != q } } h .success

/-- NVME_MI_SEND: the request is carried in-band, and its response waits (R399); its bytes are the standard's
(assumption 9). -/
def execNvmeMiSend (h : Hdr) (d : Dw) (data : Bytes) (s : State) : Res :=
  hostCmd s h .info (.nvmeMiSend h d data) fun s =>
    if d.d14 ≠ 0 ∨ d.d15 ≠ 0 then completeSt s h .invalidField
    else completeSt { s.draw 1 with host := { s.host with miResp := (List.range 4096).map (Config.miByte s.free) } } h .success

/-- NVME_MI_RECEIVE: the response that waits is returned (R399). -/
def execNvmeMiReceive (h : Hdr) (d : Dw) (s : State) : Res :=
  hostCmd s h .info (.nvmeMiReceive h d) fun s =>
    if d.d14 ≠ 0 ∨ d.d15 ≠ 0 ∨ s.host.miResp = [] then completeSt s h .invalidField
    else complete { s with host := { s.host with miResp := [] } } h .success 0 0 s.host.miResp

/-- UNSUPPORTED_OPCODE: Invalid Command Opcode, whatever the port (R400, R402). -/
def execUnsupportedOpcode (h : Hdr) (opc : BitVec 8) (s : State) : Res :=
  hostCmd s { h with psdt := 0, rsv := false } (match h.port with
    | .host => .info
    | .management => .info
    | .debug => .info
    | _ => .data) (.unsupportedOpcode h opc) fun s => completeSt s h .invalidOpcode

end Sys2Proof.Machine
end

