-- ==== Sys2Proof/Machine/Power.lean ====
section
/-! DEFINITION. The limits of input power (01, R30; 10, R361; 12, R425; 13, R437; 17, R524) and the values a member
publishes (10, R359; 13, R443). Powers are in microwatts, limits in 0.125 W. -/

namespace Sys2Proof.Machine

/-- Microwatts in 0.125 W. -/
def unitUw : Nat := 125000

/-- TDP in 0.125 W (R30). -/
def tdp : Nat := 1920

/-- The limit that an operational power state adds (R425). -/
def psLimit (s : State) : Nat := if s.host.ps = 1 then 1440 else if s.host.ps = 2 then 960 else tdp

/-- The written limit (R428): 0 means TDP. -/
def writtenLimit (s : State) : Nat := if s.tel.written = 0 then tdp else s.tel.written.toNat

/-- The hive grant in force (R360, R361). -/
def grantLimit (s : State) : Option Nat :=
  match s.fab.sched with
  | some q => if q.power = 0 then none else s.fab.grant
  | none => none

/-- The drive's own limits under R30, without a grant. -/
def ownLimit (s : State) : Nat := min (min tdp (psLimit s)) (min s.tel.derate.toNat (writtenLimit s))

/-- The limit L of a sample period (R30, R361). -/
def limitNow (s : State) : Nat := min (ownLimit s) ((grantLimit s).getD tdp)

/-- The source of L as `LSRC` codes it; among equals the lowest code (assumption 18). -/
def limitSrc (s : State) : Nat :=
  let l := limitNow s
  if l = tdp ∨ l = psLimit s then 0 else if l = s.tel.derate.toNat then 1 else if l = writtenLimit s then 2 else 3

/-- Whether a cluster island is in service: some array of it is. -/
def clusterUp (s : State) (k : Nat) : Bool := allArr.any fun a => (s.arr a).inserv && clusterOf a == k

/-- The reading of a valid sensor. -/
def validRead (s : State) (i : Nat) : Option Int :=
  let q := sensor s (Fin.ofNat 96 i)
  if q.valid then some q.value.toInt else none

/-- The trimmed ceiling that the fuses give an island at its voltage and temperature (R444): the highest of the rows that hold
there. Where a reading is missing, or no row holds, it is the lowest row (assumption 4). -/
def ceilAt (l : List CeilRow) (v t : Option Int) : Nat :=
  let low := (minBy id (l.map fun r => r.mhz)).getD 0
  match v, t with
  | some mv, some c => (l.filter fun r => decide (r.mv ≤ mv) && decide (c ≤ r.temp)).foldl (fun a r => max a r.mhz) low
  | _, _ => low

/-- The trimmed ceiling of a cluster island within its range, by the sensors of that cluster (R23, R432, R435, R444). -/
def trimC (s : State) (k : Fin 12) : Nat := max 600 (min 1100 (ceilAt s.otp.ceilC[k] (validRead s k.val) (validRead s (24 + k.val))))

/-- The trimmed ceiling of a forager island within its range, by the sensors of its die. -/
def trimF (s : State) (n : Fin 32) : Nat :=
  max 500 (min 1000 (ceilAt s.otp.ceilF[n] (validRead s (36 + n.val / 16)) (validRead s (40 + n.val / 16))))

/-- The trimmed ceiling of the sequencer island within its range, by the sensors of the I/O die at its PCIe end
(assumption 4). -/
def trimS (s : State) : Nat := max 800 (min 1200 (ceilAt s.otp.ceilS (validRead s 42) (validRead s 44)))

/-- The steps by which the groups together have lowered a cluster's ceiling (R438). -/
def lowC (s : State) (k : Fin 12) : Nat := s.tel.throtC.toList.foldl (fun a v => a + v[k]) 0

/-- The steps by which the groups together have lowered a forager's ceiling (R438). -/
def lowF (s : State) (n : Fin 32) : Nat := s.tel.throtF.toList.foldl (fun a v => a + v[n]) 0

/-- The clock of a cluster island: the shared target, at most its trimmed and throttled ceiling; the bottom of its range without
factory calibration (R435, R438, R444). -/
def clusterClk (s : State) (k : Fin 12) : Nat :=
  if !s.rst.trimv then 600 else min s.tel.clkC.toNat (max 600 (trimC s k - 25 * lowC s k))

/-- The clock of a forager island, in the same way. -/
def foragerClk (s : State) (n : Fin 32) : Nat :=
  if !s.rst.trimv then 500 else min s.tel.clkF.toNat (max 500 (trimF s n - 25 * lowF s n))

/-- The clock of the sequencer island, which no group lowers. -/
def seqClk (s : State) : Nat := if !s.rst.trimv then 800 else min s.tel.clkS.toNat (trimS s)

/-- The clock of a supervisor island: nominal, at most its trimmed ceiling by the sensors of the I/O die at its PCIe end; the bottom
of its range without factory calibration (R23, R444). No register or log reports it. DESIGN CHOICE: R23's nominal clock, since no
rule moves it (assumption 4). -/
def supClk (s : State) (n : Fin 2) : Nat :=
  if !s.rst.trimv then 400 else min 800 (max 400 (min 1000 (ceilAt s.otp.ceilV[n] (validRead s 42) (validRead s 44))))

/-- The gap level to which the groups together have raised it (R438). -/
def gapTherm (s : State) : Nat := min 15 (s.tel.gapT.toList.foldl (fun a v => a + v.toNat) 0)

/-- The gap level in force, of the power loop and of thermal throttling (R435, R438). -/
def gapNow (s : State) : Nat := max s.tel.gap.toNat (gapTherm s)

/-- `THERM`: some ceiling is lowered, or a gap level raised, by thermal throttling (R438, R447). -/
def thermNow (s : State) : Bool :=
  s.tel.gapT.toList.any (· != 0) || s.tel.throtC.toList.any (fun v => v.toList.any (· != 0)) ||
  s.tel.throtF.toList.any fun v => v.toList.any (· != 0)

/-- What the clusters would draw beyond their mean at nominal clocks, over the sample periods of a round (R443). -/
def extraDemand (s : State) : Int :=
  ((List.range 12).map (Fin.ofNat 12)).foldl (fun a k =>
    let w : Nat := s.tel.clPow[k]
    let f : Nat := s.tel.clClk[k]
    let n : Nat := s.tel.psCnt
    if clusterUp s k.val ∧ f ≠ 0 then a + ((w : Int) * (1000 * (n : Int) - (f : Int))) / ((n : Int) * (f : Int)) else a) 0

/-- The sample periods of a round are closed (R443). -/
def closeRound (s : State) : State :=
  if s.tel.psCnt = 0 then s
  else
    let m := s.tel.psSum / s.tel.psCnt
    let d := ((m : Int) + extraDemand s).toNat / unitUw
    { s with tel := { s.tel with rndPs := m, rndDem := min 2400 d, psSum := 0, psCnt := 0, clPow := Vector.replicate 12 0
                                 clClk := Vector.replicate 12 0 } }

/-- The health byte (R443). -/
def healthByte (s : State) : Nat :=
  b2n (thermNow s) + 2 * b2n (gapNow s != 0) + 4 * b2n (critWarn s != 0) + 8 * b2n s.nvm.readOnly +
  16 * b2n (!s.media.rebuild.isEmpty) + 32 * b2n (s.fab.ports[0].degr || s.fab.ports[1].degr)

/-- The drive's own `POWER` values for a round, as member `i` of a schedule (R359, R443). -/
def ownPower (s : State) (q : Sched) (i : Nat) : Pow :=
  let cap := min (((q.members[i]?).map fun m => m.pcap.toNat).getD tdp) (ownLimit s)
  let m := s.tel.rndPs / unitUw
  { node := q.node i, demand := s.tel.rndDem, floor := 304, cap := cap, room := cap - m, health := BitVec.ofNat 8 (healthByte s)
    round := s.fab.round }

/-- A `POWER` message (R359). -/
def powerBytes (w : Pow) : Bytes := toLe 4 w.demand ++ toLe 4 w.floor ++ toLe 4 w.cap ++ toLe 4 w.room ++ toLe 1 w.health.toNat

/-- The last values of member `i` that the keeper has from rounds before the present one (R360). -/
def powerOf (s : State) (q : Sched) (i : Nat) : Option Pow :=
  minBy (fun w => 2 ^ 64 - w.round.toNat) (s.fab.pows.filter fun w => w.node == q.node i && decide (w.round.toNat < s.fab.round.toNat))

/-- What the keeper uses for member `i` as it computes the grants of the next round from the `POWER` messages of the one
before: the member's last values for up to 8 rounds, and its floor alone after that (R360); a member never heard counts with
304 (assumption 18). Demand, floor, cap. -/
def powerUsed (s : State) (q : Sched) (i : Nat) : Nat × Nat × Nat :=
  match powerOf s q i with
  | some w => if s.fab.round.toNat ≤ w.round.toNat + 9 then (w.demand, w.floor, w.cap) else (w.floor, w.floor, w.floor)
  | none => (304, 304, 304)

/-- The grants of R360, one for each member index. -/
def grantsOf (s : State) (q : Sched) : List Nat :=
  let l := (List.range q.members.length).map (powerUsed s q)
  let want (u : Nat × Nat × Nat) : Nat := min u.2.2 u.1 - u.2.1
  let sumF := l.foldl (fun a u => a + u.2.1) 0
  let sumW := l.foldl (fun a u => a + want u) 0
  let avail := q.power - sumF
  l.map fun u =>
    if avail = 0 then u.2.1
    else if sumW ≤ avail then min u.2.2 (u.2.1 + want u + (avail - sumW) / q.members.length)
    else u.2.1 + want u * avail / sumW

end Sys2Proof.Machine
end

