-- ==== Sys2Proof/Machine/RegRead.lean ====
section
/-! DEFINITION. The BAR2 register map and what each register reads as (16, R496 to R500, R503 to R508; 02, R69; 04,
R164; 08, R285, R294, R296; 09, R322; 10, R362; 12, R431; 13, R447; 14, R452, R470, R481). -/

namespace Sys2Proof.Machine

/-- The registers of the map (R503, R504). -/
inductive RegName where
  | id (code : Nat)
  | amap (a : ArrId)
  | aexc (a : ArrId) (k : Fin 4)
  | ctxExc (i : CtxId)
  | ctxCtl (i : CtxId)
  | ctxFrec (i : CtxId)
  | ctxCoord (i : CtxId) (k : Fin 3)
  | fgrStat (n : ChanId)
  | fgrBytes (n : ChanId)
  | scrub (k : Fin 3)
  | pool
  | xlease
  | ctxStat (i : CtxId)
  | partStat (p : PartId)
  | fabNode
  | fabEui
  | fabHive
  | fabSched
  | fabRound
  | fabPort (p : Fin 2)
  | hstAuth
  | hstDeny
  | hstRlock
  | hstPstate
  | timNow
  | timSync
  | telSens (i : Fin 96)
  | telPwr
  | telLimit
  | telClk
  | calStat
  | calSens (i : Fin 96)
  | rlBias (k : Fin 2)
  | calEq (l : Fin 8)
  | rstCause
  | rstBlk
  | rstBlkTmo
  | rstWdog
  | bst (k : Fin 7)
  | supPrimacy
  | supClaim
  | supHb (n : Fin 2)
  | ceStat (t : Fin 4)
  | ceOvf (t : Fin 4)
  | ceA (t : Fin 4) (e : Fin 16)
  | ceB (t : Fin 4) (e : Fin 16)
  | rprCmb
  | rprDram
deriving DecidableEq, Repr

/-- The index of an offset among `n` registers from `base` at a stride. -/
def strided (o base stride n : Nat) : Option Nat :=
  if base ≤ o ∧ (o - base) % stride = 0 ∧ (o - base) / stride < n then some ((o - base) / stride) else none

/-- The first of a list of answers that there is. -/
def firstOf {α : Type} : List (Option α) → Option α
  | [] => none
  | some a :: _ => some a
  | none :: t => firstOf t

/-- The registers of the Comb block (R504). -/
def cmbReg (o : Nat) : Option RegName :=
  firstOf [(strided o 0 8 192).map fun a => .amap (Fin.ofNat 192 a),
    (strided o 0x1000 8 768).map fun a => .aexc (Fin.ofNat 192 (a / 4)) (Fin.ofNat 4 a),
    (strided o 0x4000 64 64).map fun i => .ctxExc (Fin.ofNat 64 i),
    (strided o 0x4008 64 64).map fun i => .ctxCtl (Fin.ofNat 64 i),
    (strided o 0x4010 64 64).map fun i => .ctxFrec (Fin.ofNat 64 i),
    (strided o 0x4018 64 64).map fun i => .ctxCoord (Fin.ofNat 64 i) 0,
    (strided o 0x4020 64 64).map fun i => .ctxCoord (Fin.ofNat 64 i) 1,
    (strided o 0x4028 64 64).map fun i => .ctxCoord (Fin.ofNat 64 i) 2]

/-- The registers of the Fabric block (R504). -/
def fabReg (o : Nat) : Option RegName :=
  match o with
  | 0x00 => some .fabNode
  | 0x08 => some .fabEui
  | 0x10 => some .fabHive
  | 0x18 => some .fabSched
  | 0x20 => some .fabRound
  | 0x28 => some (.fabPort 0)
  | 0x30 => some (.fabPort 1)
  | _ => none

/-- The registers of the Tiers block (R504). -/
def tirReg (o : Nat) : Option RegName :=
  match o with
  | 0x00 => some (.scrub 0)
  | 0x08 => some (.scrub 1)
  | 0x10 => some (.scrub 2)
  | 0x18 => some .pool
  | 0x20 => some .xlease
  | _ => none

/-- The registers of the Host block (R504). -/
def hstReg (o : Nat) : Option RegName :=
  match o with
  | 0x00 => some .hstAuth
  | 0x08 => some .hstDeny
  | 0x10 => some .hstRlock
  | 0x18 => some .hstPstate
  | _ => none

/-- The registers of the Reset block (R504). -/
def rstReg (o : Nat) : Option RegName :=
  match o with
  | 0x00 => some .rstCause
  | 0x08 => some .rstBlk
  | 0x10 => some .rstBlkTmo
  | 0x18 => some .rstWdog
  | _ => none

/-- The registers of the Supervisor block (R504). -/
def supReg (o : Nat) : Option RegName :=
  match o with
  | 0x00 => some .supPrimacy
  | 0x08 => some .supClaim
  | 0x10 => some (.supHb 0)
  | 0x18 => some (.supHb 1)
  | _ => none

/-- The registers of the Telemetry block (R504). -/
def telReg (o : Nat) : Option RegName :=
  firstOf [(strided o 0 8 96).map fun i => .telSens (Fin.ofNat 96 i), if o = 0x400 then some .telPwr else none,
    if o = 0x408 then some .telLimit else none, if o = 0x410 then some .telClk else none]

/-- The registers of the Calibration block (R504). -/
def calReg (o : Nat) : Option RegName :=
  firstOf [if o = 0 then some .calStat else none, (strided o 0x400 8 96).map fun i => .calSens (Fin.ofNat 96 i),
    (strided o 0x800 8 2).map fun k => .rlBias (Fin.ofNat 2 k), (strided o 0x900 8 8).map fun l => .calEq (Fin.ofNat 8 l)]

/-- The registers of the Error block (R504). -/
def errReg (o : Nat) : Option RegName :=
  let t : Fin 4 := Fin.ofNat 4 (o / 0x1000)
  let r := o % 0x1000
  if o < 0x4000 then
    firstOf [if r = 0 then some (.ceStat t) else none, if r = 8 then some (.ceOvf t) else none,
      (strided r 0x100 16 16).map fun e => .ceA t (Fin.ofNat 16 e), (strided r 0x108 16 16).map fun e => .ceB t (Fin.ofNat 16 e)]
  else if o = 0x8000 then some .rprCmb
  else if o = 0x8008 then some .rprDram
  else none

/-- The register at an offset of BAR2, a multiple of 8; none where no table assigns one (R496, R499, R503, R504). -/
def regName (off : Nat) : Option RegName :=
  let b := off / 0x400000
  let o := off % 0x400000
  if o = 0x3FFFF8 ∧ b < 13 then some (.id (b + 1))
  else
    match b with
    | 0 => cmbReg o
    | 1 => firstOf [(strided o 0 16 32).map fun n => .fgrStat (Fin.ofNat 32 n), (strided o 8 16 32).map fun n => .fgrBytes (Fin.ofNat 32 n)]
    | 2 => tirReg o
    | 3 => firstOf [(strided o 0 8 64).map fun i => .ctxStat (Fin.ofNat 64 i), (strided o 0x400 8 8).map fun p => .partStat (Fin.ofNat 8 p)]
    | 4 => fabReg o
    | 5 => hstReg o
    | 6 => if o = 0 then some .timNow else if o = 8 then some .timSync else none
    | 7 => telReg o
    | 8 => calReg o
    | 9 => rstReg o
    | 10 => (strided o 0 8 7).map fun k => .bst (Fin.ofNat 7 k)
    | 11 => supReg o
    | 12 => errReg o
    | _ => none

/-! ## Values -/

/-- A register's value from its fields: each with its lowest bit. -/
def fields (l : List (Nat × Nat)) : BitVec 64 := BitVec.ofNat 64 (l.foldl (fun a p => a + p.2 * 2 ^ p.1) 0)

/-- `CMB_AMAP_a` (R505). -/
def amapBits (s : State) (a : ArrId) : BitVec 64 :=
  let x := s.arr a
  fields [(0, x.phys.toNat), (8, b2n x.inserv), (9, clusterOf a), (13, clusterOf a / 3), (15, b2n x.spare)]

/-- `CMB_AEXC_a` and its coordinates (R164). -/
def aexcBits (s : State) (a : ArrId) (k : Fin 4) : BitVec 64 :=
  let x := (s.arr a).exc
  match k with
  | 0 => fields [(0, x.flags.toNat), (8, x.first.first.toNat), (10, b2n x.first.valid), (16, x.ctx.toNat), (32, x.first.pc.toNat)]
  | 1 => x.first.m.zeroExtend 64
  | 2 => x.first.n.zeroExtend 64
  | 3 => x.first.k.zeroExtend 64

/-- The fault record registers of a context; a Free context reads as zero (R69, R506). DESIGN CHOICE: R506's text has a Free
context read as zero, while its Cold and Warm columns give `SRC` 0xFF and R69 `UNIT` 0xFF; the text is followed, so the
register of a context that is Free after reset reads as zero (assumption 29). -/
def ctxRegBits (s : State) (i : CtxId) (f : Ctx → BitVec 64) : BitVec 64 := if (s.ctx i).st = .free then 0 else f (s.ctx i)

/-- `CMB_CTX_CTL_i` (R506). -/
def ctlBits (x : Ctx) : BitVec 64 :=
  fields [(0, if x.st = .faulted then x.fpc.toNat else 0), (32, x.trapMask.toNat), (48, b2n x.stat), (49, x.slot.val)]

/-- `CMB_CTX_FREC_i` (R506). -/
def frecBits (r : FRec) : BitVec 64 := fields [(0, r.first.toNat), (2, b2n r.valid), (3, r.src.toNat), (32, r.pc.toNat)]

/-- The partition that owns a forager (R508). -/
def fgrOwner (s : State) (n : ChanId) : Option PartId := allPart.find? fun p => ownsForager s p n

/-- `FGR_STAT_n` (R508). -/
def fgrBits (s : State) (n : ChanId) : BitVec 64 :=
  let x := s.fgr n
  let own := fgrOwner s n
  let run := scanOn s n
  fields [(0, b2n x.retired), (1, b2n run.isSome), (2, b2n run.isSome), (8, (run.map fun c => c.val).getD 0), (16, (standinOf s n).val),
    (21, (own.map fun p => p.val).getD 0), (24, b2n own.isSome), (32, x.extents.toNat)]

/-- The scrub register of a kind (R296). -/
def scrubOf (s : State) (k : Fin 3) : Scrub :=
  match k with
  | 0 => s.tiers.scrubN
  | 1 => s.tiers.scrubF
  | 2 => s.tiers.scrubS

/-- `SCH_CTX_STAT_i` (R322). -/
def ctxStatBits (s : State) (i : CtxId) : BitVec 64 :=
  let x := s.ctx i
  if x.st = .free then 0
  else
    fields [(0, ctxStCode x.st), (3, b2n x.seqr.isSome), (4, (x.seqr.map fun q => q.val).getD 0), (8, b2n ((s.part x.part).holder == some i)),
      (9, b2n ((s.part x.part).parked == some i)), (10, b2n (isPinned s i)), (11, b2n (swapRunnable s i)), (12, x.part.val),
      (16, x.lastRun.toNat % 2 ^ 48)]

/-- `SCH_PART_STAT_p` (R322). -/
def partStatBits (s : State) (p : PartId) : BitVec 64 :=
  let x := s.part p
  let n := (allCtx.filter fun c => (s.ctx c).st != .free && (s.ctx c).part == p).length
  fields [(0, n), (7, b2n x.defined), (8, (x.holder.map fun c => c.val).getD 0), (14, b2n x.holder.isSome),
    (16, (x.parked.map fun c => c.val).getD 0), (22, b2n x.parked.isSome), (32, x.saves.toNat)]

/-- The schedule registers (R362). -/
def schedBits (s : State) : BitVec 64 :=
  fields [(0, (s.fab.sched.map fun q => q.sgen.toNat).getD 0), (32, s.fab.member.toNat), (41, b2n s.fab.sched.isSome), (48, s.fab.overrun.toNat)]

/-- `FAB_PORT_p` (R362). -/
def portBits (x : PortSt) : BitVec 64 :=
  fields [(0, x.lanes.toNat), (3, b2n x.link), (4, b2n x.degr), (16, x.rxerr.toNat), (40, x.txdrop.toNat)]

/-- `TEL_PWR` (R447). -/
def pwrBits (s : State) : BitVec 64 :=
  fields [(0, s.tel.p1 / unitUw % 65536), (16, s.tel.limit.toNat), (32, s.tel.lsrc.toNat), (34, b2n (s.tel.exc != 0)), (35, b2n s.tel.guard),
    (36, gapNow s), (40, b2n (thermNow s))]

/-- The boot store registers (R469, R470): `CMD` and `PWD` are write-only. -/
def bstBits (s : State) (k : Fin 7) : BitVec 64 :=
  match k with
  | 0 => s.bst.addr.zeroExtend 64
  | 1 => s.bst.data.zeroExtend 64
  | 2 => 0
  | 3 => 0
  | 4 => s.bst.wait.zeroExtend 64
  | 5 => bstStat s
  | 6 => fields [(0, b2n (sectorProt s (bstSector s))), (1, b2n (s.bst.einc.contains (bstSector s)))]

/-- `ERR_CE_STAT_x` (R285). -/
def ceStatBits (t : CeTab) : BitVec 64 :=
  fields ([(0, t.valid.toNat), (16, t.next.toNat)] ++
    ((List.range 16).map fun e => (32 + 2 * e, (t.ents.toList.getD e ⟨0, 0, 0⟩).kind.toNat)))

/-- The value of a register. -/
def regValue (s : State) : RegName → BitVec 64
  | .id c => fields [(0, c), (16, 1), (32, 1)]
  | .amap a => amapBits s a
  | .aexc a k => aexcBits s a k
  | .ctxExc i => ctxRegBits s i fun x => excWordBits x.flags x.exc
  | .ctxCtl i => ctxRegBits s i ctlBits
  | .ctxFrec i => ctxRegBits s i fun x => frecBits x.frec
  | .ctxCoord i k => ctxRegBits s i fun x => (if k = 0 then x.frec.m else if k = 1 then x.frec.n else x.frec.k).zeroExtend 64
  | .fgrStat n => fgrBits s n
  | .fgrBytes n => (s.fgr n).bytes
  | .scrub k => fields [(0, (scrubOf s k).lap.toNat), (32, (scrubOf s k).laps.toNat)]
  | .pool => fields [(0, s.tiers.freeN.toList.sum), (20, s.tiers.freeF), (40, s.tiers.freeS)]
  | .xlease => fields [(0, s.tiers.xevict.toNat), (16, s.tiers.lend.toNat)]
  | .ctxStat i => ctxStatBits s i
  | .partStat p => partStatBits s p
  | .fabNode => fields [(0, s.fab.node.toNat), (12, b2n s.fab.auto), (13, b2n s.fab.set), (16, s.fab.prio.toNat)]
  | .fabEui => s.otp.eui
  | .fabHive => fields [(0, s.fab.hive.toNat), (16, hiveCode s.fab.st), (20, s.fab.knode.toNat), (32, s.fab.epoch.toNat)]
  | .fabSched => schedBits s
  | .fabRound => s.fab.round
  | .fabPort p => portBits s.fab.ports[p]
  | .hstAuth => fields [(0, authMask), (40, b2n s.host.dbg)]
  | .hstDeny => s.host.deny.zeroExtend 64
  | .hstRlock => fields [(0, locksUsed s), (16, s.host.peak.toNat)]
  | .hstPstate => fields [(0, s.host.ps.toNat), (3, b2n s.host.entry.isSome)]
  | .timNow => s.time.now
  | .timSync => fields [(0, s.time.offset.toNat), (32, b2n s.time.insync), (33, b2n s.time.holdover)]
  | .telSens i => fields [(0, (sensor s i).value.toNat), (32, b2n (sensor s i).valid)]
  | .telPwr => pwrBits s
  | .telLimit => s.tel.written.zeroExtend 64
  | .telClk => fields [(0, s.tel.clkC.toNat), (11, s.tel.clkF.toNat), (22, if s.rst.trimv then seqClk s else s.tel.clkS.toNat)]
  | .calStat => fields [(0, b2n s.rst.trimv), (1, s.rst.crcf.toNat), (3, b2n s.rst.safe), (4, b2n s.cal.userw)]
  | .calSens i => fields [(0, s.cal.off[i].toNat), (16, s.cal.mult[i].toNat)]
  | .rlBias k => if k = 0 then s.cal.bias0 else s.cal.bias1.zeroExtend 64
  | .calEq l => s.cal.eq[l].zeroExtend 64
  | .rstCause => fields [(0, s.rst.cause.toNat), (16, s.rst.stamp.toNat)]
  | .rstBlk => fields [(0, s.rst.blk.toNat), (9, b2n (s.rst.act != .none)), (10, b2n s.rst.err), (11, b2n s.rst.forced)]
  | .rstBlkTmo => s.rst.tmo.zeroExtend 64
  | .rstWdog => s.rst.wdog.zeroExtend 64
  | .bst k => bstBits s k
  | .supPrimacy => fields [(0, s.sup.epoch.toNat), (16, s.sup.holder.val), (17, b2n s.sup.valid), (18, b2n s.sup.ok[0]), (19, b2n s.sup.ok[1]),
      (32, s.sup.fenced.toNat)]
  | .supClaim => 0
  | .supHb n => s.sup.one[n].hb.zeroExtend 64
  | .ceStat t => ceStatBits s.tiers.ce[t]
  | .ceOvf t => s.tiers.ce[t].ovf.zeroExtend 64
  | .ceA t e => s.tiers.ce[t].ents[e].a
  | .ceB t e => s.tiers.ce[t].ents[e].b
  | .rprCmb => fields [(0, s.tiers.sprUsed.toNat), (16, s.tiers.sprLeft.toNat)]
  | .rprDram => fields (((List.range 4).map fun i => (8 * i, (s.tiers.rprStk.toList.getD i 0).toNat)) ++
      [(32, s.tiers.rprPkg.toNat), (48, s.tiers.rprRet.toNat)])

/-! ## Reads -/

/-- The 64-bit mask of bytes `lo` up to but not including `hi`. -/
def byteMask (lo hi : Nat) : BitVec 64 := BitVec.ofNat 64 ((2 ^ (8 * (hi - lo)) - 1) * 2 ^ (8 * lo))

/-- A field at bit `lo` of a register with the bytes of a mask cleared. -/
def clearField {w : Nat} (v : BitVec w) (lo : Nat) (m : BitVec 64) : BitVec w := v &&& ~~~(m >>> lo).setWidth w

/-- The bytes of RC fields that a read returned are cleared (R500). -/
def clearRc (s : State) (r : RegName) (m : BitVec 64) : State :=
  match r with
  | .fgrStat n => s.setFgr n { s.fgr n with extents := clearField (s.fgr n).extents 32 m }
  | .fgrBytes n => s.setFgr n { s.fgr n with bytes := clearField (s.fgr n).bytes 0 m }
  | .fabPort p =>
    let x := s.fab.ports[p]
    { s with fab := { s.fab with ports := s.fab.ports.set p { x with rxerr := clearField x.rxerr 16 m, txdrop := clearField x.txdrop 40 m } } }
  | .hstDeny => { s with host := { s.host with deny := clearField s.host.deny 0 m } }
  | .hstRlock => { s with host := { s.host with peak := clearField s.host.peak 16 m } }
  | .supPrimacy => { s with sup := { s.sup with fenced := clearField s.sup.fenced 32 m } }
  | .ceOvf t => { s with tiers := { s.tiers with ce := s.tiers.ce.set t { s.tiers.ce[t] with ovf := clearField s.tiers.ce[t].ovf 0 m } } }
  | _ => s

/-- A read of bytes `lo` up to but not including `hi` of the register at an aligned offset: the value of those bytes, and
the state after it (R497, R499, R500). -/
def readReg (s : State) (off lo hi : Nat) : State × BitVec 64 :=
  match regName off with
  | none => (s, 0)
  | some r => (clearRc s r (byteMask lo hi), (regValue s r &&& byteMask lo hi) >>> (8 * lo))

/-- Whether a port may read registers (R430, R456, R501, R502). -/
def mayRead (s : State) (p : Port) : Bool :=
  warmable s && match p with
    | .supervisor _ _ => true
    | _ => mayWrite s .info p

/-- A read that leaves on its port. -/
def putRead (s : State) (p : Port) (v : BitVec 64) : State := { s with out := { s.out with reads := (p, v) :: s.out.reads } }

/-- The accesses of a request of `n` bytes at an offset: one for each register it covers, in ascending offset (R497). -/
def splitRead (off n : Nat) : List (Nat × Nat × Nat) :=
  let a := off / 8
  let b := ceilDiv (off + n) 8
  (List.range (b - a)).map fun i =>
    let r := (a + i) * 8
    (r, off - r, min 8 (off + n - r))

/-- RC_REGISTER_READ: a read of a register, which clears the bytes of RC fields that it returns (R497, R500). -/
def execRcRegisterRead (p : Port) (off : BitVec 32) (n : BitVec 4) (s : State) : Res :=
  .next (if !mayRead s p then s
    else (splitRead off.toNat n.toNat).foldl (fun st a =>
      let r := readReg st a.1 a.2.1 a.2.2
      putRead r.1 p r.2) s)

end Sys2Proof.Machine
end

