-- ==== Sys2Proof/Machine/Regs.lean ====
section
/-! DEFINITION. Writes of BAR2 registers (16, R498 to R502; 12, R430; 14, R462, R478; 08, R273, R274, R296; 10, R362;
13, R445 to R447; 14, R470, R481). -/

namespace Sys2Proof.Machine

/-- A field of a register that a write sets: it must lie wholly within the enabled bytes (R498). -/
def newField (w : Nat) (old : BitVec w) (v : BitVec 64) (be : BitVec 8) (hi lo : Nat) : BitVec w :=
  if wholly be (lo / 8) (hi / 8) then BitVec.ofNat w (bitsOf v hi lo) else old

/-- `LAP` of a scrub register (R296). -/
def lapOf (k : Fin 3) (v : Nat) : BitVec 32 :=
  BitVec.ofNat 32 (if v = 0 then 0 else min 604800 (max (if k = 1 then 3600 else 600) v))

/-- The state with a scrub register replaced. -/
def putScrub (s : State) (k : Fin 3) (x : Scrub) : State :=
  match k with
  | 0 => { s with tiers := { s.tiers with scrubN := x } }
  | 1 => { s with tiers := { s.tiers with scrubF := x } }
  | 2 => { s with tiers := { s.tiers with scrubS := x } }

/-- A write of a scrub register (R296). -/
def putLap (s : State) (k : Fin 3) (v : BitVec 64) (be : BitVec 8) : State :=
  if wholly be 0 3 then putScrub s k { scrubOf s k with lap := lapOf k (bitsOf v 31 0) } else s

/-- A keeper that has itself lent more than `LEND` now allows releases the lease it lent last, and the lender frees the
frames (R358). DESIGN CHOICE: which lease the rule leaves open, and no message tells a keeper another lender's `LEND`
(assumption 12). -/
def trimOne (s : State) : State :=
  if s.fab.st = .keeper ∧ s.tiers.lend.toNat * gibPages < lentPages s then
    match s.fab.lent.getLast? with
    | none => s
    | some l =>
      let s1 := freeLent { s with fab := { s.fab with grants := s.fab.grants.filter fun g => !(g.req == l.req && g.node == l.node) } } l.req l.node
      if l.node = s1.fab.node then
        (s1.fab.leases.filter fun k => k.req == l.req && k.granted && !k.lost).foldl loseLease s1
      else queueBulk s1 0x0B (toNode l.node) (toLe 4 l.req.toNat)
  else s

/-- The same as often as it takes. -/
def trimLent (s : State) : State := s.fab.lent.foldl (fun st _ => trimOne st) s

/-- A write of `TIR_XLEASE` (R296, R358): what a value above 4,096 GiB is stored as is not stated (assumption 2). -/
def putXlease (s : State) (v : BitVec 64) (be : BitVec 8) : State :=
  let x := bitsOf v 12 0
  let xe : BitVec 13 := if x ≤ 4096 then BitVec.ofNat 13 x else (Config.freeWord s.free).truncate 13
  let s1 := if wholly be 0 1 then { s.draw 1 with tiers := { s.tiers with xevict := xe } } else s
  if wholly be 2 3 then trimLent { s1 with tiers := { s1.tiers with lend := BitVec.ofNat 9 (min 448 (bitsOf v 24 16)) } } else s1

/-- A write of `TEL_LIMIT` (R428, R437, R447). -/
def putTelLimit (s : State) (v : BitVec 64) (be : BitVec 8) : State :=
  if wholly be 0 1 then { s with tel := { s.tel with written := storedLimit (bitsOf v 15 0) } } else s

/-- A user calibration register has been written (R447). DESIGN CHOICE: any write with some byte enabled sets `USERW`, also one
that enables no whole field or only reserved bytes (R13; assumption 29). -/
def userw (s : State) (c : Cal) (be : BitVec 8) : State := if be = 0 then s else { s with cal := { c with userw := true } }

/-- A write of `CAL_SENS_i`; those of sensors 94 and 95 are inert (R447). -/
def putCalSens (s : State) (i : Fin 96) (v : BitVec 64) (be : BitVec 8) : State :=
  if 94 ≤ i.val then s
  else userw s { s.cal with off := s.cal.off.set i (newField 16 s.cal.off[i] v be 15 0)
                            mult := s.cal.mult.set i (newField 16 s.cal.mult[i] v be 31 16) } be

/-- A write of `CAL_RL_BIAS_k` (R447). -/
def putBias (s : State) (k : Fin 2) (v : BitVec 64) (be : BitVec 8) : State :=
  userw s (if k = 0 then { s.cal with bias0 := newField 64 s.cal.bias0 v be 63 0 } else { s.cal with bias1 := newField 56 s.cal.bias1 v be 55 0 }) be

/-- A write of `CAL_EQ_l` (R447). -/
def putEq (s : State) (l : Fin 8) (v : BitVec 64) (be : BitVec 8) : State :=
  let o := s.cal.eq[l]
  let f (i : Nat) : Nat := if be.getLsbD i then bitsOf v (8 * i + 7) (8 * i) else bitsOf o (8 * i + 7) (8 * i)
  userw s { s.cal with eq := s.cal.eq.set l (BitVec.ofNat 24 (f 0 + 256 * f 1 + 65536 * f 2)) } be

/-- A write of a boot store register (R470). -/
def putBst (s : State) (p : Port) (k : Fin 7) (v : BitVec 64) (be : BitVec 8) : State :=
  let b := s.bst
  match k with
  | 0 => { s with bst := { b with addr := newField 26 b.addr v be 25 0 } }
  | 1 => { s with bst := { b with data := newField 32 b.data v be 31 0 } }
  | 2 => if be.getLsbD 0 then bstOp (BitVec.ofNat 4 (bitsOf v 3 0)) p s else s
  | 3 => { s with bst := { b with pwd := newField 64 b.pwd v be 63 0 } }
  | 4 => { s with bst := { b with wait := newField 4 b.wait v be 3 0 } }
  | _ => s

/-- A supervisor's write of `RST_BLK` that the latch accepts (R459, R481). -/
def putRstBlk (s : State) (n : Fin 2) (v : BitVec 64) (be : BitVec 8) : State :=
  let r := s.rst
  let hit := be.getLsbD 1
  let b := newField 8 r.blk v be 7 0
  let s1 := { s with rst := { r with blk := b, err := r.err && !(hit && bitOf v 10), forced := r.forced && !(hit && bitOf v 11) } }
  if hit && bitOf v 8 then goWrite s1 n b else s1

/-- A time register of the watchdog or of the idle request (R481). -/
def timeField (lo v : Nat) (old : BitVec 16) (be : BitVec 8) : BitVec 16 :=
  if wholly be 0 1 then BitVec.ofNat 16 (if v = 0 then (if lo = 1 then 1 else 0) else max lo v) else old

/-- A write of a register by a supervisor: drive-wide control registers are fenced (R462, R477, R478, R481). -/
def supWrite (s : State) (n : Fin 2) (e : BitVec 16) (r : RegName) (v : BitVec 64) (be : BitVec 8) : State :=
  match r with
  | .rstBlk =>
    if fenceOk s n e then putRstBlk s n v be
    else
      let s1 := countFenced s
      if be.getLsbD 1 && bitOf v 8 && (supOf (newField 8 s.rst.blk v be 7 0).toNat).isSome then
        { s1 with rst := { s1.rst with err := true } }
      else s1
  | .rstBlkTmo => { s with rst := { s.rst with tmo := timeField 1 (bitsOf v 15 0) s.rst.tmo be } }
  | .rstWdog => { s with rst := { s.rst with wdog := timeField 10 (bitsOf v 15 0) s.rst.wdog be } }
  | .supClaim =>
    if bitsOf be 2 0 = 7 then claim s n (BitVec.ofNat 16 (bitsOf v 15 0)) (Fin.ofNat 2 (bitsOf v 16 16)) (bitsOf v 17 17 == 1) else s
  | .fabNode => if fenceOk s n e then putFabNode s v be else countFenced s
  | .id k => if fenceOk s n e || !(k == 4 || k == 5 || k == 6) then s else countFenced s
  | .fabEui => if fenceOk s n e then s else countFenced s
  | .fabHive => if fenceOk s n e then s else countFenced s
  | .fabSched => if fenceOk s n e then s else countFenced s
  | .fabRound => if fenceOk s n e then s else countFenced s
  | .fabPort _ => if fenceOk s n e then s else countFenced s
  | .hstAuth => if fenceOk s n e then s else countFenced s
  | .hstDeny => if fenceOk s n e then s else countFenced s
  | .hstRlock => if fenceOk s n e then s else countFenced s
  | .hstPstate => if fenceOk s n e then s else countFenced s
  | .ctxStat _ => if fenceOk s n e then s else countFenced s
  | .partStat _ => if fenceOk s n e then s else countFenced s
  | .scrub k => putLap s k v be
  | .xlease => putXlease s v be
  | .telLimit => putTelLimit s v be
  | .calSens i => putCalSens s i v be
  | .rlBias k => putBias s k v be
  | .calEq l => putEq s l v be
  | .bst k => putBst s (.supervisor n e) k v be
  | _ => s

/-- The class of R430 that writes of a register belong to; none for registers that no such write can change (R502). -/
def regCls : RegName → Option Cls
  | .scrub _ => some .queues
  | .pool => some .queues
  | .xlease => some .queues
  | .fabNode => some .fabric
  | .fabEui => some .fabric
  | .fabHive => some .fabric
  | .fabSched => some .fabric
  | .fabRound => some .fabric
  | .fabPort _ => some .fabric
  | .telLimit => some .power
  | .calStat => some .cal
  | .calSens _ => some .cal
  | .rlBias _ => some .cal
  | .calEq _ => some .cal
  | .bst _ => some .bstProt
  | .id k => if k == 3 then some .queues else if k == 5 then some .fabric else if k == 9 then some .cal
    else if k == 11 then some .bstProt else none
  | _ => none

/-- Whether a register is the supervisors' alone (R462, R502). -/
def supOnly : RegName → Bool
  | .rstCause => true
  | .rstBlk => true
  | .rstBlkTmo => true
  | .rstWdog => true
  | .supPrimacy => true
  | .supClaim => true
  | .supHb _ => true
  | .id k => k == 10 || k == 12
  | _ => false

/-- What an admitted write of the host, management or debug port sets (R498, R502). -/
def portPut (s : State) (p : Port) (r : RegName) (v : BitVec 64) (be : BitVec 8) : State :=
  match r with
  | .scrub k => putLap s k v be
  | .xlease => putXlease s v be
  | .fabNode => putFabNode s v be
  | .telLimit => putTelLimit s v be
  | .calSens i => putCalSens s i v be
  | .rlBias k => putBias s k v be
  | .calEq l => putEq s l v be
  | .bst k => putBst s p k v be
  | _ => s

/-- A write of the register at an aligned offset. -/
def writeReg (s : State) (p : Port) (off : Nat) (v : BitVec 64) (be : BitVec 8) : State :=
  if be = 0 then s
  else
    match regName off with
    | none => s
    | some r =>
      match p with
      | .supervisor n e => supWrite s n e r v be
      | _ =>
        if !reaches s p then s
        else if supOnly r then countDeny s
        else
          match regCls r with
          | none => s
          | some k => if mayWrite s k p then portPut s p r v be else countDeny s

/-- A write of up to 8 bytes at an offset: one access to each register it covers (R497, R498). -/
def writeAt (s : State) (p : Port) (off : Nat) (v : BitVec 64) (be : BitVec 8) : State :=
  let k := off % 8
  if k = 0 then writeReg s p off v be
  else writeReg (writeReg s p (off - k) (v <<< (8 * k)) (be <<< k)) p (off - k + 8) (v >>> (8 * (8 - k))) (be >>> (8 - k))

/-- BAR2_REGISTER_WRITE (R498 to R502); writes during the exit from reset are ignored. -/
def execBar2RegisterWrite (p : Port) (off : BitVec 32) (v : BitVec 64) (be : BitVec 8) (s : State) : Res :=
  .next (if regsLive s then writeAt s p off.toNat v be else s)

/-- TEL_LIMIT_WRITE (R428, R430, R437, R447). -/
def execTelLimitWrite (p : Port) (v : BitVec 64) (be : BitVec 8) (s : State) : Res :=
  .next (if regsLive s then writeReg s p 0x1C00408 v be else s)

end Sys2Proof.Machine
end

