-- ==== Sys2Proof/Machine/Mgmt.lean ====
section
/-! DEFINITION. The management port (12, R429, R430; 14, R448, R456, R473; 17, R516). Message layouts are the other
standard's (assumption 9). -/

namespace Sys2Proof.Machine

/-- What the provisioned identifier carries, by which the I3C controller assigns the drive its dynamic address (R522). -/
def provisionedId (s : State) : BitVec 32 := s.otp.eui.truncate 32

/-- A response on the management port. -/
def miPut (s : State) (tag : BitVec 16) (code : BitVec 8) (data : Bytes) : State :=
  { s with out := { s.out with mi := { tag := tag, code := code, data := data } :: s.out.mi } }

/-- Response data whose content another standard defines (assumption 9). -/
def miData (s : State) (n : Nat) : Bytes := (List.range n).map (Config.miByte s.free)

/-- Whether the management port is powered and awake: 3.3 Vaux is present, and the drive is not in safe mode (R456,
R516). -/
def miUp (s : State) : Bool := s.pins.aux && !(s.pins.main && s.rst.safe)

/-- An NVMe-MI message: with 12 V absent it is answered with Internal Error and has no side effect (R516); the firmware
serves the others (R453), and in recovery only firmware commands are accepted (R473). -/
def miCmd (s : State) (tag : BitVec 16) (f : State → State) : Res :=
  .next (
    if !miUp s then s
    else if !s.pins.main then miPut s tag 2 []
    else if s.rst.phase = .run then f s.tickSeq
    else if s.rst.phase = .recovery then miPut s.tickSeq tag 2 []
    else s)

/-- A data structure of NVMe-MI: of the subsystem, the version 1.2 (R8); of a PCIe port, the largest payload as a power of two
times 128 bytes, the six rates, the rate in use, and the widest and the present width (R398), both as in Link Status. The places are the standard's (assumption 9). -/
def miStruct (s : State) (dtyp : BitVec 8) : Bytes :=
  let lnk := s.host.pcie.linkStatus
  let lay (l : List (Nat × Bytes)) : Bytes := l.foldl (fun b p => b.take p.1 ++ p.2 ++ b.drop (p.1 + p.2.length)) (miData s 32)
  if dtyp = 0 then lay [(1, [1, 2])]
  else if dtyp = 1 then lay [(0, [1]), (8, toLe 1 (Nat.log2 (s.host.pcie.maxPay / 128)) ++ [0x3F] ++ toLe 1 (bitsOf lnk 3 0) ++ [8] ++ toLe 1 (bitsOf lnk 9 4))]
  else miData s 32

/-- READ_NVME_MI_DATA_STRUCTURE (R429): `DTYP` 0 to 4 are the standard's structures. -/
def execReadNvmeMiDataStructure (tag : BitVec 16) (dtyp : BitVec 8) (s : State) : Res :=
  miCmd s tag fun s => if 4 < dtyp.toNat then miPut s tag 4 [] else miPut (s.draw 1) tag 0 (miStruct s dtyp)

/-- SUBSYSTEM_HEALTH_STATUS_POLL (R429). -/
def execSubsystemHealthStatusPoll (tag : BitVec 16) (s : State) : Res :=
  miCmd s tag fun s => miPut (s.draw 1) tag 0 (miData s 8)

/-- CONTROLLER_HEALTH_STATUS_POLL (R429). -/
def execControllerHealthStatusPoll (tag : BitVec 16) (s : State) : Res :=
  miCmd s tag fun s => miPut (s.draw 1) tag 0 (miData s 16)

/-- Configuration identifiers of NVMe-MI: 1 SMBus frequency, 2 health status change, 3 MCTP unit size (assumption 9). -/
def cfgOk (c : BitVec 8) : Bool := c == 1 || c == 2 || c == 3

/-- CONFIGURATION_GET (R429): a value not set since reset is the standard's default. -/
def execConfigurationGet (tag : BitVec 16) (cfg : BitVec 8) (s : State) : Res :=
  miCmd s tag fun s =>
    if !cfgOk cfg then miPut s tag 4 []
    else
      match s.host.mcfg.find? fun q => q.1 == cfg with
      | some q => miPut s tag 0 (toLe 4 q.2.toNat)
      | none => miPut (s.draw 1) tag 0 (miData s 4)

/-- CONFIGURATION_SET (R429). -/
def execConfigurationSet (tag : BitVec 16) (cfg : BitVec 8) (v : BitVec 32) (s : State) : Res :=
  miCmd s tag fun s =>
    if !cfgOk cfg then miPut s tag 4 []
    else miPut { s with host := { s.host with mcfg := s.host.mcfg.filter (fun q => q.1 != cfg) ++ [(cfg, v)] } } tag 0 []

/-- VPD_READ: answered from a copy in OTP even with 12 V absent (R429, R516); the content is the standard's
(assumption 9). -/
def execVpdRead (tag : BitVec 16) (off len : BitVec 16) (s : State) : Res :=
  let r (st : State) : State := miPut st tag 0 ((List.range len.toNat).map fun i => Config.standardByte 0x50000 (off.toNat + i))
  if miUp s && !s.pins.main then .next (r s) else miCmd s tag r

/-- MANAGEMENT_RESET: a warm reset with cause management reset (R448, R452). -/
def execManagementReset (tag : BitVec 16) (k : Survivors) (s : State) : Res := miCmd s tag fun s => warmReset (miPut s tag 0 []) k 0x4

/-- The answer to an MCTP control message: one that asks for the versions names 1.3 (R8), what others hold is the standard's
(assumption 9). -/
def mctpData (s : State) (code : BitVec 8) : Bytes :=
  if code = 4 then [0, 1, 0xF1, 0xF3, 0xFF, 0] else miData s (1 + code.toNat % 16)

/-- MCTP_CONTROL_MESSAGE: answered whenever the port has power (R516). -/
def execMctpControlMessage (tag : BitVec 16) (code : BitVec 8) (s : State) : Res :=
  .next (if miUp s && (!s.pins.main || s.rst.phase != .held) then miPut (s.draw 1) tag 0 (mctpData s code) else s)

/-! ## Tunnelled commands -/

/-- The header of a tunnelled command: its tag stands for the command identifier. -/
def miHdr (tag : BitVec 16) : Hdr := { port := .management, sq := 0, cid := tag, psdt := 0, rsv := false }

/-- The Set Features command that a tunnelled one spells (R428, R440). -/
def setFeat (h : Hdr) (d : Dw) (data : Bytes) : Instr :=
  match dwB d.d10 7 0 with
  | 0x04 => .setFeaturesTemperatureThreshold h d
  | 0x06 => .setFeaturesVolatileWriteCache h d
  | 0x0C => .setFeaturesAutonomousPst h d data
  | 0xD0 => .setFeaturesPowerLimit h d
  | 0xD4 => .setFeaturesIdleFallback h d
  | _ => .setFeaturesPowerManagement h d

/-- A vendor command with its operation in CDW10 [3:0] (R402, R404 to R406, R409); codes without a row run the first,
which finds its operation bits wrong (R400). -/
def vendorCmd (h : Hdr) (opc : Nat) (d : Dw) (data : Bytes) : Instr :=
  let op := dwB d.d10 3 0
  match opc with
  | 0xC0 => if op = 1 then .contextDelete h d else .contextCreate h d
  | 0xC5 => if op = 1 then .partitionChange h d data else if op = 2 then .partitionDelete h d data
      else if op = 3 then .partitionReset h d data else .partitionDefine h d data
  | 0xC9 => if op = 1 then .indexDelete h d data else if op = 2 then .indexStageCentroids h d data
      else if op = 3 then .indexStageAttributes h d data else if op = 4 then .indexMerge h d data
      else if op = 5 then .indexSetShare h d data else .indexCreate h d data
  | _ => if op = 1 then .joinHive h d else if op = 2 then .leaveHive h d else if op = 3 then .schedulePiece h d data
      else if op = 4 then .routeEntry h d data else if op = 5 then .fabricSettings h d else .setNodeId h d

/-- Whether a tunnelled command whose constructor shows no dwords has one that is not zero where the drive reserves it, or
names another command set than NVM, Subsystem Local Memory or Computational Programs (R4, R8, R400; assumption 9). -/
def tunnelRsv (opc : Nat) (d : Dw) : Bool :=
  let set (v : BitVec 32) : Bool := dwB v 31 24 == 0 || dwB v 31 24 == 3 || dwB v 31 24 == 4
  match opc with
  | 0x02 => dwB d.d10 14 8 != 0 || !set d.d14 || dwB d.d14 23 0 != 0 || d.d15 != 0
  | 0x06 => dwB d.d10 15 8 != 0 || !set d.d11 || dwB d.d11 23 16 != 0 || d.d12 != 0 || d.d13 != 0 || d.d14 != 0 || d.d15 != 0
  | _ => d.d10 != 0 || d.d11 != 0 || d.d12 != 0 || d.d13 != 0 || d.d14 != 0 || d.d15 != 0

/-- The admin command that an opcode and its dwords spell; opcodes and field places are the base specification's
(assumption 9). -/
def adminCmd (h : Hdr) (opc : Nat) (nsid : BitVec 32) (d : Dw) (data : Bytes) : Instr :=
  match opc with
  | 0x00 => .deleteIoSubmissionQueue h d
  | 0x01 => .createIoSubmissionQueue h d
  | 0x02 => .getLogPage { h with rsv := tunnelRsv opc d } (BitVec.ofNat 8 (dwB d.d10 7 0)) (BitVec.ofNat 16 (dwB d.d11 31 16)) (dwB d.d10 15 15 == 1)
      (BitVec.ofNat 64 (d.d12.toNat + d.d13.toNat * 2 ^ 32)) (BitVec.ofNat 32 (4 * (dwB d.d10 31 16 + 65536 * dwB d.d11 15 0 + 1)))
  | 0x04 => .deleteIoCompletionQueue h d
  | 0x05 => .createIoCompletionQueue h d
  | 0x06 => .identify { h with rsv := tunnelRsv opc d } nsid (BitVec.ofNat 8 (dwB d.d10 7 0))
  | 0x08 => .abort h d
  | 0x09 => setFeat h d data
  | 0x0A => .getFeatures h d
  | 0x0C => .asynchronousEventRequest { h with rsv := tunnelRsv opc d }
  | 0x0D => .namespaceManagement h nsid d data
  | 0x10 => if dwB d.d10 5 3 = 3 then .firmwareCommitActivate h d else .firmwareCommit h d
  | 0x11 => .firmwareImageDownload h d data
  | 0x15 => .namespaceAttachment h nsid d
  | 0x1D => .nvmeMiSend h d data
  | 0x1E => .nvmeMiReceive h d
  | 0x80 => .formatNvm h nsid d
  | 0xC0 => vendorCmd h 0xC0 d data
  | 0xC5 => vendorCmd h 0xC5 d data
  | 0xC9 => vendorCmd h 0xC9 d data
  | 0xCD => vendorCmd h 0xCD d data
  | _ => .unsupportedOpcode h (BitVec.ofNat 8 opc)

/-- The bytes that a tunnelled Get Log Page asks for, zero for another command (R429). -/
def tunnelAsks (opc : BitVec 8) (d : Dw) : Nat := if opc = 2 then 4 * (dwB d.d10 31 16 + 65536 * dwB d.d11 15 0 + 1) else 0

/-- TUNNELLED_ADMIN_COMMAND: the command it carries is fetched and runs next, under port authority (R329, R429, R430, R473). It
carries at most 4,096 bytes of data either way (R429). -/
def execTunnelledAdminCommand (tag : BitVec 16) (opc : BitVec 8) (nsid : BitVec 32) (d : Dw) (data : Bytes) (s : State) : Res :=
  .next (
    if !miUp s then s
    else if !s.pins.main then miPut s tag 2 []
    else if !served s then s
    else if 4096 < data.length ∨ 4096 < tunnelAsks opc d then miPut s tag 4 []
    else { s.tickSeq with ready := s.ready ++ [adminCmd (miHdr tag) opc.toNat nsid d data] })

/-! ## Registers -/

/-- REGISTER_READ: vendor command 0xC0 returns the eight bytes at a BAR2 offset (R429, R497). -/
def execRegisterRead (tag : BitVec 16) (off : BitVec 32) (s : State) : Res :=
  miCmd s tag fun s =>
    let r := (splitRead off.toNat 8).foldl (fun (acc : State × Bytes) a =>
      let q := readReg acc.1 a.1 a.2.1 a.2.2
      (q.1, acc.2 ++ toLe (a.2.2 - a.2.1) q.2.toNat)) (s, [])
    miPut r.1 tag 0 r.2

/-- REGISTER_WRITE: vendor command 0xC1 completes once the write has taken effect (R429, R501). -/
def execRegisterWrite (tag : BitVec 16) (off : BitVec 32) (v : BitVec 64) (s : State) : Res :=
  miCmd s tag fun s => miPut (writeAt s .management off.toNat v 0xFF) tag 0 []

end Sys2Proof.Machine
end

