-- ==== Sys2Proof/Machine/Rounds.lean ====
section
/-! DEFINITION. The rounds of a hive (10, R345 to R355, R359, R360; 09, R311): what a member does at each time of
R347. Each event acts only at its time in the drive's own counter. -/

namespace Sys2Proof.Machine

/-- The drive's part in the schedule that governs: the schedule and its member index. -/
def ownPart (s : State) : Option (Sched × Nat) := s.fab.sched.bind fun q => (ownIndex s q).map fun i => (q, i)

/-- Whether the time counter lies in a window of the present round, in units of 64 ns from its start (R343). -/
def inWindow (s : State) (q : Sched) (off len : Nat) : Bool :=
  let a := q.at s.fab.round.toNat + off * 64
  decide (a ≤ s.time.now.toNat) && decide (s.time.now.toNat < a + len * 64)

/-- The slot messages and the queries of some rounds are gone. -/
def dropSlots (s : State) (f : BitVec 64 → Bool) : State :=
  { s with fab := { s.fab with slots := s.fab.slots.filter (fun m => !f m.round), queries := s.fab.queries.filter fun q => !f q.1 } }

/-- A schedule whose `START` has begun takes effect (R345). -/
def startSched (s : State) : State :=
  match s.fab.pend with
  | some q => if q.begun s.time.now.toNat then activate s q else s
  | none => s

/-- A round has begun: contexts in a BAR of the hive's scope have seen it (R101), the grant for it is in force (R360), and
what belonged to rounds behind it is gone. A query is answered `DEPTH` rounds after its own (R351). -/
def beginRound (s : State) (q : Sched) (r : BitVec 64) : State :=
  let ring (x : Ctx) : Ctx := match x.wait with
    | .bar _ => { x with rang := true }
    | _ => x
  let due := s.fab.grantNext.filter fun g => decide (g.1.toNat ≤ r.toNat)
  let s1 := { s with
    ctxs := if r = s.fab.round ∧ s.fab.fresh = false then s.ctxs else vmap ring s.ctxs
    fab := { s.fab with
      round := r, fresh := false, grant := (due.map Prod.snd).or s.fab.grant, grantNext := if due.isSome then none else s.fab.grantNext
      acked := s.fab.acked.filter fun o => decide (r.toNat < o.2.toNat)
      queries := s.fab.queries.filter fun v => decide (r.toNat ≤ v.1.toNat + q.depth)
      slots := s.fab.slots.filter fun m => decide (r.toNat ≤ m.round.toNat) } }
  closeRound s1

/-- ROUND_START (R345, R346). -/
def execRoundStart (s : State) : Res :=
  if s.rst.phase ≠ .run then .next s
  else
    let s1 := startSched s
    .next (match s1.fab.sched with
      | none => s1
      | some q =>
        if s1.time.now.toNat < q.t0.toNat then s1
        else beginRound s1 q (BitVec.ofNat 64 ((s1.time.now.toNat - q.t0.toNat) / (q.period * 1000))))

/-- The fewest lanes among the ports whose link is up: a frame to all members goes on each of them (R339, R349). -/
def allLanes (s : State) : Nat :=
  match minBy id (([(0 : Fin 2), 1].filter fun p => s.fab.ports[p].link).map (lanesUp s)) with
  | some n => n
  | none => 0

/-- The commands fetched before an intake window began that fit what is left of it, one after another, with the bits they
take (R350). `start` is the window's start. -/
def fitting (vid : BitVec 12) (start room : Nat) : List HiveCmd → Nat → List HiveCmd
  | [], _ => []
  | m :: t, used =>
    let n := used + wireBits vid m.msg.length
    if !m.sent && decide (m.fetched.toNat < start) && decide (n ≤ room) then m :: fitting vid start room t n
    else fitting vid start room t used

/-- A command is carried: its `QUERY` goes to all members, and the drive's own hive step is queued (R350, R351). -/
def carry (s : State) (m : HiveCmd) : State :=
  let r := s.fab.round
  let s1 := { s with fab := { s.fab with cmds := s.fab.cmds.map fun k => if k.sq = m.sq ∧ k.cid = m.cid then { k with round := r, sent := true } else k } }
  queueHive (sendMsg s1 0x03 toAll r m.msg) r s.fab.node (pairKey (stampOf s1) s1.time.seq) m.msg

/-- INTAKE_WINDOW (R347 step 1, R350). -/
def execIntakeWindow (s : State) : Res :=
  .next (match ownPart s with
    | none => s
    | some (q, i) =>
      let e := q.slot s.fab.round.toNat i
      if !s.time.insync || !mayTransmit s || !inWindow s q e.inOff e.inLen then s
      else
        let a := q.at s.fab.round.toNat + e.inOff * 64
        let room := roomIn s s.fab.inUsed (allLanes s) a (e.inLen * 64)
        let l := fitting s.fab.vid a room s.fab.cmds 0
        let s1 := l.foldl carry s
        { s1 with fab := { s1.fab with
            inUsed := usedIn s (allLanes s) (e.inLen * 64) room (l.foldl (fun n m => n + wireBits s.fab.vid m.msg.length) 0) } })

/-- Whether the hive context runs a hive step (R351). -/
def hiveRuns (s : State) : Bool :=
  match s.fab.hiveCtx with
  | some c => ((s.ctx c).cur.map StepReq.isHive).getD false
  | none => false

/-- COMPUTE_WINDOW_END (R347 step 2). -/
def execComputeWindowEnd (s : State) : Res :=
  .next (match ownPart s with
    | none => s
    | some (q, i) =>
      let e := q.slot s.fab.round.toNat i
      if s.time.insync && decide (q.at s.fab.round.toNat + (e.cmpOff + e.cmpLen) * 64 ≤ s.time.now.toNat) && hiveRuns s then
        { s with fab := { s.fab with overrun := satInc s.fab.overrun } }
      else s)

/-- The coverage bitmap of the drive's message: what the RECVs of its context brought for the round, and its own bit once
the hive step has completed without fault (R352). -/
def ownCover (s : State) (m : SlotMsg) (i : Nat) : BitVec 512 :=
  let c := ((s.fab.covers.find? fun v => v.round == m.round && v.ctx == m.ctx).map fun v => v.bits).getD 0
  if m.own then c ||| BitVec.twoPow 512 i else c

/-- A slot frame for a node on the entry's port or the other, counted where neither serves (R339). -/
def sendSlot (s : State) (e : SlotEnt) (n : BitVec 12) (typ : BitVec 8) (body : Bytes) : State :=
  match slotPort s n e.port with
  | some p => sendOn s (fun _ => [p]) typ (toNode n) s.fab.round body
  | none => countDrops s e.port (segSizes body.length).length

/-- The end of a slot of the present round (R347 step 4). -/
def slotStop (s : State) (e : SlotEnt) : Nat :=
  ((s.fab.sched.map fun q => q.at s.fab.round.toNat).getD 0) + (e.slotOff + e.slotLen) * 64

/-- The bits that a slot takes at the lanes then up on the port for a node (R349), and that end within it (R347 step 4). -/
def slotBits (s : State) (e : SlotEnt) (n : BitVec 12) : Nat :=
  match slotPort s n e.port with
  | some p => lanesUp s p * 200 * min (e.slotLen * 64) (slotStop s e - s.time.now.toNat)
  | none => 0

/-- Sends an answer in the slot where it is ready and ends within it behind the `used` bits before it, else the absent
frame (R349). The answer's length in bits is with the state. -/
def answerSlot (s : State) (e : SlotEnt) (i : Nat) (n : BitVec 12) (typ : BitVec 8) (m : Option SlotMsg) (used : Nat) : State × Nat :=
  let absent := (sendSlot s e n 0x05 (toLe 64 0), used + wireBits s.fab.vid 64)
  match m with
  | none => absent
  | some v =>
    let bits := used + wireBits s.fab.vid (64 + v.body.length)
    if decide (bits ≤ slotBits s e n) then (sendSlot s e n typ (toLe 64 (ownCover s v i).toNat ++ v.body), bits) else absent

/-- The message that is ready in the drive's slot of a round for what `f` picks. -/
def readyMsg (s : State) (r : BitVec 64) (f : SlotMsg → Bool) : Option SlotMsg := s.fab.slots.find? fun m => m.round == r && m.ready && f m

/-- The root answers one query: `FINAL`, or `ABSENT` in its place, to the intake member (R349, R351, R355); its own command
it completes itself. -/
def answerQuery (q : Sched) (e : SlotEnt) (i : Nat) (a : State × Nat) (v : BitVec 64 × BitVec 12 × Nat) : State × Nat :=
  let s := a.1
  let r := v.1 + BitVec.ofNat 64 q.depth
  let m := readyMsg s r fun m => m.intake == some v.2.1 && m.ord == v.2.2
  if v.2.1 = s.fab.node then
    (match m with
      | some k => takeFinal s r (ownCover s k i) k.body
      | none => passOver s r, a.2)
  else answerSlot s e i v.2.1 0x06 m a.2

/-- What member `i` sends in its answer slot (R347 steps 3 and 4, R349, R352, R355): the root answers each query of the
round `DEPTH` rounds before, in their order; any other member its merge parent. -/
def slotSend (s : State) (q : Sched) (i : Nat) : State :=
  let r := s.fab.round
  let e := q.slot r.toNat i
  if e.parent = 0xFFFF then
    ((s.fab.queries.filter fun v => v.1 + BitVec.ofNat 64 q.depth == r).foldl (answerQuery q e i) (s, 0)).1
  else (answerSlot s e i (q.node e.parent) 0x04 (readyMsg s r fun _ => true) 0).1

/-- Whether the drive may use its slots: out of step, it waits for the round it was named (R354). -/
def inStepAt (s : State) (r : BitVec 64) : Bool :=
  match s.fab.rejoin with
  | some v => decide (v.toNat ≤ r.toNat)
  | none => true

/-- SLOT_START: within 256 ns of `SLOT_OFF`, once in a round (R347, R349, R354). -/
def execSlotStart (s : State) : Res :=
  .next (match ownPart s with
    | none => s
    | some (q, i) =>
      let r := s.fab.round
      let t := q.slotAt r.toNat i
      if (q.slot r.toNat i).slotLen = 0 ∨ s.fab.slotSent = some r ∨ s.time.now.toNat + 256 < t ∨ t + 256 < s.time.now.toNat then s
      else
        let s1 := if inStepAt s r then { s with fab := { s.fab with rejoin := none } } else s
        let s2 := if s1.time.insync && mayTransmit s1 && inStepAt s1 r then slotSend s1 q i else s1
        { s2 with fab := { s2.fab with
            slotSent := some r
            slots := s2.fab.slots.filter fun m => m.round != r
            queries := s2.fab.queries.filter fun v => v.1 + BitVec.ofNat 64 q.depth != r } })

/-- The round whose acceptance limit for a child has passed last (R347 step 5): the present one or one of the three before, since
a slot ends within its period of at least 50 µs and `LAT_MAX` is below 100 µs (R343, R344). -/
def limitRound (s : State) (q : Sched) (child : Nat) : Nat :=
  ((((List.range 4).map fun k => s.fab.round.toNat - k).find? fun r => decide (q.limitAt r child ≤ s.time.now.toNat))).getD
    (s.fab.round.toNat - 3)

/-- A silent child in the slot of round `r` is out of step: it is named the round in which it rejoins, once, until it has
acknowledged that round and the round has come (R353, R354). The slot answers the query of the round `DEPTH` before, so the round
named, `DEPTH` + 2 behind the query's, is two behind the slot's. -/
def declare (s : State) (r child : Nat) : State :=
  let known := s.fab.oos.any fun o => o.1 == child
  let waits := s.fab.acked.any fun o => o.1 == child && decide (r < o.2.toNat)
  if known || waits then s
  else { s with fab := { s.fab with oos := s.fab.oos ++ [(child, BitVec.ofNat 64 (r + 2))] } }

/-- ACCEPTANCE_LIMIT: a silent child is out of step, and a RECV that has waited for its last child completes (R134,
R353, R354). -/
def execAcceptanceLimit (child : Fin 512) (s : State) : Res :=
  .next (match ownPart s with
    | none => s
    | some (q, i) =>
      let r := limitRound s q child.val
      let e := q.slot r child.val
      if child.val < q.members.length ∧ e.parent = i ∧ q.limitAt r child.val ≤ s.time.now.toNat then
        let silent := s.time.insync && e.slotLen != 0 && (childMsg s r child.val).isNone
        allCtx.foldl recvDone (if silent then declare s r child.val else s)
      else s)

/-! ## The bulk window -/

/-- The bytes of a queued message; an announcement is written as it leaves. -/
def bulkLen (m : BitVec 8 × BitVec 16 × Bytes) : Nat := if m.1 = 1 then 32 else m.2.2.length

/-- How many of a message's frames end within `room` bits one after another, and the bits they take (R348, R349). -/
def framesIn (vid : BitVec 12) (room : Nat) : List Nat → Nat × Nat
  | [] => (0, 0)
  | p :: t =>
    let b := 8 * (p + 86) + (if vid = 0 then 0 else 32)
    if room < b then (0, 0) else let k := framesIn vid (room - b) t; (k.1 + 1, k.2 + b)

/-- Sends `n` frames of the first queued message, of which `a` have gone: its first frame takes the message number (R333). -/
def sendBulk (s : State) (m : BitVec 8 × BitVec 16 × Bytes) (a n : Nat) : State :=
  if m.1 = 1 then sendAnn s
  else if !canSend s m.2.1 then dropMsg s m.2.1 n
  else
    let s1 := if a = 0 then nextMsg { s with fab := { s.fab with bulkMsg := s.fab.msgNo } } else s
    sendPart s1 (msgPorts s1 m.2.1) m.1 m.2.1 s1.fab.round s1.fab.bulkMsg m.2.2 a n

/-- Queued messages go out frame by frame in their order while a frame ends within the window; the rest waits for the next
(R348). `a` frames of the first have gone, `room` bits are left. The state comes with the bits left in the end. -/
def flushBulk : List (BitVec 8 × BitVec 16 × Bytes) → Nat → Nat → State → State × Nat
  | [], _, room, s => ({ s with fab := { s.fab with bulk := [], bulkSent := 0 } }, room)
  | m :: t, a, room, s =>
    let sizes := (segSizes (bulkLen m)).drop a
    let k := framesIn s.fab.vid room sizes
    let s1 := if k.1 = 0 then s else sendBulk s m a k.1
    if k.1 = sizes.length then flushBulk t 0 (room - k.2) s1
    else ({ s1 with fab := { s1.fab with bulk := m :: t, bulkSent := a + k.1 } }, room - k.2)

/-- The member's `POWER` values of the round go to the keeper (R359, R443). -/
def publish (s : State) (q : Sched) (i : Nat) : State :=
  let w := ownPower s q i
  if s.fab.st = .keeper then putPow s w else queueBulk s 0x0E (toNode s.fab.knode) (powerBytes w)

/-- The keeper divides the hive's budget for the next round, from the `POWER` messages of the one before (R360). -/
def budget (s : State) (q : Sched) (i : Nat) : State :=
  if s.fab.st = .keeper ∧ q.power ≠ 0 then
    let g := grantsOf s q
    let s1 := queueBulk s 0x0F toAll (g.flatMap (toLe 4))
    { s1 with fab := { s1.fab with grantNext := g[i]?.map fun v => (s1.fab.round + 1, v) } }
  else s

/-- `RESYNC` to every child out of step (R354). -/
def resyncAll (s : State) (q : Sched) : State :=
  s.fab.oos.foldl (fun st o => queueBulk st 0x07 (toNode (q.node o.1)) (toLe 8 o.2.toNat)) s

/-- What a member queues once for the bulk window of each round (R354, R359, R360, R273); a drive with no member entry
sends only `ANNOUNCE` (R337). -/
def bulkDuties (s : State) (q : Sched) : State :=
    match ownIndex s q with
    | some i =>
      if (s.fab.bulkUsed.any fun u => u.1 == s.fab.round) then s else askEviction (resyncAll (publish (budget s q i) q i) q)
    | none => { s with fab := { s.fab with bulk := s.fab.bulk.filter (fun m => m.1 == 1), bulkSent := 0 } }

/-- BULK_WINDOW (R347 step 6, R348). -/
def execBulkWindow (s : State) : Res :=
  .next (match s.fab.sched with
    | none => s
    | some q =>
      if !s.time.insync || !mayTransmit s || !inWindow s q q.bulkOff q.bulkLen then s
      else
        let s1 := bulkDuties s q
        let room := roomIn s1 s.fab.bulkUsed (allLanes s1) (q.at s.fab.round.toNat + q.bulkOff * 64) (q.bulkLen * 64)
        let r := flushBulk s1.fab.bulk s1.fab.bulkSent room s1
        { r.1 with fab := { r.1.fab with bulkUsed := usedIn s1 (allLanes s1) (q.bulkLen * 64) room (room - r.2) } })

/-- HIVE_ANSWER_TIMEOUT: no `FINAL` has come by the end of round r + d + 1 (R355); without a schedule none can come. -/
def execHiveAnswerTimeout (s : State) : Res :=
  let late (m : HiveCmd) : Bool := match s.fab.sched with
    | some q => m.sent && decide (q.at (m.round.toNat + q.depth + 2) ≤ s.time.now.toNat)
    | none => true
  .next ((s.fab.cmds.filter late).foldl (fun st m => endHiveCmd st m 0 [] false) s)

end Sys2Proof.Machine
end

