-- ==== Sys2Proof/Machine/Ports.lean ====
section
/-! DEFINITION. Time from the grandmaster (10, R326 to R328) and the fabric ports (10, R325; 15, R489; 17, R513). -/

namespace Sys2Proof.Machine

/-! ## Time -/

/-- An offset in nanoseconds as `OFFSET` holds it (R362). -/
def offsetBits (v : Int) : BitVec 32 := BitVec.ofInt 32 (max (-2147483648) (min 2147483647 v))

/-- The correction at the first synchronisation after cold reset: forward at once, or held until grandmaster time
reaches the counter (R327). -/
def correct (t : TimeSt) (gm : BitVec 64) (off : Int) (before : Bool) : TimeSt :=
  if t.corrected || !before || decide (off.natAbs ≤ 1000000) then { t with corrected := true }
  else if off < 0 then { t with corrected := true, now := gm }
  else { t with corrected := true, holdUntil := some gm }

/-- A measurement of the offset from the grandmaster (R326, R328). What the first correction leaves is slewed away
(R327). DESIGN CHOICE: the slew makes up the last measured offset, at the greatest rate (assumption 19). -/
def synced (t : TimeSt) (gm : BitVec 64) (before : Bool) : TimeSt :=
  let off : Int := (t.now.toNat : Int) - gm.toNat
  let t1 := correct t gm off before
  let t2 := { t1 with holdUntil := t1.holdUntil.map fun _ => gm, offset := offsetBits off, holdover := false
                      slew := if t1.holdUntil.isSome ∨ t1.now ≠ t.now then 0 else -off }
  { t2 with insync := t2.holdUntil.isNone && decide (off.natAbs ≤ 200) }

/-- GPTP_SYNC: a measurement with `gm` the grandmaster time, on a port that is up (R326, R327). -/
def execGptpSync (gm : BitVec 64) (s : State) : Res :=
  .next (if s.rst.phase = .run ∧ (s.fab.ports[0].link || s.fab.ports[1].link) = true then
      { s with time := synced s.time gm s.fab.sched.isNone }
    else s)

/-- SYNC_MESSAGES_STOP (R328). -/
def execSyncMessagesStop (s : State) : Res :=
  .next (if s.rst.phase = .run then { s with time := { s.time with holdover := true } } else s)

/-- HOLDOVER_TIMEOUT: 20 ms of holdover have passed (R328). -/
def execHoldoverTimeout (s : State) : Res :=
  .next (if s.time.holdover then { s with time := { s.time with insync := false } } else s)

/-! ## Ports -/

/-- A port with other values. -/
def setPort (s : State) (p : Fin 2) (x : PortSt) : State := { s with fab := { s.fab with ports := s.fab.ports.set p x } }

/-- The good lanes of a port. -/
def goodLanes (x : PortSt) : Nat := ((List.range 4).filter fun i => x.good.getLsbD i).length

/-- A port is down, with its entry in the drive event log (R482 class 0x08, R339): traffic moves to the other port. -/
def portFails (s : State) (p : Fin 2) : State :=
  let x := s.fab.ports[p]
  let s1 := setPort s p { x with lanes := 0, link := false, degr := false, training := false }
  logFault s1 0x08 8 (BitVec.ofNat 16 (p.val * 256)) (if s1.fab.ports[p + 1].link then 0 else 2) 0 0

/-- LANE_FAILURE: the three good lanes retrain as three links (R325, R489); with fewer the port is down. -/
def execLaneFailure (lane : Fin 8) (s : State) : Res :=
  let p : Fin 2 := Fin.ofNat 2 (lane.val / 4)
  let x := s.fab.ports[p]
  let i := lane.val % 4
  .next (if x.good.getLsbD i = false ∨ s.rst.phase ≠ .run then s
    else
      let y := { x with good := x.good &&& ~~~(BitVec.twoPow 4 i), lanes := 0, link := false, degr := false }
      let three := decide (goodLanes y = 3)
      let s1 := logFault (setPort s p { y with training := three }) 0x07 8 (BitVec.ofNat 16 (p.val * 256 + lane.val))
        (if three then 1 else 2) 0 0
      if three then s1 else portFails s1 p)

/-- DEGRADED_TRAINING_TIMEOUT: the three links did not come up within 500 ms (R325). -/
def execDegradedTrainingTimeout (p : Fin 2) (s : State) : Res := .next (if s.fab.ports[p].training then portFails s p else s)

/-- PORT_DOWN (R489). -/
def execPortDown (p : Fin 2) (s : State) : Res := .next (if s.fab.ports[p].link then portFails s p else s)

/-- The cage outputs of a port in use are firmware's own (R457, R512, assumption 7). -/
def driveCage (s : State) (p : Fin 2) : State :=
  { s.draw 3 with pins := { s.pins with
      txdis := s.pins.txdis.set p (Config.freeBit s.free), lpmode := s.pins.lpmode.set p (Config.freeBit (s.free + 1))
      modrstN := s.pins.modrstN.set p (Config.freeBit (s.free + 2)) } }

/-- The sum of two signed equaliser settings, saturated to a byte (R445). -/
def tapSum (a b : BitVec 24) (i : Nat) : Nat :=
  let part (v : BitVec 24) : Int := (BitVec.ofNat 8 (bitsOf v (8 * i + 7) (8 * i))).toInt
  (BitVec.ofInt 8 (max (-128) (min 127 (part a + part b)))).toNat

/-- The settings that a lane's training starts from: the factory defaults and the user's adjustment (R444, R445). -/
def eqSum (s : State) (l : Fin 8) : BitVec 24 :=
  BitVec.ofNat 24 (tapSum s.otp.eq[l] s.cal.eq[l] 0 + 256 * tapSum s.otp.eq[l] s.cal.eq[l] 1 + 65536 * tapSum s.otp.eq[l] s.cal.eq[l] 2)

/-- A port's lanes train (R445). DESIGN CHOICE: a training is the one
moment at which its link comes up (assumption 19). -/
def trainTaps (s : State) (p : Fin 2) : State :=
  { s with fab := { s.fab with taps := vgen 8 fun l =>
      if l / 4 = p.val then eqSum s (Fin.ofNat 8 l) else s.fab.taps.toList.getD l 0 } }

/-- LINK_UP: with four lanes, or with three after a lane has failed (R37, R325, R458, R489). -/
def execLinkUp (p : Fin 2) (lanes : Fin 5) (s : State) : Res :=
  let x := s.fab.ports[p]
  .next (if !s.fab.set || !s.rst.trimv || s.rst.phase != .run || s.host.ps == 4 then s
    else if lanes.val = 4 then setPort (trainTaps (driveCage s p) p) p { x with lanes := 4, link := true, degr := false, good := 0xF, training := false }
    else if lanes.val = 3 then setPort (trainTaps (driveCage s p) p) p { x with lanes := 3, link := true, degr := true, training := false }
    else s)

/-- CAGE_MODULE_PRESENT: the cage supply is on only while `MODPRS_N` is low (R513). -/
def execCageModulePresent (p : Fin 2) (present : Bool) (s : State) : Res :=
  .next { s with pins := { s.pins with present := s.pins.present.set p present
                                       supply := s.pins.supply.set p (present && s.pins.main) } }

end Sys2Proof.Machine
end

