-- ==== Sys2Proof/Machine/Slm.lean ====
section
/-! DEFINITION. The Subsystem Local Memory commands (12, R414; 08, R271, R289, R291). -/

namespace Sys2Proof.Machine

/-- A range of a memory namespace as device addresses: 65 is Tier N, 66 is Tier F, and each ends with its tier (R259, R271,
R414). -/
def memSpan (nsid addr len : Nat) : Option Range :=
  if nsid = 65 then (if addr + len ≤ Config.tierFBase then some (addr, addr + len) else none)
  else if nsid = 66 then
    (if Config.tierFBase + addr + len ≤ Config.tierXBase then some (Config.tierFBase + addr, Config.tierFBase + addr + len) else none)
  else none

/-- The contexts that exist. -/
def liveCtxs (s : State) : List CtxId := allCtx.filter fun c => (s.ctx c).st != .free

/-- The allocated working areas (R271). -/
def allWork (s : State) : List Range := (liveCtxs s).flatMap fun c => workRanges (s.ctx c)

/-- Whether a range lies in allocated working areas (R271). -/
def inWork (s : State) (r : Range) : Bool := covered (allWork s) r.1 (r.2 - r.1)

/-- Whether a memory command on a range waits: a context whose working area it meets has a step in progress (R271), or a
tier controller is under reset (R27). -/
def workBusy (s : State) (r : Range) : Bool :=
  rangeBusy s r || (liveCtxs s).any fun c => (s.ctx c).cur.isSome && (workRanges (s.ctx c)).any fun q => decide (q.1 < r.2) && decide (r.1 < q.2)

/-- A range that a memory command may name, at most `MDTS` long (R271, R399). -/
def memRange (s : State) (nsid addr len : Nat) : Option Range :=
  (memSpan nsid addr len).bind fun r => if decide (len ≤ 1048576) && inWork s r then some r else none

/-- Runs a memory command on its range once no step of its context is in progress and its pages have frames (R266,
R271). -/
def memCmd (s : State) (h : Hdr) (i : Instr) (nsid : BitVec 32) (addr len : Nat) (f : State → Range → State) : State :=
  if nsid ≠ 65 ∧ nsid ≠ 66 then completeSt s h .invalidNs
  else
    match memRange s nsid.toNat addr len with
    | none => completeSt s h .invalidField
    | some r =>
      if workBusy s r then park s i
      else
        match touchRanges s (r :: []) with
        | none => park s i
        | some s1 => f s1 r

/-- MEMORY_READ (R271, R291, R394, R414). -/
def execMemoryRead (h : Hdr) (nsid : BitVec 32) (addr : BitVec 64) (len : BitVec 32) (s : State) : Res :=
  hostCmd s h .data (.memoryRead h nsid addr len) fun s =>
    memCmd s h (.memoryRead h nsid addr len) nsid addr.toNat len.toNat fun s1 r =>
      if rangePoison s1 r then completeSt { s1 with media := { s1.media with dataErr := satInc s1.media.dataErr } } h .unrecovered
      else complete s1 h .success 0 0 (memGets s1.tiers.mem r.1 (r.2 - r.1))

/-- MEMORY_WRITE (R271, R277, R289, R414); safe mode refuses writes of every kind (R456). -/
def execMemoryWrite (h : Hdr) (nsid : BitVec 32) (addr : BitVec 64) (data : Bytes) (s : State) : Res :=
  hostCmd s h .data (.memoryWrite h nsid addr data) fun s =>
    if s.rst.safe then completeSt s h .writeProtected
    else
      memCmd s h (.memoryWrite h nsid addr data) nsid addr.toNat data.length fun s1 r =>
        let s2 := preWrite s1 (r :: [])
        let s3 := { s2 with tiers := { s2.tiers with mem := memOver s2.tiers.mem r.1 data } }
        completeSt (settleDev s3 (r :: [])) h .success

/-- The lowest free range set identifier (R414). -/
def freeSet (s : State) : BitVec 16 :=
  BitVec.ofNat 16 (((List.range 65).find? fun n => n != 0 && !s.host.ranges.any fun q => q.1.toNat == n).getD 64)

/-- MEMORY_RANGE_SET_MANAGEMENT: `CDW10` [3:0] selects 0 create or 1 delete, [31:16] the set to delete; a creation
returns the set's identifier in dword 0 (R271, R400, R414; fields of the other standard, assumption 9). -/
def execMemoryRangeSetManagement (h : Hdr) (d : Dw) (ranges : List MemRange) (s : State) : Res :=
  hostCmd s h .data (.memoryRangeSetManagement h d ranges) fun s =>
    let id := BitVec.ofNat 16 (dwB d.d10 31 16)
    if dwB d.d10 15 4 ≠ 0 ∨ tailBad d = true then completeSt s h .invalidField else
    match dwB d.d10 3 0 with
    | 0 =>
      let ok := ranges.all fun m => match memSpan m.nsid.toNat m.start.toNat m.len.toNat with
        | some r => inWork s r
        | none => false
      if id ≠ 0 ∨ ranges = [] ∨ ok = false ∨ 64 ≤ s.host.ranges.length then completeSt s h .invalidField
      else
        let k := freeSet s
        complete { s with host := { s.host with ranges := s.host.ranges ++ [(k, ranges)] } } h .success (k.zeroExtend 32) 0 []
    | 1 =>
      if ranges.isEmpty && s.host.ranges.any fun q => q.1 == id then
        completeSt { s with host := { s.host with ranges := s.host.ranges.filter fun q => q.1 != id } } h .success
      else completeSt s h .invalidField
    | _ => completeSt s h .invalidField

end Sys2Proof.Machine
end

