-- ==== Sys2Proof/Machine/Telemetry.lean ====
section
/-! DEFINITION. Telemetry, the power and thermal loops and the hold-up bank (13, R432 to R442, R445; 11, R387, R397; 17,
R518, R524, R525). -/

namespace Sys2Proof.Machine

/-! ## Sensors -/

/-- `n / d` rounded with ties away from zero (R178, R445). -/
def roundRat (n : Int) (d : Nat) : Int := if n < 0 then -((2 * n.natAbs + d) / (2 * d) : Nat) else ((2 * n.natAbs + d) / (2 * d) : Nat)

/-- A value as `VALUE` holds it. -/
def valueOf32 (v : Int) : BitVec 32 := BitVec.ofInt 32 (max (-2147483648) (min 2147483647 v))

/-- A calibrated reading (R445): factory gain and offset, then the user multiplier and offset as they were read at the start of
the sample period; neutral factory values while none are loaded, as in safe mode (R444, R456). -/
def calibrated (s : State) (i : Fin 96) (raw : Int) : Int :=
  let none := !s.rst.trimv
  let gn : Int := if none then 1 else s.otp.gainN[i]
  let gd : Nat := if none then 1 else s.otp.gainD[i]
  let fo : Int := if none then 0 else s.otp.offs[i]
  let m : Int := s.tel.calMult[i].toNat
  let uo : Int := s.tel.calOff[i].toInt
  roundRat ((raw * gn + fo * gd) * m + uo * 16384 * gd) (max 1 gd * 16384)

/-- Whether a sensor reads a temperature (R432). -/
def isTemp (i : Nat) : Bool := (List.range 8).any fun g => (groupSens g).any fun k => k.val == i

/-- The plausible range of a reading (R433); its full scale is in the fuses (assumption 4). -/
def plausible (s : State) (i : Fin 96) (v : Int) : Bool :=
  if isTemp i.val then decide (-640 ≤ v ∧ v ≤ 2400) else decide (0 ≤ v ∧ 4 * v ≤ 5 * (s.otp.fs[i] : Nat))

/-- What sensors 94 and 95 report at a turn: the dies of a forager die in turn, one read level after another (R442). -/
def trackWord (s : State) (half : Fin 2) : BitVec 32 :=
  let t := s.tel.turn[half]
  let d : Fin 1536 := Fin.ofNat 1536 (half.val * 768 + t % 768)
  let lv := t / 768 % 15
  let o := (trackedOf s d).getD lv 0
  BitVec.ofNat 32 (d.val / 48 + d.val % 48 * 32 + (lv + 1) * 2048 + (BitVec.ofInt 8 o).toNat * 65536)

/-- A sensor after a sample (R432, R433). -/
def sampled (s : State) (raw : List Int) (i : Fin 96) : Sensor :=
  let q := sensor s i
  if 94 ≤ i.val then { q with value := trackWord s (Fin.ofNat 2 i.val), valid := !q.failed }
  else
    let v := calibrated s i (raw.getD i.val 0)
    { q with value := valueOf32 v, valid := !q.failed, bad := if plausible s i v then 0 else q.bad + 1 }

/-- Every sensor sampled. -/
def sampleAll (s : State) (raw : List Int) : State :=
  { s with tel := { s.tel with
      sens := vgen 96 fun i => sampled s raw (Fin.ofNat 96 i)
      turn := vmap (fun n => (n + 1) % 11520) s.tel.turn
      inSum := s.tel.inSum + calibrated s 89 (raw.getD 89 0), inCnt := s.tel.inCnt + 1 } }

/-- SENSOR_FAILURE: ten implausible samples in a row mark the sensor failed until cold reset (R433). -/
def execSensorFailure (i : Fin 96) (s : State) : Res :=
  let q := sensor s i
  .next (if q.failed ∨ q.bad < 10 then s
    else logFault { s with tel := { s.tel with sens := s.tel.sens.set i { q with failed := true, valid := false } } }
      0x0E 10 (BitVec.ofNat 16 i.val) 0 0 0)

/-! ## Power -/

/-- A sensor's reading as a number; that of a failed one is not used (R433). -/
def readNat (s : State) (i : Fin 96) : Nat := if (sensor s i).failed then 0 else (sensor s i).value.toInt.toNat

/-- The power of an island from its voltage and current sensors, in µW. -/
def islandPow (s : State) (v i : Nat) : Nat := readNat s (Fin.ofNat 96 v) * readNat s (Fin.ofNat 96 i)

/-- Ps in µW (R433): module input voltage and current, or the sum of the islands plus 40 W. -/
def inputPow (s : State) : Nat :=
  if (sensor s 92).failed || (sensor s 93).failed then
    ((List.range 12).foldl (fun a k => a + islandPow s k (12 + k)) 0) + islandPow s 36 38 + islandPow s 37 39 + islandPow s 42 43 + 40000000
  else islandPow s 92 93

/-- One step down (R435): clusters, then foragers, then the sequencer, then the gap level. -/
def stepDown (t : Tel) : Tel :=
  if 600 < t.clkC.toNat then { t with clkC := t.clkC - 25 }
  else if 500 < t.clkF.toNat then { t with clkF := t.clkF - 25 }
  else if 800 < t.clkS.toNat then { t with clkS := t.clkS - 25 }
  else if t.gap.toNat < 15 then { t with gap := t.gap + 1 }
  else t

/-- The highest trimmed ceiling of the cluster islands in service. -/
def topC (s : State) : Nat :=
  (((List.range 12).map (Fin.ofNat 12)).filter fun k => clusterUp s k.val).foldl (fun a k => max a (trimC s k)) 600

/-- The highest trimmed ceiling of the forager islands. -/
def topF (s : State) : Nat := ((List.range 32).map (Fin.ofNat 32)).foldl (fun a n => max a (trimF s n)) 500

/-- One step up: the same steps in the reverse order, where some island can still run faster (R23, R435). -/
def stepUp (s : State) (t : Tel) : Tel :=
  if t.gap ≠ 0 then { t with gap := t.gap - 1 }
  else if t.clkS.toNat + 25 ≤ min 1200 (trimS s) then { t with clkS := t.clkS + 25 }
  else if t.clkF.toNat + 25 ≤ min 1000 (topF s) then { t with clkF := t.clkF + 25 }
  else if t.clkC.toNat + 25 ≤ min 1100 (topC s) then { t with clkC := t.clkC + 25 }
  else t

/-- Several steps down. -/
def stepsDown : Nat → Tel → Tel
  | 0, t => t
  | n + 1, t => stepsDown n (stepDown t)

/-- Every step down (R434). -/
def allDown (t : Tel) : Tel := { t with clkC := 600, clkF := 500, clkS := 800, gap := 15 }

/-- The mean of a list of powers. -/
def meanOf (l : List Nat) : Nat := l.foldl (· + ·) 0 / max 1 l.length

/-- The power loop at the end of a sample period (R434). -/
def powerLoop (s : State) : State :=
  let ps := inputPow s
  let l := limitNow s
  let lw := l * unitUw
  let last := (ps :: s.tel.last).take 10
  let p1 := meanOf last
  let calm := decide (last.length = 10) && last.all fun p => decide (p + 8000000 ≤ lw)
  let t0 := { s.tel with ps := ps, last := last, p1 := p1, limit := BitVec.ofNat 16 l, lsrc := BitVec.ofNat 2 (limitSrc s) }
  let t1 := if lw < ps then stepsDown (min 8 (ceilDiv (ps - lw) 4000000)) t0
    else if calm && !s.tel.guard then stepUp s t0 else t0
  let t2 := if lw < p1 then { t1 with exc := t1.exc + 1 }
    else if t1.exc ≠ 0 then { t1 with exc := 0, guard := true } else t1
  { s with tel := if 80 ≤ t2.exc then allDown t2 else t2 }

/-- What a sample period adds to the present round's sums: the clocks are those that it ran at (R443). -/
def addRound (s : State) : State :=
  { s with tel := { s.tel with
      psSum := s.tel.psSum + inputPow s, psCnt := s.tel.psCnt + 1
      clPow := vgen 12 fun k => s.tel.clPow.toList.getD k 0 + islandPow s k (12 + k)
      clClk := vgen 12 fun k => s.tel.clClk.toList.getD k 0 + clusterClk s (Fin.ofNat 12 k) } }

/-! ## Temperatures -/

/-- The trip point of a group in 1/16 °C (R438). -/
def tripPoint : Nat → Option Int
  | 1 => some 2000
  | 2 => some 2000
  | 3 => some 2000
  | 4 => some 1680
  | 5 => some 1600
  | _ => none

/-- Whether a valid reading has reached its trip point (R439). -/
def tripped (s : State) : Bool :=
  (List.range 8).any fun g => match tripPoint g with
    | some t => (groupReads s g).any fun v => decide (t ≤ v)
    | none => false

/-- A thermal trip: the drive goes down as on loss of power and is held in cold reset until power is removed (R439). -/
def trip (s : State) : State :=
  let s1 := coldReset s (someSurvivors s) 0x0
  { s1 with rst := { s1.rst with phase := .tripped }, free := s1.free + s.nvm.cache.length * 256 + 64
            media := { s1.media with lossSeen := true } }

/-- The composite temperature time counters (R440). -/
def addMinutes (s : State) : State :=
  let k := (tempK s 0).getD 0
  { s with media := { s.media with warnT := s.media.warnT + b2n (decide (343 ≤ k)), critT := s.media.critT + b2n (decide (358 ≤ k)) } }

/-- The user registers are read for the sample period that begins (R445). -/
def readUser (s : State) : State :=
  { s with tel := { s.tel with calOff := s.cal.off, calMult := s.cal.mult, bias0 := s.cal.bias0, bias1 := s.cal.bias1 } }

/-- Whether a sample period ends and the next begins: the time counter is a multiple of 100,000 (R432). -/
def periodAt (s : State) : Bool := s.time.now.toNat % 100000 == 0

/-- SAMPLE_PERIOD (R432 to R434, R439, R440, R442, R444, R445): the loops run once factory calibration is loaded. At another
value of the time counter no period ends. -/
def execSamplePeriod (raw : List Int) (s : State) : Res :=
  .next (if !warmable s || !periodAt s then s
    else
      let s1 := readUser (addMinutes (sampleAll s raw))
      if !s.rst.trimv then s1
      else if tripped s1 then trip s1
      else powerLoop (addRound s1))

/-- EXCURSION_LIMIT: an excursion of 8 ms takes every step down (R434). -/
def execExcursionLimit (s : State) : Res :=
  .next (if s.rst.trimv && decide (80 ≤ s.tel.exc) then { s with tel := allDown s.tel } else s)

/-- GUARD_EXPIRY: the 100 ms after an excursion have passed (R434). -/
def execGuardExpiry (s : State) : Res := .next { s with tel := { s.tel with guard := false } }

/-- OVERPOWER_COMPARATOR (R436). -/
def execOverpowerComparator (s : State) : Res :=
  .next (if warmable s then { s with tel := { s.tel with clkC := if 600 < s.tel.clkC.toNat then 600 else s.tel.clkC, gap := 15 } } else s)

/-! ## Thermal throttling -/

/-- The throttle point of a group in 1/16 °C (R438). -/
def throttlePoint : Nat → Int
  | 0 => 1120
  | 4 => 1520
  | 5 => 1360
  | _ => 1600

/-- The reading of the `i`-th sensor of a group; a failed one gives way to the group's highest valid reading (R433). -/
def throttleRead (s : State) (g i : Nat) : Option Int :=
  match (groupSens g)[i]? with
  | some k => if (sensor s k).valid then some (sensor s k).value.toInt else highest (groupReads s g)
  | none => none

/-- The cluster islands whose ceiling a sensor governs (R438). -/
def hotClusters (g i : Nat) : List (Fin 12) :=
  if g = 2 then [Fin.ofNat 12 i] else if 3 ≤ g then (List.range 12).map (Fin.ofNat 12) else []

/-- The foragers whose ceiling a sensor governs (R438). -/
def hotForagers (g i : Nat) : List (Fin 32) :=
  if g = 0 then [Fin.ofNat 32 i] else if g = 1 then (List.range 16).map fun k => Fin.ofNat 32 (16 * i + k) else []

/-- Whether a cluster's ceiling can go a step lower (R23). -/
def canLowC (s : State) (k : Fin 12) : Bool := decide (625 + 25 * lowC s k ≤ trimC s k)

/-- Whether a forager's ceiling can go a step lower (R23). -/
def canLowF (s : State) (n : Fin 32) : Bool := decide (525 + 25 * lowF s n ≤ trimF s n)

/-- The named ceilings one step lower for a group; where none can go lower, the gap level rises instead (R435, R438). -/
def throttleDown (s : State) (g : Fin 6) (cl : List (Fin 12)) (fo : List (Fin 32)) : State :=
  let c := cl.filter (canLowC s)
  let f := fo.filter (canLowF s)
  if c ≠ [] ∨ f ≠ [] then
    { s with tel := { s.tel with
        throtC := s.tel.throtC.set g (c.foldl (fun (v : Vector Nat 12) (k : Fin 12) => v.set k (v[k] + 1)) s.tel.throtC[g])
        throtF := s.tel.throtF.set g (f.foldl (fun (v : Vector Nat 32) (n : Fin 32) => v.set n (v[n] + 1)) s.tel.throtF[g]) } }
  else if gapTherm s < 15 then { s with tel := { s.tel with gapT := s.tel.gapT.set g (s.tel.gapT[g] + 1) } } else s

/-- What a group has lowered comes up by one step, to the trimmed value at most; a gap level that it raised falls first (R438). -/
def throttleUp (s : State) (g : Fin 6) (cl : List (Fin 12)) (fo : List (Fin 32)) : State :=
  if s.tel.gapT[g] ≠ 0 then { s with tel := { s.tel with gapT := s.tel.gapT.set g (s.tel.gapT[g] - 1) } }
  else
    { s with tel := { s.tel with
        throtC := s.tel.throtC.set g (cl.foldl (fun (v : Vector Nat 12) (k : Fin 12) => v.set k (v[k] - 1)) s.tel.throtC[g])
        throtF := s.tel.throtF.set g (fo.foldl (fun (v : Vector Nat 32) (n : Fin 32) => v.set n (v[n] - 1)) s.tel.throtF[g]) } }

/-- THERMAL_THROTTLE_STEP: one step for the `i`-th sensor of a group (R438). -/
def execThermalThrottleStep (g : Fin 6) (i : Fin 32) (s : State) : Res :=
  let cl := hotClusters g.val i.val
  let fo := hotForagers g.val i.val
  let t := throttlePoint g.val
  .next (if !s.rst.trimv then s
    else
      match throttleRead s g.val i.val with
      | none => s
      | some v =>
        if t < v then throttleDown s g cl fo
        else if (groupReads s g.val).all fun r => decide (r + 32 ≤ t) then throttleUp s g cl fo
        else s)

/-! ## Slower cycles -/

/-- The derated limit in 0.125 W for an inlet temperature given as a sum of 1/16 °C over samples (R524). -/
def derated (sum : Int) (cnt : Nat) : Nat := max 960 (min 1920 ((1920 * (cnt : Int) - 3 * (sum - 560 * cnt)) / (cnt : Int)).toNat)

/-- DERATING_UPDATE: once per second, from the mean inlet temperature, or 45 °C while sensor 89 is failed (R524, R525). -/
def execDeratingUpdate (s : State) : Res :=
  let v := if (sensor s 89).failed then 1440 else if s.tel.inCnt = 0 then s.tel.derate.toNat else derated s.tel.inSum s.tel.inCnt
  .next { s with tel := { s.tel with derate := BitVec.ofNat 16 v, inSum := 0, inCnt := 0 } }

/-- The history bin of a reading in 1/16 °C (R397). -/
def tempBin (v : Int) : Fin 64 := if v < 0 then 0 else Fin.ofNat 64 (min 63 (v.toNat / 32 + 1))

/-- The history of a group with its highest reading counted (R397). -/
def countTemp (s : State) (g : Nat) : Vector (BitVec 32) 64 :=
  let h := s.media.temphist.toList.getD g (Vector.replicate 64 0)
  match highest (groupReads s g) with
  | some v => h.set (tempBin v) (satInc h[tempBin v])
  | none => h

/-- TEMPHIST_UPDATE: once per second, by the highest reading of each group (R397). -/
def execTemphistUpdate (s : State) : Res := .next { s with media := { s.media with temphist := vgen 8 (countTemp s) } }

/-- READ_LEVEL_TRACKING: each offset moves by at most one step towards the level found best (R441). -/
def execReadLevelTracking (die : Fin 1536) (best : List Int) (s : State) : Res :=
  let old := trackedOf s die
  let new := (List.range 15).map fun i =>
    let o := old.getD i 0
    let b := best.getD i o
    max (-127) (min 127 (if o < b then o + 1 else if b < o then o - 1 else o))
  .next (if s.rst.trimv then
      { s with tel := { s.tel with tracked := s.tel.tracked.filter (fun q => q.1 != die) ++ [(die, new)] } }
    else s)

/-! ## The hold-up bank -/

/-- A test of the hold-up bank (R387, R396 class 18, R482 class 0x13). -/
def holdTest (s : State) (pass : Bool) : State :=
  let s1 := { s with media := { s.media with hupFail := !pass } }
  if pass then s1 else logFault (countErr s1 18 1) 0x13 0 0 2 0 0

/-- HOLDUP_TEST: the test every 24 hours (R387); before the bank is charged no warning bit changes (R518). -/
def execHoldupTest (pass : Bool) (s : State) : Res := .next (if s.media.charged then holdTest s pass else s)

/-- HOLDUP_CHARGED: the bank is charged, and its power-up test has ended (R387, R517, R518). -/
def execHoldupCharged (pass : Bool) (s : State) : Res :=
  .next (if warmable s then holdTest { s with media := { s.media with charged := true } } pass else s)

end Sys2Proof.Machine
end

