-- ==== Sys2Proof/Machine/Dispatch.lean ====
section
/-! DEFINITION. The dispatch of a command to its meaning: one arm per row of the table of operations and events. -/

namespace Sys2Proof.Machine

/-- The effect of one command on everything but the queue. -/
def exec (i : Instr) (s : State) : Host.Outcome State Fault Refusal :=
  match i with
  | .loop c w => Sys2Proof.Machine.execLoop c w s
  | .br c w => Sys2Proof.Machine.execBr c w s
  | .call c w => Sys2Proof.Machine.execCall c w s
  | .ret c w => Sys2Proof.Machine.execRet c w s
  | .waitt c w => Sys2Proof.Machine.execWaitt c w s
  | .waittExpiry c => Sys2Proof.Machine.execWaittExpiry c s
  | .bar c w => Sys2Proof.Machine.execBar c w s
  | .barRelease c => Sys2Proof.Machine.execBarRelease c s
  | .fence c w => Sys2Proof.Machine.execFence c w s
  | .add c w => Sys2Proof.Machine.execAdd c w s
  | .sub c w => Sys2Proof.Machine.execSub c w s
  | .mul c w => Sys2Proof.Machine.execMul c w s
  | .and c w => Sys2Proof.Machine.execAnd c w s
  | .or c w => Sys2Proof.Machine.execOr c w s
  | .xor c w => Sys2Proof.Machine.execXor c w s
  | .shl c w => Sys2Proof.Machine.execShl c w s
  | .shr c w => Sys2Proof.Machine.execShr c w s
  | .sra c w => Sys2Proof.Machine.execSra c w s
  | .minu c w => Sys2Proof.Machine.execMinu c w s
  | .maxu c w => Sys2Proof.Machine.execMaxu c w s
  | .cmp c w => Sys2Proof.Machine.execCmp c w s
  | .ldi c w => Sys2Proof.Machine.execLdi c w s
  | .pmov c w => Sys2Proof.Machine.execPmov c w s
  | .lds c w => Sys2Proof.Machine.execLds c w s
  | .sts c w => Sys2Proof.Machine.execSts c w s
  | .mma c w => Sys2Proof.Machine.execMma c w s
  | .dist c w => Sys2Proof.Machine.execDist c w s
  | .cmpk c w => Sys2Proof.Machine.execCmpk c w s
  | .topk c w => Sys2Proof.Machine.execTopk c w s
  | .req c w => Sys2Proof.Machine.execReq c w s
  | .srnd c w => Sys2Proof.Machine.execSrnd c w s
  | .updw c w => Sys2Proof.Machine.execUpdw c w s
  | .ldt c w => Sys2Proof.Machine.execLdt c w s
  | .stt c w => Sys2Proof.Machine.execStt c w s
  | .gath c w => Sys2Proof.Machine.execGath c w s
  | .pref c w => Sys2Proof.Machine.execPref c w s
  | .prefMoveComplete c i1 => Sys2Proof.Machine.execPrefMoveComplete c i1 s
  | .prefFallback c => Sys2Proof.Machine.execPrefFallback c s
  | .scan c w => Sys2Proof.Machine.execScan c w s
  | .foragerReturn c => Sys2Proof.Machine.execForagerReturn c s
  | .pgrdLba c w => Sys2Proof.Machine.execPgrdLba c w s
  | .pgrdVectors c w => Sys2Proof.Machine.execPgrdVectors c w s
  | .pgrdBrood c w => Sys2Proof.Machine.execPgrdBrood c w s
  | .apnd c w => Sys2Proof.Machine.execApnd c w s
  | .apndResume c => Sys2Proof.Machine.execApndResume c s
  | .send c w => Sys2Proof.Machine.execSend c w s
  | .recv c w => Sys2Proof.Machine.execRecv c w s
  | .lease c w => Sys2Proof.Machine.execLease c w s
  | .leaseRelease c w => Sys2Proof.Machine.execLeaseRelease c w s
  | .setpTrapMask c w => Sys2Proof.Machine.execSetpTrapMask c w s
  | .setpRatioBand c w => Sys2Proof.Machine.execSetpRatioBand c w s
  | .setpRatioBandRemoval c w => Sys2Proof.Machine.execSetpRatioBandRemoval c w s
  | .setpDefaultDeadline c w => Sys2Proof.Machine.execSetpDefaultDeadline c w s
  | .evt c w => Sys2Proof.Machine.execEvt c w s
  | .reservedOpcode c opc w => Sys2Proof.Machine.execReservedOpcode c opc w s
  | .stepLimit c => Sys2Proof.Machine.execStepLimit c s
  | .sliceEnd p => Sys2Proof.Machine.execSliceEnd p s
  | .arrayClearComplete p => Sys2Proof.Machine.execArrayClearComplete p s
  | .saveComplete p => Sys2Proof.Machine.execSaveComplete p s
  | .restoreComplete p => Sys2Proof.Machine.execRestoreComplete p s
  | .evictionComplete c => Sys2Proof.Machine.execEvictionComplete c s
  | .starvationTimeout c => Sys2Proof.Machine.execStarvationTimeout c s
  | .loadProgram h ptype slot off total piece => Sys2Proof.Machine.execLoadProgram h ptype slot off total piece s
  | .programActivate h slot => Sys2Proof.Machine.execProgramActivate h slot s
  | .programDeactivate h slot => Sys2Proof.Machine.execProgramDeactivate h slot s
  | .executeProgram h d input => Sys2Proof.Machine.execExecuteProgram h d input s
  | .contextCreate h d => Sys2Proof.Machine.execContextCreate h d s
  | .contextDelete h d => Sys2Proof.Machine.execContextDelete h d s
  | .partitionDefine h d desc => Sys2Proof.Machine.execPartitionDefine h d desc s
  | .partitionChange h d desc => Sys2Proof.Machine.execPartitionChange h d desc s
  | .partitionDelete h d desc => Sys2Proof.Machine.execPartitionDelete h d desc s
  | .partitionReset h d desc => Sys2Proof.Machine.execPartitionReset h d desc s
  | .indexCreate h d desc => Sys2Proof.Machine.execIndexCreate h d desc s
  | .indexDelete h d desc => Sys2Proof.Machine.execIndexDelete h d desc s
  | .indexStageCentroids h d desc => Sys2Proof.Machine.execIndexStageCentroids h d desc s
  | .indexStageAttributes h d desc => Sys2Proof.Machine.execIndexStageAttributes h d desc s
  | .indexMerge h d desc => Sys2Proof.Machine.execIndexMerge h d desc s
  | .indexSetShare h d desc => Sys2Proof.Machine.execIndexSetShare h d desc s
  | .broodMergeStart => Sys2Proof.Machine.execBroodMergeStart s
  | .generationChange => Sys2Proof.Machine.execGenerationChange s
  | .broodMirrorDurable i1 upto => Sys2Proof.Machine.execBroodMirrorDurable i1 upto s
  | .setNodeId h d => Sys2Proof.Machine.execSetNodeId h d s
  | .fabNodeWrite p v be => Sys2Proof.Machine.execFabNodeWrite p v be s
  | .joinHive h d => Sys2Proof.Machine.execJoinHive h d s
  | .leaveHive h d => Sys2Proof.Machine.execLeaveHive h d s
  | .schedulePiece h d data => Sys2Proof.Machine.execSchedulePiece h d data s
  | .routeEntry h d data => Sys2Proof.Machine.execRouteEntry h d data s
  | .fabricSettings h d => Sys2Proof.Machine.execFabricSettings h d s
  | .read h nsid lba nlb o => Sys2Proof.Machine.execRead h nsid lba nlb o s
  | .write h nsid lba nlb o data => Sys2Proof.Machine.execWrite h nsid lba nlb o data s
  | .writeZeroes h nsid lba nlb o => Sys2Proof.Machine.execWriteZeroes h nsid lba nlb o s
  | .writeUncorrectable h nsid lba nlb o => Sys2Proof.Machine.execWriteUncorrectable h nsid lba nlb o s
  | .compare h nsid lba nlb o data => Sys2Proof.Machine.execCompare h nsid lba nlb o data s
  | .datasetManagement h nsid d ranges => Sys2Proof.Machine.execDatasetManagement h nsid d ranges s
  | .flush h nsid d => Sys2Proof.Machine.execFlush h nsid d s
  | .writeCacheProgramComplete dseq => Sys2Proof.Machine.execWriteCacheProgramComplete dseq s
  | .rangeLockRelease => Sys2Proof.Machine.execRangeLockRelease s
  | .identify h nsid cns => Sys2Proof.Machine.execIdentify h nsid cns s
  | .getLogPage h lid lsi rae off len => Sys2Proof.Machine.execGetLogPage h lid lsi rae off len s
  | .getFeatures h d => Sys2Proof.Machine.execGetFeatures h d s
  | .setFeaturesPowerManagement h d => Sys2Proof.Machine.execSetFeaturesPowerManagement h d s
  | .setFeaturesPowerLimit h d => Sys2Proof.Machine.execSetFeaturesPowerLimit h d s
  | .setFeaturesIdleFallback h d => Sys2Proof.Machine.execSetFeaturesIdleFallback h d s
  | .setFeaturesAutonomousPst h d table => Sys2Proof.Machine.execSetFeaturesAutonomousPst h d table s
  | .setFeaturesVolatileWriteCache h d => Sys2Proof.Machine.execSetFeaturesVolatileWriteCache h d s
  | .setFeaturesTemperatureThreshold h d => Sys2Proof.Machine.execSetFeaturesTemperatureThreshold h d s
  | .namespaceManagement h nsid d data => Sys2Proof.Machine.execNamespaceManagement h nsid d data s
  | .namespaceAttachment h nsid d => Sys2Proof.Machine.execNamespaceAttachment h nsid d s
  | .formatNvm h nsid d => Sys2Proof.Machine.execFormatNvm h nsid d s
  | .firmwareImageDownload h d data => Sys2Proof.Machine.execFirmwareImageDownload h d data s
  | .firmwareCommit h d => Sys2Proof.Machine.execFirmwareCommit h d s
  | .firmwareCommitActivate h d => Sys2Proof.Machine.execFirmwareCommitActivate h d s
  | .abort h d => Sys2Proof.Machine.execAbort h d s
  | .asynchronousEventRequest h => Sys2Proof.Machine.execAsynchronousEventRequest h s
  | .createIoSubmissionQueue h d => Sys2Proof.Machine.execCreateIoSubmissionQueue h d s
  | .deleteIoSubmissionQueue h d => Sys2Proof.Machine.execDeleteIoSubmissionQueue h d s
  | .createIoCompletionQueue h d => Sys2Proof.Machine.execCreateIoCompletionQueue h d s
  | .deleteIoCompletionQueue h d => Sys2Proof.Machine.execDeleteIoCompletionQueue h d s
  | .nvmeMiSend h d data => Sys2Proof.Machine.execNvmeMiSend h d data s
  | .nvmeMiReceive h d => Sys2Proof.Machine.execNvmeMiReceive h d s
  | .unsupportedOpcode h opc => Sys2Proof.Machine.execUnsupportedOpcode h opc s
  | .memoryRangeSetManagement h d ranges => Sys2Proof.Machine.execMemoryRangeSetManagement h d ranges s
  | .memoryRead h nsid addr len => Sys2Proof.Machine.execMemoryRead h nsid addr len s
  | .memoryWrite h nsid addr data => Sys2Proof.Machine.execMemoryWrite h nsid addr data s
  | .readNvmeMiDataStructure tag dtyp => Sys2Proof.Machine.execReadNvmeMiDataStructure tag dtyp s
  | .subsystemHealthStatusPoll tag => Sys2Proof.Machine.execSubsystemHealthStatusPoll tag s
  | .controllerHealthStatusPoll tag => Sys2Proof.Machine.execControllerHealthStatusPoll tag s
  | .configurationGet tag cfg => Sys2Proof.Machine.execConfigurationGet tag cfg s
  | .configurationSet tag cfg v => Sys2Proof.Machine.execConfigurationSet tag cfg v s
  | .vpdRead tag off len => Sys2Proof.Machine.execVpdRead tag off len s
  | .managementReset tag k => Sys2Proof.Machine.execManagementReset tag k s
  | .tunnelledAdminCommand tag opc nsid d data => Sys2Proof.Machine.execTunnelledAdminCommand tag opc nsid d data s
  | .registerRead tag off => Sys2Proof.Machine.execRegisterRead tag off s
  | .registerWrite tag off v => Sys2Proof.Machine.execRegisterWrite tag off v s
  | .bar2RegisterWrite p off v be => Sys2Proof.Machine.execBar2RegisterWrite p off v be s
  | .rcRegisterRead p off n => Sys2Proof.Machine.execRcRegisterRead p off n s
  | .telLimitWrite p v be => Sys2Proof.Machine.execTelLimitWrite p v be s
  | .supClaim n v be => Sys2Proof.Machine.execSupClaim n v be s
  | .rstBlkGo p blk => Sys2Proof.Machine.execRstBlkGo p blk s
  | .blockIdle => Sys2Proof.Machine.execBlockIdle s
  | .blockResetTimeout => Sys2Proof.Machine.execBlockResetTimeout s
  | .blockResetDone => Sys2Proof.Machine.execBlockResetDone s
  | .bstRead p => Sys2Proof.Machine.execBstRead p s
  | .bstProgram p => Sys2Proof.Machine.execBstProgram p s
  | .bstErase p => Sys2Proof.Machine.execBstErase p s
  | .bstSuspend p => Sys2Proof.Machine.execBstSuspend p s
  | .bstResume p => Sys2Proof.Machine.execBstResume p s
  | .bstProtect p => Sys2Proof.Machine.execBstProtect p s
  | .bstClearProtection p => Sys2Proof.Machine.execBstClearProtection p s
  | .bstStorePassword p => Sys2Proof.Machine.execBstStorePassword p s
  | .bstLock p => Sys2Proof.Machine.execBstLock p s
  | .bstUnlock p => Sys2Proof.Machine.execBstUnlock p s
  | .bstReservedOp p op => Sys2Proof.Machine.execBstReservedOp p op s
  | .bstOperationComplete ok => Sys2Proof.Machine.execBstOperationComplete ok s
  | .nvmeControllerReset => Sys2Proof.Machine.execNvmeControllerReset s
  | .normalShutdown => Sys2Proof.Machine.execNormalShutdown s
  | .nvmSubsystemReset k => Sys2Proof.Machine.execNvmSubsystemReset k s
  | .powerOn => Sys2Proof.Machine.execPowerOn s
  | .perstAssert k => Sys2Proof.Machine.execPerstAssert k s
  | .perstDeassert => Sys2Proof.Machine.execPerstDeassert s
  | .pcieHotReset k => Sys2Proof.Machine.execPcieHotReset k s
  | .watchdogExpiry k => Sys2Proof.Machine.execWatchdogExpiry k s
  | .trimLoadPass ok => Sys2Proof.Machine.execTrimLoadPass ok s
  | .bootImageLoaded => Sys2Proof.Machine.execBootImageLoaded s
  | .primacyClaimTimeout n => Sys2Proof.Machine.execPrimacyClaimTimeout n s
  | .mapReplay => Sys2Proof.Machine.execMapReplay s
  | .supervisorHeartbeat n => Sys2Proof.Machine.execSupervisorHeartbeat n s
  | .heartbeatTimeout n => Sys2Proof.Machine.execHeartbeatTimeout n s
  | .takeoverComplete => Sys2Proof.Machine.execTakeoverComplete s
  | .supervisorReturnTimeout n => Sys2Proof.Machine.execSupervisorReturnTimeout n s
  | .samplePeriod raw => Sys2Proof.Machine.execSamplePeriod raw s
  | .excursionLimit => Sys2Proof.Machine.execExcursionLimit s
  | .guardExpiry => Sys2Proof.Machine.execGuardExpiry s
  | .overpowerComparator => Sys2Proof.Machine.execOverpowerComparator s
  | .thermalThrottleStep g i1 => Sys2Proof.Machine.execThermalThrottleStep g i1 s
  | .sensorFailure i1 => Sys2Proof.Machine.execSensorFailure i1 s
  | .deratingUpdate => Sys2Proof.Machine.execDeratingUpdate s
  | .temphistUpdate => Sys2Proof.Machine.execTemphistUpdate s
  | .readLevelTracking die best => Sys2Proof.Machine.execReadLevelTracking die best s
  | .powerFail k => Sys2Proof.Machine.execPowerFail k s
  | .powerReturn => Sys2Proof.Machine.execPowerReturn s
  | .holdupTest pass => Sys2Proof.Machine.execHoldupTest pass s
  | .holdupCharged pass => Sys2Proof.Machine.execHoldupCharged pass s
  | .cageModulePresent p present => Sys2Proof.Machine.execCageModulePresent p present s
  | .flashProgramFail b => Sys2Proof.Machine.execFlashProgramFail b s
  | .flashEraseFail b => Sys2Proof.Machine.execFlashEraseFail b s
  | .dieFailure die => Sys2Proof.Machine.execDieFailure die s
  | .dieRebuildComplete die => Sys2Proof.Machine.execDieRebuildComplete die s
  | .eraseSuspend die => Sys2Proof.Machine.execEraseSuspend die s
  | .eraseResume die => Sys2Proof.Machine.execEraseResume die s
  | .patrolRead b level => Sys2Proof.Machine.execPatrolRead b level s
  | .relocation b => Sys2Proof.Machine.execRelocation b s
  | .racking => Sys2Proof.Machine.execRacking s
  | .hostWriteIdle => Sys2Proof.Machine.execHostWriteIdle s
  | .garbageCollection => Sys2Proof.Machine.execGarbageCollection s
  | .checkpoint => Sys2Proof.Machine.execCheckpoint s
  | .scrubPage pl r => Sys2Proof.Machine.execScrubPage pl r s
  | .sramRowRepair pl => Sys2Proof.Machine.execSramRowRepair pl s
  | .dramRowRepair frames site spare => Sys2Proof.Machine.execDramRowRepair frames site spare s
  | .demotionResume => Sys2Proof.Machine.execDemotionResume s
  | .tierFPackageFailure p lost => Sys2Proof.Machine.execTierFPackageFailure p lost s
  | .tierNStackFailure st => Sys2Proof.Machine.execTierNStackFailure st s
  | .arrayFailure phys => Sys2Proof.Machine.execArrayFailure phys s
  | .foragerFailure n => Sys2Proof.Machine.execForagerFailure n s
  | .announce p f pl => Sys2Proof.Machine.execAnnounce p f pl s
  | .schedule p f pl => Sys2Proof.Machine.execSchedule p f pl s
  | .query p f pl => Sys2Proof.Machine.execQuery p f pl s
  | .answer p f pl => Sys2Proof.Machine.execAnswer p f pl s
  | .absent p f pl => Sys2Proof.Machine.execAbsent p f pl s
  | .final p f pl => Sys2Proof.Machine.execFinal p f pl s
  | .resync p f pl => Sys2Proof.Machine.execResync p f pl s
  | .resyncAck p f pl => Sys2Proof.Machine.execResyncAck p f pl s
  | .leaseReq p f pl => Sys2Proof.Machine.execLeaseReq p f pl s
  | .leaseGrant p f pl => Sys2Proof.Machine.execLeaseGrant p f pl s
  | .leaseRel p f pl => Sys2Proof.Machine.execLeaseRel p f pl s
  | .xacc p f pl => Sys2Proof.Machine.execXacc p f pl s
  | .xdata p f pl => Sys2Proof.Machine.execXdata p f pl s
  | .power p f pl => Sys2Proof.Machine.execPower p f pl s
  | .budget p f pl => Sys2Proof.Machine.execBudget p f pl s
  | .reservedFrame p typ f pl => Sys2Proof.Machine.execReservedFrame p typ f pl s
  | .messageTimeout => Sys2Proof.Machine.execMessageTimeout s
  | .routeEntryExpiry node p => Sys2Proof.Machine.execRouteEntryExpiry node p s
  | .announceTimer => Sys2Proof.Machine.execAnnounceTimer s
  | .scheduleResend => Sys2Proof.Machine.execScheduleResend s
  | .electionTimeout => Sys2Proof.Machine.execElectionTimeout s
  | .roundStart => Sys2Proof.Machine.execRoundStart s
  | .intakeWindow => Sys2Proof.Machine.execIntakeWindow s
  | .computeWindowEnd => Sys2Proof.Machine.execComputeWindowEnd s
  | .slotStart => Sys2Proof.Machine.execSlotStart s
  | .acceptanceLimit child => Sys2Proof.Machine.execAcceptanceLimit child s
  | .bulkWindow => Sys2Proof.Machine.execBulkWindow s
  | .hiveAnswerTimeout => Sys2Proof.Machine.execHiveAnswerTimeout s
  | .leaseReplyTimeout req => Sys2Proof.Machine.execLeaseReplyTimeout req s
  | .leaseLossTimeout lender => Sys2Proof.Machine.execLeaseLossTimeout lender s
  | .gptpSync gm => Sys2Proof.Machine.execGptpSync gm s
  | .holdoverTimeout => Sys2Proof.Machine.execHoldoverTimeout s
  | .laneFailure lane => Sys2Proof.Machine.execLaneFailure lane s
  | .degradedTrainingTimeout p => Sys2Proof.Machine.execDegradedTrainingTimeout p s
  | .portDown p => Sys2Proof.Machine.execPortDown p s
  | .psEntryComplete => Sys2Proof.Machine.execPsEntryComplete s
  | .psExitComplete => Sys2Proof.Machine.execPsExitComplete s
  | .idleFallbackTimer => Sys2Proof.Machine.execIdleFallbackTimer s
  | .controllerEnable => Sys2Proof.Machine.execControllerEnable s
  | .linkUp p lanes => Sys2Proof.Machine.execLinkUp p lanes s
  | .syncMessagesStop => Sys2Proof.Machine.execSyncMessagesStop s
  | .eraseComplete die => Sys2Proof.Machine.execEraseComplete die s
  | .mctpControlMessage tag code => Sys2Proof.Machine.execMctpControlMessage tag code s

end Sys2Proof.Machine
end

