-- ==== Sys2Proof/Machine/Tick.lean ====
section
/-! DEFINITION. The passing of one nanosecond, which is what a step does when no command waits (assumption 1):
the time counter (10, R326, R327) and the token buckets (09, R316). -/

namespace Sys2Proof.Machine

/-- A nanosecond of a counter that runs: at most one in every 10,000 is added to it or left out of it, while its
measured offset is not made up, so that it never moves backwards and its rate stays within 100 ppm (R326, R327). -/
def slewTick (t : TimeSt) : TimeSt :=
  if t.slew = 0 then { t with now := t.now + 1 }
  else if t.slewCnt + 1 < 10000 then { t with now := t.now + 1, slewCnt := t.slewCnt + 1 }
  else if 0 < t.slew then { t with now := t.now + 2, slew := t.slew - 1, slewCnt := 0 }
  else { t with slew := t.slew + 1, slewCnt := 0 }

/-- The time counter one nanosecond later; a held counter waits until grandmaster time reaches it (R327). -/
def tickTime (t : TimeSt) : TimeSt :=
  match t.holdUntil with
  | none => slewTick t
  | some g => if t.now.toNat ≤ g.toNat + 1 then { t with holdUntil := none } else { t with holdUntil := some (g + 1) }

/-- A regulator's tokens one nanosecond later, in thousandths of a byte (R316). -/
def tickTokens (r : Reg) (v : Int) : Int := min ((burstBytes r : Int) * 1000) (v + r.rate.toNat)

/-- A partition's buckets one nanosecond later. -/
def tickPart (p : Part) : Part :=
  if p.defined then
    { p with tokens := vgen 4 fun i => tickTokens ((regsOf p.desc).getD i ⟨0, 0⟩) (p.tokens.toList.getD i 0) }
  else p

/-- Whether the drive's clocks run. -/
def clocked (s : State) : Bool :=
  match s.rst.phase with
  | .held => false
  | .noPower => false
  | .tripped => false
  | _ => true

/-- One nanosecond passes; a power state that is wished for is entered once nothing stands against it (R426). -/
def tick (s : State) : State :=
  if clocked s then noteStarved (beginEntry { s with time := tickTime s.time, parts := vmap tickPart s.parts }) else s

end Sys2Proof.Machine
end

