-- ==== Sys2Proof/Machine/Step.lean ====
section
/-! DEFINITION. One step of the drive: the command at the front of the queue runs on the state with the
queue's rest; on an empty queue the drive runs a command it had held, or lets one nanosecond pass. -/

namespace Sys2Proof.Machine

/-- What a step answers when no command waits: a command the drive had held runs (R419, R427), or time passes. -/
def idleStep (s : State) : Host.Outcome State Fault Refusal :=
  match s.ready with
  | c :: rest =>
    match exec c { s with ready := rest, replay := true } with
    | .next t => .next { t with replay := false }
    | o => o
  | [] => .next (tick s)

/-- One step (assumption 1). -/
def step (s : State) : Host.Outcome State Fault Refusal :=
  match s.pending with
  | c :: rest => exec c { s with pending := rest }
  | [] => idleStep s

/-- The state with the command that a word of the table spells at the front of its queue; unchanged where
the word spells none. -/
def State.withFetchWord (s : State) (nbits w : Nat) : State :=
  match decodeTableWord nbits w with
  | some c => { s with pending := c :: s.pending }
  | none => s

end Sys2Proof.Machine
end

