-- ==== Sys2Proof/Safety.lean ====
section
/-! DEFINITION. What a safe state of the drive is, and the terms in which the claims speak of a command that runs: when a
host command is taken up, when an instruction executes, and what completing them means. -/

namespace Sys2Proof.Machine

/-! ## Safe states -/

/-- The byte memories of the drive are in canonical form: the device memory, the boot store and the memories
of every active array. -/
def memOk (s : State) : Prop :=
  Memory.wf s.tiers.mem = true ∧ Memory.wf s.bst.mem = true ∧
    ∀ a : ArrId, Memory.wf (s.arr a).buf = true ∧ Memory.wf (s.arr a).acc = true

/-- The drive event log is a ring of 1,024 entries with `NEXT` below 1,024 (R492). -/
def logOk (s : State) : Prop := s.log.ents.length ≤ 1024 ∧ s.log.next.toNat < 1024

/-- A run of one step goes on: it neither faults nor refuses. -/
def goesOn (s : State) : Prop := ∃ t, step s = .next t

/-! ## Host and management commands -/

/-- Queue, identifier and status of the newest completion. -/
def lastStatus (t : State) : Option (BitVec 16 × BitVec 16 × Status) := t.out.cpls.head?.map fun x => (x.sq, x.cid, x.st)

/-- A command of class `k` is taken up at once: it is fetched, no earlier held command waits to run, its class is open to
its port and is not denied, `PSDT` and the reserved fields are zero, the drive is awake, nothing keeps it behind an earlier command of
its queue, and the range-lock table keeps no earlier command of its queue from being fetched (R399, R400, R420, R421, R427,
R430, R456, R473, R491). -/
def accepts (s : State) (h : Hdr) (k : Cls) : Bool :=
  fetched s h && (s.replay || s.ready.isEmpty) && admitted s k h.port && h.psdt == 0 && !h.rsv && !asleep s && !denied s h k && !staysBehind s h &&
  !(h.port == .host && h.sq != 0 && headHeld s h)

/-! ## Instructions -/

/-- An instruction of context `c` executes: the context runs, the instruction lies in the code, no check at issue fails,
and its predicate holds some lane or it acts lane by lane (R45, R84, R87, R97). -/
def issues (s : State) (c : CtxId) (w : Insn) (lanes : Bool) (chk : List Iss) : Bool :=
  (s.ctx c).st == .running && pcInCode s (s.ctx c) && (firstIss chk).isNone && (lanes || executes (s.ctx c) w)

/-- No degraded mark of the present instruction and no trap of a coarse copy stands (R71, R280). -/
def calm (x : Ctx) : Bool := !x.degTrap && !x.degNow && !x.numTrap

/-- Context `c` has gone on to its next instruction: it runs, its program counter and loop stack have moved as R87 and
R102 say, and the s-registers hold what they held but for a loop's index register. -/
def MovedOn (s t : State) (c : CtxId) : Prop :=
  (t.ctx c).st = .running ∧ (t.ctx c).pc = (advance (s.ctx c)).pc ∧ (t.ctx c).stack = (advance (s.ctx c)).stack ∧
    (t.ctx c).sreg = (advance (s.ctx c)).sreg

/-- The program registers and modes of context `c` that an instruction leaves alone unless it names them. -/
def SameRegs (s t : State) (c : CtxId) : Prop :=
  (t.ctx c).treg = (s.ctx c).treg ∧ (t.ctx c).trapMask = (s.ctx c).trapMask ∧ (t.ctx c).deadline = (s.ctx c).deadline ∧
    (t.ctx c).count = (s.ctx c).count ∧ (t.ctx c).seed = (s.ctx c).seed ∧ (t.ctx c).bands = (s.ctx c).bands

/-- A place lies outside every byte that the segments name. -/
def outsideSegs (s : State) (x : Ctx) (gs : List Seg) (p : Pos) : Prop :=
  ∀ g ∈ gs, ∀ i, i < g.len → posOf s x g.sp g.arr (g.off + i) ≠ p

/-- An instruction of context `c` has written at most the bytes that `gs` names: every other place of memory, of the array
memories, of the input and of the output reads as before, every other context is as it was, and so is everything of the
drive that no instruction of this kind touches: of the fabric, its messages to a lender alone where there is a lease; of the
medium's counts and the event log, what the read of a page in swap adds (R368, R369). -/
def WroteOnly (s t : State) (c : CtxId) (gs : List Seg) : Prop :=
  (∀ p, outsideSegs s (s.ctx c) gs p → readPos t (t.ctx c) p = readPos s (s.ctx c) p) ∧
  (∀ d, d ≠ c → t.ctx d = s.ctx d) ∧ (∀ p, t.part p = { s.part p with tokens := (t.part p).tokens }) ∧ t.slots = s.slots ∧ t.idxs = s.idxs ∧ t.nvm = s.nvm ∧
  ((∀ p ∈ s.tiers.pages, p.loc ≠ .swap) → t.media = s.media ∧ t.log = s.log) ∧ t.fab = { s.fab with bulk := t.fab.bulk, leases := t.fab.leases } ∧ (s.fab.leases = [] → t.fab = s.fab) ∧ t.rst = s.rst ∧ t.sup = s.sup ∧ t.bst = s.bst ∧ t.tel = s.tel ∧
  t.cal = s.cal ∧ t.otp = s.otp ∧ t.pins = s.pins ∧ t.fgrs = s.fgrs ∧ t.fw = s.fw ∧ t.pending = s.pending

/-- An instruction of context `c` that stores in `gs` has completed from state `s0`, in which its accesses stood open: at
most the bytes of `gs` differ from `s`, the t-registers, trap mask, deadline, seed, bands and sequence count stay, the flags
it raised have joined those of before, and with no trap enabled the context has gone on to its next instruction. -/
def Completed (s t : State) (c : CtxId) (gs : List Seg) (fl : BitVec 6) : Prop :=
  (s.ctx c).trapMask = 0 →
    MovedOn s t c ∧ SameRegs s t c ∧ WroteOnly s t c gs ∧ (t.ctx c).flags = (s.ctx c).flags ||| fl

/-- The accumulator bytes in which a tensor instruction sums: where D does not lie in `ACC`, the end of the accumulator
memory of every array that ran a tile holds what the spec leaves unspecified afterwards (R205). -/
def smearSegs (t : Tens) : List Seg :=
  if t.dd.space = .acc then []
  else (t.arrs.filter fun a => t.tiles.any fun tl => t.arrOf tl.1 == a).map fun a =>
    { t := fTD t.w, sp := .acc, arr := a, off := Config.accBytes - 4 * t.tm * t.tn * t.sl, len := 4 * t.tm * t.tn * t.sl }

/-- The state in which the body of an instruction runs when nothing stands in the way of its accesses `rd` and `wr`: each
lies within its bound (R57, R261), no prefetch that is still under way covers them (R126), nothing read is poisoned (R288),
every page has its frame (R266, R269), the partition's regulators have tokens for it (R316), no block it needs is under
reset (R27), and what it reads of lease windows has come (R357). -/
def opened (s : State) (c : CtxId) (rd wr : List Seg) : Option State :=
  let l := devRanges s (s.ctx c) (rd ++ wr)
  if (boundFault s c rd wr).isSome || ((s.ctx c).prefs.any (prefStands l)) ||
      rd.any (segPoison s (s.ctx c)) then none
  else
    match touchRanges s l with
    | none => none
    | some s2 =>
      let b := dues s s2 l
      let far := farPieces s2 (devRanges s2 (s2.ctx c) rd)
      if rd.any (segPoison s2 (s2.ctx c)) then none
      else if inDebt (s.part (s.ctx c).part) b || (rd ++ wr).any (segBusy s (s.ctx c)) || (rd ++ wr).any (segBusy s2 (s2.ctx c)) || !far.all (farHere s2) then none
      else some (preWrite (takeFar (charge (takePrefs s2 c l) (s.ctx c).part b) far) (devRanges s2 (s2.ctx c) wr))

end Sys2Proof.Machine
end

