-- ==== Sys2Proof/WellFormed.lean ====
section
/-! DEFINITION. Which terms of `Instr` stand for a command of the table: the form fields of a PGRD, LEASE,
SETP or reserved opcode agree with the row, and data operands have the length their row gives them. -/

namespace Sys2Proof

/-- Whether an instruction command has the row its word decodes to (R96, R129, R135, R136). -/
def formWf : Instr → Bool
  | .pgrdVectors _ w => pgrdSrc w == 1
  | .pgrdBrood _ w => pgrdSrc w == 2
  | .pgrdLba _ w => pgrdSrc w == 0 || pgrdSrc w == 3
  | .lease _ w => !leaseRel w
  | .leaseRelease _ w => leaseRel w
  | .setpRatioBand _ w => w.mod == 1
  | .setpRatioBandRemoval _ w => w.mod == 2
  | .setpDefaultDeadline _ w => w.mod == 3
  | .setpTrapMask _ w => w.mod == 0 || decide (4 ≤ w.mod.toNat)
  | .reservedOpcode _ o _ => opcReserved o
  | _ => true

/-- Whether a scrub's result is one its place can give: SRAM has no page code, and a page code correction corrects at
least one symbol (R281, R282, R285). -/
def eccWf (pl : EccPlace) (r : EccResult) : Bool :=
  match pl, r with
  | .tier _, .pageCode n => n != 0
  | _, .pageCode _ => false
  | _, _ => true

/-- Whether the data a command carries has the length its row gives it: one 4,096-byte block for each block
named (R399), one reading for each sensor (R432), five levels of a die's pages (R441), a frame's payload
as long as `PLEN` says (R333), a register access of at most 8 bytes (R497), at most four lanes (R325), 32 table entries of
8 bytes (R428), a stack or a package (R494), a reserved boot store operation (R465). -/
def dataWf : Instr → Bool
  | .write _ _ _ nlb _ d => d.length == 4096 * (nlb.toNat + 1)
  | .compare _ _ _ nlb _ d => d.length == 4096 * (nlb.toNat + 1)
  | .samplePeriod raw => raw.length == 96
  | .rcRegisterRead _ _ n => decide (n.toNat ≤ 8)
  | .reservedFrame _ t _ _ => decide (t.toNat = 0 ∨ 16 ≤ t.toNat)
  | .bstReservedOp _ op => decide (op.toNat = 0 ∨ 11 ≤ op.toNat)
  | .setFeaturesAutonomousPst _ _ table => table.length == 256
  | .dramRowRepair _ site _ => decide (site.toNat < 4 ∨ 0x10 ≤ site.toNat ∧ site.toNat < 0x1E)
  | .scrubPage pl r => eccWf pl r
  | _ => true

/-- Feature identifier of a command of the Set Features rows, CDW10 [7:0] (R418, R425, R428, R440). -/
def fid (d : Dw) : Nat := bitsOf d.d10 7 0

/-- Whether a Set Features or Firmware Commit command has the row its dwords name: the feature identifier, where the first row
stands for those without a row of their own, and the commit action, of which 011b has a row of its own (R474, R475). -/
def rowWf : Instr → Bool
  | .setFeaturesPowerManagement _ d => !(fid d == 0xD0 || fid d == 0xD4 || fid d == 0x0C || fid d == 0x06 || fid d == 0x04)
  | .setFeaturesPowerLimit _ d => fid d == 0xD0
  | .setFeaturesIdleFallback _ d => fid d == 0xD4
  | .setFeaturesAutonomousPst _ d _ => fid d == 0x0C
  | .setFeaturesVolatileWriteCache _ d => fid d == 0x06
  | .setFeaturesTemperatureThreshold _ d => fid d == 0x04
  | .firmwareCommit _ d => bitsOf d.d10 5 3 != 3
  | .firmwareCommitActivate _ d => bitsOf d.d10 5 3 == 3
  | _ => true

/-- The well-formed commands. -/
def Instr.wf (i : Instr) : Bool := formWf i && dataWf i && rowWf i

end Sys2Proof
end

