-- ==== Sys2Proof/Certificates/Slice0/Obligations.lean ====
section
/-! DEFINITION. The statements for the provers: what a step does, what each command leaves behind it and what it leaves
alone, and what no step of the drive changes. -/

open Sys2Proof Sys2Proof.Machine

/-- A step runs the command at the front of the queue. For every command c and state s whose queue holds c in front of
the commands r, step of s is exec of c on s with the queue r: nothing else happens around the command. The queue
itself is the model's own (assumption 1). -/
def Obligations.StepRunsFrontCommand : Prop :=
  ∀ (c : Instr) (s : State) (r : List Instr), s.pending = c :: r → step s = exec c { s with pending := r }

/-- A step on an empty queue runs a held command, or lets one nanosecond pass. With no command in the queue, a step runs
the first command that the drive had held back and that may be tried again, marked as a second try while it runs.
With none held either, one nanosecond passes (assumption 1, the model's choice): the time counter moves on by one,
unless it is held; while a measured offset is made up, it moves on by one but for at most one nanosecond in 10,000,
in which it moves on by two or not at all (R327; that rate, 100 ppm throughout, is the model's choice, log entry
19). Each bucket of a defined partition gains rate/1000 bytes, kept in thousandths, up to its burst (R316). -/
def Obligations.EmptyQueueStep : Prop :=
  ∀ s : State, s.pending = [] →
    (s.ready = [] → step s = .next (tick s) ∧ (clocked s = true → s.time.holdUntil = none →
        (s.time.slew = 0 ∨ s.time.slewCnt + 1 < 10000 → (tick s).time.now = s.time.now + 1) ∧
        (s.time.slew ≠ 0 → 10000 ≤ s.time.slewCnt + 1 → (tick s).time.slewCnt = 0 ∧
          (tick s).time.now = s.time.now + (if 0 < s.time.slew then 2 else 0))) ∧
      (clocked s = true → ∀ (p : PartId) (k : Fin 4), (s.part p).defined = true →
        let r := (regsOf (s.part p).desc).getD k.val ⟨0, 0⟩
        ((tick s).part p).tokens[k] = min ((min (max r.burst.toNat 64) 1048576 * 1024 * 1000 : Nat) : Int) ((s.part p).tokens[k] + r.rate.toNat))) ∧
    ∀ c r t, s.ready = c :: r → exec c { s with ready := r, replay := true } = .next t → step s = .next { t with replay := false }

/-- Decoding and encoding of Colord instruction words are inverse to each other. Every well-formed command that issues
an instruction comes back, with its context and every field of its word at every value, when the 128-bit word of its
opcode and fields is decoded. Every 128-bit word decodes to a well-formed command whose encoding is that word again,
so no bit of a word is dropped, no word stands for two commands, and a reserved opcode stands for the command of the
reserved opcodes alone. -/
def Obligations.ColordRoundTrip : Prop :=
  (∀ (i : Instr) (c : CtxId) (o : BitVec 8) (w : Insn), colordParts i = some (c, o, w) → i.wf = true →
    encodeColord i = some (insnWord o w) ∧ decodeColord c (insnWord o w) = i) ∧
  ∀ (c : CtxId) (v : BitVec 128), (decodeColord c v).wf = true ∧ encodeColord (decodeColord c v) = some v ∧
    ∃ w, colordParts (decodeColord c v) = some (c, v.extractLsb' 120 8, w)

/-- A few words written out from the fields of R85 to R93 decode to their instructions. Bits 127 to 120 are the opcode,
119 to 116 the class, 115 to 113 the predicate register, 112 its inversion, 111 to 96 the modifiers and 95 to 0 the
operands. The DIST that 03 writes out, an ADD of s2 and an immediate 5 into s1, a LOOP of three instructions whose
count is an immediate 4, a release of a lease whose base is in s9, and a word whose opcode 0x08 is reserved decode
to those commands. -/
def Obligations.ColordWordsOfTheSpec : Prop :=
  decodeColord 1 0x2120000000003F00000000071800082A#128 =
    .dist 1 { cls := 2, pred := 0, pinv := false, mod := 0, opr := 0x3F00000000071800082A } ∧
  decodeColord 0 0x10100000000000000000000500800081#128 =
    .add 0 { cls := 1, pred := 0, pinv := false, mod := 0, opr := 0x500800081 } ∧
  decodeColord 3 0x01000001000000040000000300000000#128 =
    .loop 3 { cls := 0, pred := 0, pinv := false, mod := 1, opr := 0x40000000300000000 } ∧
  decodeColord 7 0x52570100000000000024000000000000#128 =
    .leaseRelease 7 { cls := 5, pred := 3, pinv := true, mod := 0x100, opr := 0x24000000000000 } ∧
  decodeColord 63 0x08000000000000000000000000000000#128 =
    .reservedOpcode 63 0x08 { cls := 0, pred := 0, pinv := false, mod := 0, opr := 0 }

/-- What the two-source scalar instructions, CMP, LDI and PMOV leave behind, p0 included. An ADD, SUB, MUL, AND, OR,
XOR, SHL, SHR, SRA, MINU or MAXU that executes answers a next state in which s[SD] holds the result of R105 on s[SA]
and x, modulo 2^64, with shift counts x[5:0] and unsigned minimum and maximum, and the context has gone on to its
next instruction. x is IMM64 where IMM is 1 and s[SB] otherwise. Nothing else in the whole state changes: no flag,
p-register, t-register, byte of memory or other context, and of the other s-registers only a loop's index register
where the instruction ends that loop's body (R102). The next state is given as a whole. A CMP that executes makes
every bit of its p-register the condition of R105 on s[SA] and x, LDI loads IMM64 into s[SD], and PMOV copies
between s[SA] and the p-register by DIR. A write to p0 is discarded and p0 reads as all ones (R43): then only the
program counter moves on. Nothing else in the whole state changes but what moving on changes; the next state is
given as a whole. -/
def Obligations.ScalarResults : Prop :=
  (∀ (s : State) (c : CtxId) (w : Insn), issues s c w false (layoutIss w 1 (maskBits 11 0 + mX w) 0) = true →
    calm (s.ctx c) = true →
    let a := sget (s.ctx c) (sreg w 6)
    let x := if bitOf w.opr 23 then w.opr.extractLsb' 32 64 else sget (s.ctx c) (sreg w 12)
    let n := (x.extractLsb' 0 6).toNat
    let done (r : BitVec 64) : Res := .next (s.setCtx c (advance (sput (s.ctx c) (sreg w 0) r)))
    exec (.add c w) s = done (a + x) ∧ exec (.sub c w) s = done (a - x) ∧ exec (.mul c w) s = done (a * x) ∧
    exec (.and c w) s = done (a &&& x) ∧ exec (.or c w) s = done (a ||| x) ∧ exec (.xor c w) s = done (a ^^^ x) ∧
    exec (.shl c w) s = done (BitVec.ofNat 64 (a.toNat * 2 ^ n)) ∧ exec (.shr c w) s = done (BitVec.ofNat 64 (a.toNat / 2 ^ n)) ∧
    exec (.sra c w) s = done (BitVec.ofInt 64 (a.toInt / 2 ^ n)) ∧
    exec (.minu c w) s = done (BitVec.ofNat 64 (min a.toNat x.toNat)) ∧
    exec (.maxu c w) s = done (BitVec.ofNat 64 (max a.toNat x.toNat))) ∧
  (∀ (s : State) (c : CtxId) (w : Insn), calm (s.ctx c) = true →
    let a := sget (s.ctx c) (sreg w 6)
    let x := if bitOf w.opr 23 then w.opr.extractLsb' 32 64 else sget (s.ctx c) (sreg w 12)
    let pw (v : BitVec 64) : Ctx := if pregAt w 0 = 0 then s.ctx c else { s.ctx c with preg := (s.ctx c).preg.set (pregAt w 0) v }
    let done (y : Ctx) : Res := .next (s.setCtx c (advance y))
    (∀ q < 6, modF w 99 96 = q →
      issues s c w false (layoutIss w 1 (maskBits 2 0 + maskBits 11 6 + mX w) 0xF) = true →
      let hit : Bool := match q with
        | 0 => a.toNat == x.toNat | 1 => a.toNat != x.toNat | 2 => decide (a.toNat < x.toNat)
        | 3 => decide (x.toNat ≤ a.toNat) | 4 => decide (a.toInt < x.toInt) | _ => decide (x.toInt ≤ a.toInt)
      exec (.cmp c w) s = done (pw (if hit then BitVec.allOnes 64 else 0))) ∧
    (issues s c w false (layoutIss w 1 (maskBits 5 0 + maskBits 95 32) 0) = true →
      exec (.ldi c w) s = done (sput (s.ctx c) (sreg w 0) (w.opr.extractLsb' 32 64))) ∧
    (bitOf w.mod 0 = false → issues s c w false (layoutIss w 1 (maskBits 2 0 + maskBits 11 6) 1) = true →
      exec (.pmov c w) s = done (pw a)) ∧
    (bitOf w.mod 0 = true → issues s c w false (layoutIss w 1 (maskBits 5 0 + maskBits 8 6) 1) = true →
      exec (.pmov c w) s = done (sput (s.ctx c) (sreg w 0)
        (if pregAt w 6 = 0 then BitVec.allOnes 64 else (s.ctx c).preg[pregAt w 6]))))

/-- What LDS and STS load and store, and what they leave alone. Where an LDS or STS executes and nothing stands in the
way of its access, it answers a next state. LDS puts the little-endian value of the 8 bytes at its place into s[SD]
and stores nothing. STS stores s[SD] little-endian in the 8 bytes at its place, and every place outside those 8
bytes reads as before. The place is the byte offset s[SA] + x, modulo 2^64, from the base of the descriptor in
t[TR], in its space. Both go on to the next instruction; p-registers, t-registers, flags, parameters and every other
context keep what they held; of the context's prefetches those that the access meets are behind their first access.
Each charges its partition's regulators that are on with the bytes of its access and with the promotions it caused,
and an LDS whose regulator has no tokens waits: nothing changes (R316, R317; what counts as one transfer is log
entry 13). The memories are in canonical form before (memOk, an invariant stated on its own). -/
def Obligations.LdsStsResults : Prop :=
  ∀ (s s0 : State) (c : CtxId) (w : Insn) (d : Desc), memOk s → calm (s.ctx c) = true →
    descOf (tget (s.ctx c) (treg w 18)) = some d →
    let off := d.base + (sget (s.ctx c) (sreg w 6) +
      (if bitOf w.opr 23 then w.opr.extractLsb' 32 64 else sget (s.ctx c) (sreg w 12))).toNat
    let g : Seg := { t := treg w 18, sp := d.space, arr := arr0 s (s.ctx c), off := off, len := 8 }
    (issues s c w false (lsIss s c w false) = true → opened s c [g] [] = some s0 → ∃ t, exec (.lds c w) s = .next t ∧
      t.ctx c = advance (sput { s.ctx c with prefs := (s0.ctx c).prefs } (sreg w 0) (BitVec.ofNat 64 (leNat (readN s (s.ctx c) g.sp g.arr off 8)))) ∧
      WroteOnly s t c [] ∧ t.parts = s0.parts) ∧
    (issues s c w false (lsIss s c w true) = true → opened s c [] [g] = some s0 → ∃ t, exec (.sts c w) s = .next t ∧ t.parts = s0.parts ∧
      ((d.space = .dev ∨ d.space = .workn ∨ d.space = .workf → ∀ a, posOf s (s.ctx c) d.space g.arr off = .dev a → a + 8 ≤ Config.indexTableBase →
        memGets t.tiers.mem a 8 = toLe 8 (sget (s.ctx c) (sreg w 0)).toNat) ∧
       (d.space = .buf → memGets (t.arr g.arr).buf off 8 = toLe 8 (sget (s.ctx c) (sreg w 0)).toNat)) ∧
      MovedOn s t c ∧ SameRegs s t c ∧ (t.ctx c).preg = (s.ctx c).preg ∧ (t.ctx c).flags = (s.ctx c).flags ∧ WroteOnly s t c [g]) ∧
    ∀ s2, let l := devRanges s (s.ctx c) [g]
      issues s c w false (lsIss s c w false) = true → boundFault s c [g] [] = none → segPoison s (s.ctx c) g = false →
      (s.ctx c).prefs.any (prefStands l) = false → touchRanges s l = some s2 → segPoison s2 (s2.ctx c) g = false →
      inDebt (s.part (s.ctx c).part) (dues s s2 l) = true → exec (.lds c w) s = .next s

/-- Where LOOP, BR, CALL and RET go, what they do to the loop stack, and how a loop body ends. A LOOP whose count is
zero goes past its body; any other, on a stack of fewer than 8 frames, pushes a frame with its body, its count and
its index register, which becomes 0, and goes to the first instruction of the body. On a full stack LOOP and CALL
fault the context with STACK_OVER. BR tests the bits of its predicate value below the sequence count for any, all or
none; taken, it goes to pc + IMMA and pops the loops whose bodies do not hold the target, and otherwise it goes on.
CALL pushes pc + 1 and goes to pc + IMMA. RET returns through a CALL frame and faults on a LOOP frame with
STACK_MISMATCH. A RET on an empty stack is another statement. Each next state is given as a whole. Away from the
last instruction of the innermost loop's body, and inside a call, going on raises the program counter by one and
changes nothing else. At that last instruction with a count above one, the count falls by one, the index register,
if the loop has one, rises by one modulo 2^64, and the program counter goes back to the first instruction of the
body. With a count of one the frame is popped and the enclosing frame is tested in the same way (R102). -/
def Obligations.ControlResults : Prop :=
  (∀ (s : State) (c : CtxId) (w : Insn),
    let x := s.ctx c
    let target := x.pc + w.opr.extractLsb' 32 32
    let goes (y : Ctx) (pc : BitVec 32) (st : List Frame) : Res := .next (s.setCtx c { y with pc := pc, stack := st })
    let n : BitVec 64 := if bitOf w.mod 0 then (w.opr.extractLsb' 64 32).zeroExtend 64 else sget x (sreg w 0)
    let len : BitVec 32 := BitVec.ofNat 32 (bitsOf w.opr 55 32)
    (issues s c w false (loopIss w) = true →
      (n = 0 → exec (.loop c w) s = goes x (x.pc + len + 1) x.stack) ∧
      (n ≠ 0 → x.stack.length < 8 → bitOf w.mod 1 = false →
        exec (.loop c w) s = goes x (x.pc + 1) (.loop (x.pc + 1) len n none :: x.stack)) ∧
      (n ≠ 0 → x.stack.length < 8 → bitOf w.mod 1 = true →
        exec (.loop c w) s = goes (sput x (sreg w 6) 0) (x.pc + 1) (.loop (x.pc + 1) len n (some (sreg w 6)) :: x.stack)) ∧
      (n ≠ 0 → 8 ≤ x.stack.length → exec (.loop c w) s = .next (faultSeq s c .stackOver 0 0))) ∧
    (issues s c w true (layoutIss w 0 (maskBits 63 32) 0x3 ++ failIf (modF w 97 96 == 3) (iss .rsvdField)) = true →
      let lanes : BitVec 64 := BitVec.ofNat 64 (2 ^ min x.count.toNat 64 - 1)
      let v := predVal x w &&& lanes
      let taken : Prop := (modF w 97 96 = 0 ∧ v ≠ 0) ∨ (modF w 97 96 = 1 ∧ v = lanes) ∨ (modF w 97 96 = 2 ∧ v = 0)
      (taken → exec (.br c w) s = goes x target (popTo target x.stack)) ∧
      (¬ taken → calm x = true → exec (.br c w) s = .next (s.setCtx c (advance x)))) ∧
    (issues s c w false (layoutIss w 0 (maskBits 63 32) 0) = true →
      (x.stack.length < 8 → exec (.call c w) s = goes x target (.call (x.pc + 1) :: x.stack)) ∧
      (8 ≤ x.stack.length → exec (.call c w) s = .next (faultSeq s c .stackOver 0 0))) ∧
    (issues s c w false (layoutIss w 0 0 0) = true →
      (∀ r st, x.stack = .call r :: st → exec (.ret c w) s = goes x r st) ∧
      (∀ a b k i st, x.stack = .loop a b k i :: st → exec (.ret c w) s = .next (faultSeq s c .stackMismatch 0 0)))) ∧
  (∀ (x : Ctx) (start len : BitVec 32) (left : BitVec 64) (idx : Option (Fin 64)) (rest : List Frame),
    (x.stack = [] → advance x = { x with pc := x.pc + 1 }) ∧
    (∀ r, x.stack = .call r :: rest → advance x = { x with pc := x.pc + 1 }) ∧
    (x.stack = .loop start len left idx :: rest →
      (x.pc ≠ start + len - 1 → advance x = { x with pc := x.pc + 1 }) ∧
      (x.pc = start + len - 1 → left ≠ 1 →
        let y := match idx with
          | some i => { x with sreg := x.sreg.set i (x.sreg[i] + 1) }
          | none => x
        advance x = { y with pc := start, stack := .loop start len (left - 1) idx :: rest }) ∧
      (x.pc = start + len - 1 → left = 1 → advance x = advance { x with stack := rest })))

/-- A RET on an empty stack ends the batch step. A RET that executes on an empty loop stack, once every APND of the step
is durable, ends the step. For a step that a host command asked for, the newest completion is that command's, with
success; the context has done one step more, and, with no further step in its queue, holds no output and no wait of
the step, is Ready, and its partition's arrays have no holder in it. Where an APND is not yet durable the context
blocks instead and the instruction stays to be run again (R64, R80). -/
def Obligations.EndOfStep : Prop :=
  ∀ (s : State) (c : CtxId) (w : Insn), issues s c w false (layoutIss w 0 0 0) = true → (s.ctx c).stack = [] →
    (allDurable s (s.ctx c) = true →
      ∃ t, exec (.ret c w) s = .next t ∧ (t.ctx c).steps = (s.ctx c).steps + 1 ∧
        (∀ r sq cid, (s.ctx c).cur = some r → r.src = .host sq cid → lastStatus t = some (sq, cid, .success)) ∧
        ((s.ctx c).queue = [] → (t.ctx c).st = .ready ∧ (t.ctx c).cur = none ∧ (t.ctx c).hout = [] ∧ (t.ctx c).wait = .none ∧
          (t.part (s.ctx c).part).holder ≠ some c)) ∧
    (allDurable s (s.ctx c) = false →
      ∃ t, exec (.ret c w) s = .next t ∧ (t.ctx c).st = .blocked ∧ (t.ctx c).wait = .fence ∧ (t.ctx c).pc = (s.ctx c).pc)

/-- WAITT, BAR and FENCE complete at once when there is nothing to wait for, and block otherwise. WAITT completes at
once when its target, the exact sum of the unsigned s[SA] and the signed IMMB, is not after the time counter; a
local BAR always does, and FENCE does unless DUR is set and an APND of the step is not durable. Each of them then
changes nothing but what going on changes. Otherwise the context blocks with its program counter kept. BAR with
SCOPE 1 blocks until the next round, and without a schedule faults with FABRIC and UNIT 0xE2. WAITT_EXPIRY and
BAR_RELEASE let the context that waits go on: it has passed the instruction and is Runnable, and the scheduler
chooses (R101, R104, R84). -/
def Obligations.WaitsAndBarriers : Prop :=
  ∀ (s : State) (c : CtxId) (w : Insn), calm (s.ctx c) = true →
    let x := s.ctx c
    let wentOn : Res := .next (s.setCtx c (advance x))
    let released : Res := .next (dispatch (s.setCtx c { advance x with st := .runnable, wait := .none }) x.part)
    let target : Int := (sget x (sreg w 0)).toNat + (w.opr.extractLsb' 64 32).toInt
    (issues s c w false (layoutIss w 0 (maskBits 5 0 + maskBits 95 64) 0) = true →
      (target ≤ s.time.now.toNat → exec (.waitt c w) s = wentOn) ∧
      (s.time.now.toNat < target → exec (.waitt c w) s = .next (blockCtx s c (.time target)))) ∧
    (issues s c w false (layoutIss w 0 0 0x1) = true →
      (bitOf w.mod 0 = false → exec (.bar c w) s = wentOn) ∧
      (bitOf w.mod 0 = true → s.fab.sched = none → s.fab.pend = none → exec (.bar c w) s = .next (faultCtx s c .fabric 0xE2 0 0)) ∧
      (bitOf w.mod 0 = true → s.fab.sched ≠ none → exec (.bar c w) s = .next (blockCtx s c (.bar s.fab.round)))) ∧
    (issues s c w false (layoutIss w 0 0 0x3) = true →
      (bitOf w.mod 0 = false ∨ allDurable s x = true → exec (.fence c w) s = wentOn) ∧
      (bitOf w.mod 0 = true → allDurable s x = false → exec (.fence c w) s = .next (blockCtx s c .fence))) ∧
    (∀ t : Int, x.st = .blocked → x.wait = .time t → t ≤ s.time.now.toNat → exec (.waittExpiry c) s = released) ∧
    (∀ r : BitVec 64, x.st = .blocked → x.wait = .bar r → r.toNat < s.fab.round.toNat → exec (.barRelease c) s = released)

/-- When an instruction of any kind does not run. For every command that issues an instruction: on a context that is not
Running it changes nothing; on a Running context whose program counter lies at or beyond CODE_SIZE/16 it faults the
context with PC_RANGE and UNIT 0xE0 (R45, R69). A reserved opcode on a Running context faults it: with RSVD_OPCODE,
whose code is the lower, whatever its class says (R96, R97). STEP_LIMIT faults a context whose step has run longer
than its limit in milliseconds, and leaves any other alone (R39). An ADD, LDI, LDS, STS, MMA, PREF, PGRD of blocks,
APND, SEND, RECV or LEASE whose predicate holds in no lane, and no check of which fails, only goes on: nothing else
in the whole state changes (R87). An APND in an image without WRITES_STORAGE, and a SEND, RECV or LEASE in one
without USES_FABRIC, whose only failed check that is, faults with UNDECLARED and UNIT 0xE0 (R51). -/
def Obligations.IssueStops : Prop :=
  (∀ (i : Instr) (c : CtxId) (o : BitVec 8) (w : Insn) (s : State), colordParts i = some (c, o, w) →
    ((s.ctx c).st ≠ .running → exec i s = .next s) ∧
    ((s.ctx c).st = .running → pcInCode s (s.ctx c) = false → exec i s = .next (faultCtx s c .pcRange 0xE0 0 0))) ∧
  (∀ (o : BitVec 8) (c : CtxId) (w : Insn) (s : State), (s.ctx c).st = .running → pcInCode s (s.ctx c) = true →
    exec (.reservedOpcode c o w) s = .next (faultCtx s c .rsvdOpcode 0xE0 0 0)) ∧
  (∀ (c : CtxId) (s : State), (s.ctx c).inStep = true → (s.ctx c).cur ≠ none →
    ((s.ctx c).stepAt.toNat + (s.ctx c).limit.toNat * 1000000 < s.time.now.toNat →
      exec (.stepLimit c) s = .next (faultCtx s c .stepLimit 0xE0 0 0)) ∧
    (s.time.now.toNat ≤ (s.ctx c).stepAt.toNat + (s.ctx c).limit.toNat * 1000000 → exec (.stepLimit c) s = .next s)) ∧
  ∀ (c : CtxId) (w : Insn) (s : State), (s.ctx c).st = .running → pcInCode s (s.ctx c) = true →
    let fabric : List (Instr × List Iss) := [(.send c w, sendIss s c w), (.recv c w, recvIss s c w), (.lease c w, leaseIss s c w)]
    let plain : List (Instr × List Iss) := [(.add c w, layoutIss w 1 (maskBits 11 0 + mX w) 0),
      (.ldi c w, layoutIss w 1 (maskBits 5 0 + maskBits 95 32) 0), (.lds c w, lsIss s c w false), (.sts c w, lsIss s c w true),
      (.mma c w, tensIss s c w .mma), (.pref c w, prefIss s c w), (.pgrdLba c w, pgrdLbaIss s c w)]
    (executes (s.ctx c) w = false → calm (s.ctx c) = true →
      ∀ q ∈ plain ++ (.apnd c w, apndIss s c w) :: fabric, q.2 = [] → exec q.1 s = .next (s.setCtx c (advance (s.ctx c)))) ∧
    (∀ q ∈ fabric, imgFlag s (s.ctx c) 1 = false → (∀ f ∈ q.2, f.cause = .undeclared) → exec q.1 s = .next (faultCtx s c .undeclared 0xE0 0 0)) ∧
    (imgFlag s (s.ctx c) 2 = false → (∀ f ∈ apndIss s c w, f.cause = .undeclared) →
      exec (.apnd c w) s = .next (faultCtx s c .undeclared 0xE0 0 0))

/-- What a fault of a context leaves behind. A context that faults is Faulted; its exception word holds the cause, unit,
dimension and detail, and its fault PC the instruction it stopped at. It holds no wait, prefetch, view or output,
its queue is empty, and its partition's arrays, save areas and forager work know it no more. Its s-registers,
t-registers, p-registers, trap mask, deadline, bands and events stay, and so does every other context's register set
(R69, R73, R81, R319). -/
def Obligations.FaultTakesDown : Prop :=
  ∀ (s : State) (c : CtxId) (cause : Cause) (unit : BitVec 8) (dim : BitVec 4) (detail : BitVec 28),
    let t := faultCtx s c cause unit dim detail
    (t.ctx c).st = .faulted ∧ (t.ctx c).exc = { cause := cause, unit := unit, dim := dim, detail := detail } ∧
    (t.ctx c).fpc = (s.ctx c).pc ∧ (t.ctx c).wait = .none ∧ (t.ctx c).prefs = [] ∧ (t.ctx c).views = [] ∧ (t.ctx c).hout = [] ∧
    (t.ctx c).queue = [] ∧ (t.ctx c).cur = none ∧ (t.ctx c).sreg = (s.ctx c).sreg ∧ (t.ctx c).preg = (s.ctx c).preg ∧
    (t.ctx c).pc = (s.ctx c).pc ∧ (t.ctx c).stack = (s.ctx c).stack ∧ (t.ctx c).ring = (s.ctx c).ring ∧ SameRegs s t c ∧
    (t.part (s.ctx c).part).holder ≠ some c ∧ (t.part (s.ctx c).part).parked ≠ some c ∧ c ∉ (t.part (s.ctx c).part).scans ∧
    (∀ d, d ≠ c → (t.ctx d).sreg = (s.ctx d).sreg ∧ (t.ctx d).treg = (s.ctx d).treg ∧ (t.ctx d).preg = (s.ctx d).preg ∧
      (t.ctx d).pc = (s.ctx d).pc ∧ (t.ctx d).stack = (s.ctx d).stack ∧ (t.ctx d).exc = (s.ctx d).exc)

/-- What MMA, DIST and CMPK compute and write. Where an MMA, DIST or CMPK executes and nothing stands in the way of its
accesses, it answers a next state: every output of every tile that runs is computed from the state before the
instruction (the reduction of R108 or R109, C for MMA, the conversion of R158) and written once into D, tile after
tile; the running-sum bytes of the arrays become unspecified (free values, assumption 2, R205); CMPK's PDST gets bit
m exactly where D[m,0] is not zero (R115); and the instruction ends with the flags it raised. With no trap enabled
the context goes on, and nothing but D, those running-sum bytes, PDST's register and the tokens of its partition's
regulators (R317) changes. -/
def Obligations.TensorResults : Prop :=
  ∀ (s s0 : State) (c : CtxId) (w : Insn) (op : TOp) (t : Tens), calm (s.ctx c) = true → tensOf s c w op = some t →
    issues s c w (op != .mma) (tensIss s c w op) = true → opened s c (t.aSegs ++ t.bSegs ++ t.cSegs) t.dSegs = some s0 →
    let r := t.tiles.foldl (t.runTile s0 c) (s0, 0)
    let s1 := t.smear (r.1.draw (if (s.ctx c).stat then t.m * t.n else 0))
    let u (s2 : State) : State := finishWrites s2 c t.dSegs r.2
    (op = .mma → exec (.mma c w) s = .next (u s1) ∧ Completed s (u s1) c (t.dSegs ++ smearSegs t) r.2 ∧
      ((s.ctx c).trapMask = 0 → ((u s1).ctx c).preg = (s.ctx c).preg)) ∧
    (op = .dist (modF w 105 104) → exec (.dist c w) s = .next (u s1) ∧ Completed s (u s1) c (t.dSegs ++ smearSegs t) r.2 ∧
      ((s.ctx c).trapMask = 0 → ((u s1).ctx c).preg = (s.ctx c).preg)) ∧
    (op = .cmpk (modF w 108 106) (modF w 105 104) →
      let pd : Fin 8 := Fin.ofNat 8 (modF w 111 109)
      let s2 := if pd = 0 then s1
        else s1.setCtx c (pput (s1.ctx c) pd (t.pdst s0 (pget (s.ctx c) pd) (modF w 108 106) (modF w 105 104)))
      exec (.cmpk c w) s = .next (u s2) ∧ Completed s (u s2) c (t.dSegs ++ smearSegs t) r.2 ∧
      ((s.ctx c).trapMask = 0 → ∀ j, j ≠ pd → pget ((u s2).ctx c) j = pget (s.ctx c) j))

/-- Which bits CMPK sets in its predicate register, and which entries TOPK keeps. Bit m of what CMPK writes into p[PDST]
is 0 for m at or above M. Below M it is 1 exactly when the count, minimum or maximum of row m against column 0,
saturated into D's format, is not zero, for each lane that acts; a lane that does not act, and every lane where N is
0, keeps the bit it had (R115). The entries TOPK keeps of its candidates are the first min(k, n) of the n candidates
whose ID is not all ones, in ascending order of the key (distance code, ID, source, position); no candidate it
leaves out lies below one it keeps, and duplicate IDs stay (R116, R117). -/
def Obligations.ChoicesOfCmpkAndTopk : Prop :=
  (∀ (t : Tens) (s0 : State) (old : BitVec 64) (q tree m : Nat), m < 64 →
    (t.pdst s0 old q tree).getLsbD m =
      if t.m ≤ m then false
      else if t.acts m = false ∨ t.n = 0 then old.getLsbD m
      else decide ((accOut t.dd 0 .rne (t.compare s0 (t.arrOf (m / t.tm * t.nN)) q tree m 0).1).1 ≠ 0)) ∧
  (∀ (k : Nat) (l : List Cand),
    let real := l.filter fun q => q.id != noId
    (bestOf k l).length = min k real.length ∧ (bestOf k l).Pairwise (fun a b => candKey a ≤ candKey b) ∧
    ∃ rest, (bestOf k l ++ rest).Perm real ∧ ∀ a ∈ bestOf k l, ∀ b ∈ rest, candKey a ≤ candKey b)

/-- How a reduction is cut into slices and combined, and how fractions round to integers. The S slices of K products
follow one another without gap from product 0 to product K; each begins at a multiple of the group size G or, where
nothing is left for it, at K, and each but the last that holds anything is ⌈K/(S·G)⌉·G products long. The sums of
eight slices combine in the fixed tree ((P0+P1)+(P2+P3))+((P4+P5)+(P6+P7)), those of four in (P0+P1)+(P2+P3), two
are added and one stands alone. Rounding with ties away from zero gives an integer within half a unit of the
fraction a/b, and on a tie the one of larger magnitude; rounding to nearest even gives an integer within half a
unit, and on a tie an even one; the stochastic rounding of a fraction between two integers takes the one below or
the one above, and a whole number stays. Saturation gives the nearest value of the range and raises OVF exactly when
the value lies outside it (R150, R153, R178, R184). -/
def Obligations.SlicesAndRoundings : Prop :=
  ((∀ k g s : Nat, 0 < g → 0 < s →
    (sliceList k g s).length = s ∧
    ∀ j, j < s → ∃ a b, (sliceList k g s)[j]? = some (a, b) ∧ a ≤ b ∧ b ≤ k ∧ (a % g = 0 ∨ a = k) ∧
      (j = 0 → a = 0) ∧ (j + 1 = s → b = k) ∧ (∀ a' b', (sliceList k g s)[j + 1]? = some (a', b') → a' = b) ∧
      (b < k → b - a = ceilDiv k (s * g) * g)) ∧
  ∀ (m n : Nat) (p0 p1 p2 p3 p4 p5 p6 p7 : Acc),
    let leaf (v : Acc) : Nat × Rec Acc := (0, (v, .none))
    let add (a b : Acc) : Acc := (accAdd a b).1
    (treeSum m n ([p0, p1, p2, p3, p4, p5, p6, p7].map leaf)).1 =
      add (add (add p0 p1) (add p2 p3)) (add (add p4 p5) (add p6 p7)) ∧
    (treeSum m n ([p0, p1, p2, p3].map leaf)).1 = add (add p0 p1) (add p2 p3) ∧
    (treeSum m n ([p0, p1].map leaf)).1 = add p0 p1 ∧ (treeSum m n [leaf p0]).1 = p0) ∧
  ((∀ (neg : Bool) (a b : Nat), 0 < b →
    let x : Int := if neg then -(a : Int) else a
    (2 * (rnda neg a b * b - x) ≤ b ∧ -(b : Int) ≤ 2 * (rnda neg a b * b - x)) ∧
    (2 * (a % b) = b → (rnda neg a b).natAbs = a / b + 1) ∧
    (2 * (rneInt neg a b * b - x) ≤ b ∧ -(b : Int) ≤ 2 * (rneInt neg a b * b - x)) ∧
    (2 * (a % b) = b → rneInt neg a b % 2 = 0) ∧
    ∀ u : Nat, (stoInt u neg a b * b - x < b ∧ -(b : Int) < stoInt u neg a b * b - x) ∧ (a % b = 0 → stoInt u neg a b * b = x)) ∧
  ∀ lo hi v : Int, lo ≤ hi → (satTo lo hi v).1 = max lo (min hi v) ∧ ((satTo lo hi v).2 = flOvf ↔ v < lo ∨ hi < v))

/-- What TOPK, REQ, SRND and UPDW write. Where one of these executes and nothing stands in the way of its accesses, it
answers a next state. TOPK writes, row after row, in each row whose lane acts the best entries of its candidates as
the rows before left the bytes, and pads them with +∞ codes and IDs of all ones, and raises SHORT where fewer than k
were found; with M or k zero it writes nothing. REQ and SRND write each element converted into D's format, D's block
scales first where SCALC asks for them; UPDW writes new weights and lees element by element, each read as the
elements before it left the bytes, and adds to the ratio monitor's sums. Each ends with the flags it raised; with no
trap enabled the context goes on, p-registers stay, and no byte outside its outputs changes. -/
def Obligations.ElementResults : Prop :=
  ∀ (s s0 : State) (c : CtxId) (w : Insn), calm (s.ctx c) = true →
    let x := s.ctx c
    let a := arr0 s x
    let m := sv x (fSM w)
    let preg (u : State) : Prop := x.trapMask = 0 → (u.ctx c).preg = x.preg
    (∀ o, issues s c w true (topkIss s c w) = true → topkOps x w = some o →
      (m = 0 ∨ sv x (fSN w) = 0 → exec (.topk c w) s = .next (s.setCtx c (advance x))) ∧
      (m ≠ 0 → sv x (fSN w) ≠ 0 →
        let k := sv x (fSN w)
        let wr := pairWr x w o.dd o.dn a m k (offsOf x w).d false
        opened s c (topkRd x w o a) wr = some s0 →
        let rows := (List.range m).filter (laneActs x w)
        let r := rows.foldl (topkRow x c w o a) (s0, false)
        let fl : BitVec 6 := if r.2 then ctxShort else 0
        exec (.topk c w) s = .next (finishWrites r.1 c wr fl) ∧ Completed s (finishWrites r.1 c wr fl) c wr fl ∧
          preg (finishWrites r.1 c wr fl))) ∧
    (∀ (q : Bool) o, issues s c w false (reqIss s c w q) = true → reqOps x w q = some o →
      opened s c (reqRd x w q o a) (reqWr x w q o a) = some s0 →
      let r := (List.range m).foldl (reqRow s0 x c w q o a) (s0, Exc.none)
      let u := finishWrites (unitRaise r.1 c 0xE0 r.2) c (reqWr x w q o a) (flToCtx r.2.fl)
      exec (if q then .req c w else .srnd c w) s = .next u ∧ Completed s u c (reqWr x w q o a) (flToCtx r.2.fl) ∧ preg u) ∧
    (∀ o, issues s c w false (updIss s c w) = true → updOps x w = some o →
      opened s c (rowsSegs (fTA w) o.da a (offsOf x w).a m (sv x (fSK w)) ++ updWr x w o a) (updWr x w o a) = some s0 →
      let els := (List.range m).flatMap fun i => (List.range (sv x (fSK w))).map fun j => (i, j)
      let r := els.foldl (updStep x c w o a) (s0, Exc.none)
      let u := finishWrites (unitRaise r.1 c 0xE0 r.2) c (updWr x w o a) (flToCtx r.2.fl)
      exec (.updw c w) s = .next u ∧ Completed s u c (updWr x w o a) (flToCtx r.2.fl) ∧ preg u)

/-- What LDT, STT and GATH copy. Where one of these executes and nothing stands in the way of its accesses, it answers a
next state in which s[SM] rows of s[SK] elements of A have been copied into consecutive rows of D with their block
scales, in every array of the range where D lies in an array memory: for LDT and STT consecutive rows of A, for GATH
the rows that the elements of B name, an index of all ones giving a row of zeros. A GATH with an index at or above
A's planned rows faults with DESC_RANGE. Each ends with the flags it raised; with no trap enabled the context goes
on, p-registers stay, and no byte outside D's rows and their scales changes. -/
def Obligations.CopyResults : Prop :=
  ∀ (s s0 : State) (c : CtxId) (w : Insn) (o : MoveOps), calm (s.ctx c) = true →
    let x := s.ctx c
    let m := sv x (fSM w)
    let f := offsOf x w
    let ends (i : Instr) (st : State) (rows : List (Option Nat)) : Prop :=
      let wr := moveWr st x w o
      let r := (moveLanes st x w o).foldl (fun acc lane =>
        ((List.range rows.length).zip rows).foldl (fun q p =>
          moveRow s0 x c o (sv x (fSK w)) lane p.1 (f.d + p.1) p.2 q) acc) (s0, (0 : BitVec 6))
      exec i s = .next (finishWrites r.1 c wr r.2) ∧ Completed s (finishWrites r.1 c wr r.2) c wr r.2 ∧
        (x.trapMask = 0 → ((finishWrites r.1 c wr r.2).ctx c).preg = x.preg)
    let rows : List (Option Nat) := (List.range m).map fun i => some (f.a + i)
    (issues s c w false (moveIss s c w .ldt) = true → moveOps x w .ldt = some o →
      opened s c (moveRd s x w o rows) (moveWr s x w o) = some s0 → ends (.ldt c w) s rows) ∧
    (issues s c w false (moveIss s c w .stt) = true → moveOps x w .stt = some o →
      opened s c (moveRd s x w o rows) (moveWr s x w o) = some s0 → ends (.stt c w) s rows) ∧
    (∀ db s1, issues s c w false (moveIss s c w .gath) = true → moveOps x w .gath = some o → o.db = some db →
      let a0 := (arrRange s x w).headD (arr0 s x)
      opened s c (idxSegs (fTB w) db a0 f.b m) [] = some s1 →
      let ids := (List.range m).map fun i => idxElem s1 x db a0 f.b i
      ((∃ v ∈ ids, v ≠ noId ∧ o.da.rows ≤ f.a + v) →
        ∃ t, exec (.gath c w) s = .next t ∧ (t.ctx c).st = .faulted ∧ (t.ctx c).exc.cause = .descRange) ∧
      ((∀ v ∈ ids, v ≠ noId → f.a + v < o.da.rows) →
        let rows := ids.map fun v => if v = noId then none else some (f.a + v)
        opened s1 c (moveRd s1 x w o rows) (moveWr s1 x w o) = some s0 → ends (.gath c w) s1 rows))

/-- What the four SETPs and EVT leave behind. A SETP that executes writes the parameter its MOD names with s[SP1]: the
trap mask from bits 15 to 0, the ratio band of a tensor in place of any other on it, the removal of a tensor's band
with its monitor entry left without band or outside mark, the default deadline. Apart from that, and from the
monitor entry's band, only going on changes anything; each next state is given as a whole. EVT raises its event,
newest in the context's ring of 64, with its value, the instruction's index and the stamp and sequence number of
R329, and goes on. The removed band and the removal need s[SP1] bits 31 to 0 zero; a reserved parameter faults with
RSVD_FIELD. -/
def Obligations.SetpAndEvtResults : Prop :=
  ∀ (s : State) (c : CtxId) (w : Insn), calm (s.ctx c) = true →
    let x := s.ctx c
    let v := sget x (fSP1 w)
    let lay := layoutIss w 6 mSP1 0xFFFF
    let done (y : Ctx) : Res := .next (s.setCtx c (advance y))
    (w.mod = 0 → bitsOf v 15 5 = 0 → issues s c w false lay = true → exec (.setpTrapMask c w) s = done { x with trapMask := v.truncate 16 }) ∧
    (4 ≤ w.mod.toNat → x.st = .running → pcInCode s x = true →
      exec (.setpTrapMask c w) s = .next (faultSeq s c .rsvdField 0 0)) ∧
    (w.mod = 1 → issues s c w false lay = true →
      let b : Band := { tid := v.extractLsb' 32 32, lo := v.extractLsb' 0 16, hi := v.extractLsb' 16 16 }
      exec (.setpRatioBand c w) s = done { x with
        bands := x.bands.filter (fun q => q.tid != b.tid) ++ [b]
        mon := x.mon.map fun e => if e.tid = b.tid then { e with band := true, lo := b.lo, hi := b.hi } else e }) ∧
    (w.mod = 2 → bitsOf v 31 0 = 0 → issues s c w false lay = true →
      exec (.setpRatioBandRemoval c w) s = done { x with
        bands := x.bands.filter (fun q => q.tid != v.extractLsb' 32 32)
        mon := x.mon.map fun e => if e.tid = v.extractLsb' 32 32 then { e with band := false, outside := false, lo := 0, hi := 0 } else e }) ∧
    (w.mod = 3 → issues s c w false lay = true → exec (.setpDefaultDeadline c w) s = done { x with deadline := v }) ∧
    (0x100 ≤ w.mod.toNat → issues s c w false (lay ++ failIf (decide (w.mod.toNat < 0x100)) (iss .evtCode)) = true →
      ∃ t e, exec (.evt c w) s = .next t ∧ MovedOn s t c ∧ SameRegs s t c ∧ WroteOnly s t c [] ∧ (t.ctx c).preg = x.preg ∧
        (t.ctx c).ring = (if 64 ≤ x.ring.length then x.ring.drop 1 else x.ring) ++ [e] ∧
        e = { code := w.mod, value := v, pc := x.pc, stamp := s.time.now.truncate 48, seq := s.time.seq }) ∧
    (w.mod.toNat < 0x100 → w.cls = 6 → oprWithin w mSP1 = true → x.st = .running → pcInCode s x = true →
      exec (.evt c w) s = .next (faultSeq s c .evtCode 0 0))

/-- What PREF starts, and how its move or its deadline ends a wait. A PREF whose range lies within its bound and already
in the target tier only goes on. Any other waits while a block that holds its pages takes no request (R27), else it
records the move with its deadline (s[SP1], else the default deadline from now, else none) and fallback, joining one
to the same range, and goes on; it writes no memory, and of a range in a lease window it asks the lender for the
pages (R357). When the move completes before the deadline, with those pages come, tokens there for it (R316) and no
tier controller that it needs under reset (R27), the pages lie in the target tier and an instruction that waits for
it may go on. When a waiting access finds the deadline passed, the fallback runs: with fallback 0 the context faults
with DEADLINE and UNIT 0xE1. A frame that falls free lets every access that waited for one go on, and the commands
that the drive holds (R126, R127, R267, R278). Which stack gives a page its frame is free (log entry 21). -/
def Obligations.Prefetches : Prop :=
  ∀ (s : State) (c : CtxId) (w : Insn), calm (s.ctx c) = true →
    let x := s.ctx c
    (∀ da dc, issues s c w false (prefIss s c w) = true → prefOps x w = some (da, dc) → boundFault s c (prefSegs x w da) [] = none →
      let rows := devRanges s x (prefSegs x w da)
      ((rows.flatMap pagesOf).all (pageIn s (fTier w)) = true → exec (.pref c w) s = .next (s.setCtx c (advance x))) ∧
      ((rows.flatMap pagesOf).all (pageIn s (fTier w)) = false → rows.any (rangeBusy s) = true →
        exec (.pref c w) s = .next (stallCtx s c)) ∧
      ((rows.flatMap pagesOf).all (pageIn s (fTier w)) = false → rows.any (rangeBusy s) = false →
        ∃ p : Pref, exec (.pref c w) s = .next ((askFar s (prefFar s p)).setCtx c (advance { x with prefs := addPref x.prefs p })) ∧ p.rows = rows ∧
          p.done = false ∧ p.target.toNat = fTier w ∧ p.fallback.toNat = fFall w ∧
          p.deadline = if sget x (fSP1 w) ≠ 0 then sget x (fSP1 w) else if x.deadline ≠ 0 then s.time.now + x.deadline else 0)) ∧
    (∀ (i : Nat) (p : Pref) (s1 : State), x.prefs[i]? = some p → p.done = false → p.fired = false → p.failed = false →
      (prefFar s p).all (farHere s) = true →
      bringPages p.target (p.rows ++ movingPages s) (p.rows.flatMap pagesOf) (takeFar s (prefFar s p)) = some s1 →
      inDebt (s.part x.part) (moveDues s s1 p.rows) = false → p.rows.any (rangeDown s) = false → p.rows.any (rangeDown s1) = false →
      (p.deadline = 0 ∨ s.time.now.toNat < p.deadline.toNat) →
      ∃ t, exec (.prefMoveComplete c i) s = .next t ∧ (t.ctx c).prefs[i]? = some { p with done := true } ∧
        t.tiers = s1.tiers ∧ (x.st = .blocked → x.wait = .access i → (t.ctx c).wait = .none)) ∧
    (∀ (i : Nat) (p : Pref), x.st = .blocked → x.wait = .access i → x.prefs[i]? = some p → p.deadline ≠ 0 →
      p.deadline.toNat ≤ s.time.now.toNat →
      (p.fallback = 0 → exec (.prefFallback c) s = .next (faultCtx s c .deadline 0xE1 0 0)) ∧
      (∀ s1, (coarseFar s c p).all (farHere s) = true → runFallback s c i p = .goOn s1 → exec (.prefFallback c) s = .next (unblockCtx s1 c) ∧
        ((unblockCtx s1 c).ctx c).prefs[i]? = some { p with done := true, fired := true })) ∧
    ∃ t, exec .demotionResume s = .next t ∧ (x.st = .blocked → x.wait = .frame → (t.ctx c).wait = .none) ∧
      (x.wait ≠ .frame → (t.ctx c).wait = x.wait) ∧
      (asleep s = false → t.ready = s.parked ++ s.ready ∧ t.parked = [])

/-- SCAN waits for the foragers, their return writes the best of each lane, and how a filter runs. A SCAN that executes
fixes the step's view of its index. With k zero or no acting lane it goes on and writes nothing. Otherwise, where
nothing stands in the way of its accesses, no forager of the partition is under reset and no acting lane probes an
ID at or above NCENT, it has its place in the partition's line of scans, taken as it issued (R307), and the context
blocks at the instruction; the next state is given as a whole. The return of the foragers does the work of the scan
at the head of the partition's line on the arrays of its context, which may stand in the save areas. Where the
arrays are the context's own, nothing that the foragers read is poisoned, lost or under reset, every page has its
frame and the regulators have tokens, each acting lane gets the best entries of its lists under its filter, padded,
the foragers' line moves on, and the context has passed the instruction; without a trap enabled it waits for
nothing, and no byte outside the result rows changes. A filter program runs its words from the first to the end word
or the last. A comparison pushes its outcome; AND and OR replace the two newest outcomes by their conjunction or
disjunction and NOT the newest by its negation; TRUE and FALSE push their value; the end word, or the end of the
words, answers the newest outcome, and a program that pushes nothing lets every row pass. What stands after the
first end word makes no difference (R242 to R245). Which blocks of flash hold an index's lists is the drive's own
layout (log entry 15). -/
def Obligations.ScanAndFilters : Prop :=
  (∀ (s : State) (c : CtxId) (w : Insn) (o : ScanOps) (v : View), calm (s.ctx c) = true → scanOps (s.ctx c) w = some o →
    let x := s.ctx c
    let q := scanW (sget x (fSP1 w))
    let a := arr0 s x
    let k := sv x (fSN w)
    let wr := pairWr x w o.dd o.dn a (sv x (fSM w)) k (offsOf x w).d false
    let s0 := noteScan (fixView s c v) c v q k (if q.mode = 0 then sv x (fSK w) else 0)
    (issues s c w true (scanIss s c w) = true → scanView s x q = some v →
      (k = 0 ∨ scanLanes x w = [] → exec (.scan c w) s = .next (s0.setCtx c (advance (s0.ctx c)))) ∧
      (∀ s1, k ≠ 0 → scanLanes x w ≠ [] → (allChan.any fun n => ownsForager s x.part n && foragerBusy s n) = false →
        opened (joinScan s0 c x.part) c (scanRd s0 x w o a) wr = some s1 → badProbe s1 x w o a (viewGen s1 v) = false →
        let t := blockCtx s1 c (.scan w)
        exec (.scan c w) s = .next t ∧ (t.ctx c).st = .blocked ∧ (t.ctx c).wait = .scan w ∧ (t.ctx c).pc = x.pc ∧
          (t.part x.part).scans = (if (s.part x.part).scans.contains c then (s.part x.part).scans else (s.part x.part).scans ++ [c]) ∧ heldView (t.ctx c) v.idx = some v)) ∧
    (x.wait = .scan w → (s.part x.part).scans.head? = some c → heldView x q.idx = some v →
      exec (.foragerReturn c) s = .next (withArrays s c (scanEnd c w o v)) ∧
      (x.st = .blocked → x.trapMask = 0 → (s.part x.part).parked ≠ some c →
        let g := viewGen s v
        let lanes := scanLanes x w
        let reads := (lanes.flatMap (laneReads s x w o a (s.index q.idx) v q.mode)).eraseDups
        let all := reads ++ devRanges s x (scanRd s x w o a ++ wr)
        let lists := (lanes.flatMap (laneLists s x w o a g)).eraseDups
        let blks := scanBlks s v q.mode lists
        ∀ s1, scanHeld s q.idx = false → all.any (rangeBusy s) = false → touchRanges s all = some s1 →
        let r1 := readBlks (s1.draw 64) blks
        scanPoison s1 r1 q.idx blks reads = none →
        let hits := lanes.map fun m => (m, (laneLists s x w o a g m).flatMap (scanList s x w o a (s.index q.idx) v q.mode m))
        let s2 := countExtents r1 v q.mode lists
        let due := ((accessDues s1 reads).zipWith (· + ·) (moveDues s s1 all)).zipWith (· + ·) (flashDues s1 r1)
        inDebt (s.part x.part) due = false →
        let r := putHits c o a (offsOf x w).d k hits (preWrite (charge s2 x.part due) (devRanges s2 x wr))
        let t := finishWait (endScan (settle r.1 c wr) c x.part) c (r.2.2 ||| (if r.2.1 then ctxShort else 0))
        exec (.foragerReturn c) s = .next t ∧ (t.ctx c).pc = (advance x).pc ∧ (t.ctx c).sreg = (advance x).sreg ∧
          (t.ctx c).wait = .none ∧ (t.ctx c).treg = x.treg ∧ (t.ctx c).preg = x.preg ∧
          (t.part x.part).scans = (s.part x.part).scans.filter (· != c) ∧
          ∀ p, outsideSegs s x wr p → readPos t (t.ctx c) p = readPos s x p))) ∧
  (∀ (row : Bytes) (st : List Bool) (a b : Bool) (w : Nat) (t : List Nat),
    (fopOf w = 0 → filterRun row st (w :: t) = st.headD true) ∧ filterRun row st [] = st.headD true ∧
    (1 ≤ fopOf w → fopOf w ≤ 8 → filterRun row st (w :: t) = filterRun row (fcompare row w :: st) t) ∧
    (fopOf w = 0x10 → filterRun row (a :: b :: st) (w :: t) = filterRun row ((a && b) :: st) t) ∧
    (fopOf w = 0x11 → filterRun row (a :: b :: st) (w :: t) = filterRun row ((a || b) :: st) t) ∧
    (fopOf w = 0x12 → filterRun row (a :: st) (w :: t) = filterRun row ((!a) :: st) t) ∧
    (fopOf w = 0x13 → filterRun row st (w :: t) = filterRun row (true :: st) t) ∧
    (fopOf w = 0x14 → filterRun row st (w :: t) = filterRun row (false :: st) t) ∧
    ∀ pre u : List Nat, fopOf w = 0 → filterRun row st (pre ++ w :: t) = filterRun row st (pre ++ w :: u))

/-- What the three forms of PGRD read. PGRD of logical blocks blocks behind an earlier write of its range; otherwise,
where its access stands open, the flash regulator has tokens, no forager it needs is under reset and every block can
be read, it fills the rows of D with the blocks' bytes in ascending LBA and goes on. PGRD of vectors with M or N
zero only goes on. Otherwise, where its accesses stand open, nothing it needs is lost, poisoned or under reset, the
brood pages have their frames and the regulators tokens, it writes row after row of D: for the n-th ID of row m of B
the vector that the view gives for it, in row offset + m·N + n (log entry 31), zeros where it gives none, and raises
INV for an unknown ID. PGRD of brood entries, where its reads stand open in the same way, writes the vectors and IDs
of the live entries that pass the filter and puts their number in s[SP2]; more of them than D has planned rows fault
with SHAPE_OVER and the count in DETAIL, rows beyond D or its next descriptor with DESC_RANGE. Each next state is
given as a whole. No s-register but those and a loop's index changes, and no byte outside D's rows. Which blocks of
flash hold a vector is the drive's own layout (log entry 15). -/
def Obligations.PgrdReads : Prop :=
  ∀ (s s1 : State) (c : CtxId) (w : Insn) (d : Desc), calm (s.ctx c) = true → descOf (tget (s.ctx c) (fTD w)) = some d →
    let x := s.ctx c
    let a := arr0 s x
    let f := offsOf x w
    let v := viewFor s x (spIdx x w)
    (∀ ns, issues s c w false (pgrdLbaIss s c w) = true → findNs s (sv x (fSP2 w) % 2 ^ 32) = some ns →
      let n := sv x (fSK w)
      let wr := rawSegs (fTD w) d a f.d (n * 4096)
      let own (l : Lock) : Bool := l.ctx == some c
      let k := takeLock s own
        { nsid := ns.nsid, lba := sv x (fSP1 w), n := n, wr := false, sq := 0, cid := 0, ctx := some c, ord := false, done := false }
      (k.2 = false → exec (.pgrdLba c w) s = .next (blockCtx k.1 c .lock)) ∧
      (k.2 = true → opened k.1 c [] wr = some s1 →
        let blks (u : State) : List Copy := (List.range n).map (pgrdBlock u s1.free ns (sv x (fSP1 w)))
        let places := (blks s1).filterMap fun q => q.place
        let s2 := readCounted (s1.draw (if ns.index.isSome then n * 4096 else 0)) places
        let due := flashDues s1 s2
        placesBusy s1 places = false → (∀ q ∈ blks s2, q.val ≠ .uncorrectable) → inDebt (s.part x.part) due = false →
        let s4 := fillSegs c wr ((blks s2).flatMap fun q => blkBytes q.val) (charge (freeLocks s2 own) x.part due)
        let t := finishWrites (noteSource s4 (devRanges s4 (s4.ctx c) wr)) c wr 0
        exec (.pgrdLba c w) s = .next t ∧ MovedOn s t c ∧ SameRegs s t c ∧ (t.ctx c).preg = x.preg ∧
          ∀ p, outsideSegs s x wr p → readPos t (t.ctx c) p = readPos s x p)) ∧
    (∀ db, issues s c w false (pgrdVecIss s c w) = true → descOf (tget x (fTB w)) = some db →
      let m := sv x (fSM w)
      let n := sv x (fSN w)
      let wr := rowsSegs (fTD w) d a f.d (m * n) d.e0
      let s0 := fixView s c v
      (m * n = 0 → exec (.pgrdVectors c w) s = .next (s0.setCtx c (advance (s0.ctx c)))) ∧
      (m * n ≠ 0 → opened s0 c (rowsSegs (fTB w) db a f.b m n) wr = some s1 →
        let ids := (List.range (m * n)).map fun j => BitVec.ofNat 64 (rdCode s1 x db a (f.b + j / n) (j % n))
        let blks := (ids.flatMap (idBlks s1 v)).eraseDups
        let s2 := readBlks s1 blks
        let l := (ids.filterMap (broodOf s1 v)).map fun e => broodRange (s1.index v.idx) e.seq
        ∀ s3, blksBusy s1 blks = false → lostChan s2 blks = none → l.any (rangeBusy s2) = false → touchRanges s2 l = some s3 →
          l.any (rangePoison s3) = false →
        let due := (dues s2 s3 l).zipWith (· + ·) (flashDues s1 s2)
        inDebt (s.part x.part) due = false →
        let row (st : State) (j : Nat) : State := putN st c d.space a (d.rowOff (f.d + j))
          (bytesAt ((viewVector s1 v (ids.getD j 0)).getD []) 0 (2 * d.e0))
        let s4 := (List.range (m * n)).foldl row (charge s3 x.part due)
        let unknown (j : Nat) : Bool := (viewVector s1 v (ids.getD j 0)).isNone && ids.getD j 0 != BitVec.allOnes 64
        let ex := (List.range (m * n)).foldl (fun e j => excJoin e (if unknown j then raiseAt flInv (j / n) (j % n) 0 else .none)) Exc.none
        let t := finishWrites (unitRaise (noteSource s4 (devRanges s4 (s4.ctx c) wr)) c 0xE0 ex) c wr (flToCtx ex.fl)
        exec (.pgrdVectors c w) s = .next t ∧ (x.trapMask = 0 → MovedOn s t c ∧ SameRegs s t c ∧ (t.ctx c).preg = x.preg ∧
          (t.ctx c).flags = x.flags ||| (if ids.any fun id => (viewVector s1 v id).isNone && id != BitVec.allOnes 64 then 1#6 else 0) ∧
          ∀ p, outsideSegs s x wr p → readPos t (t.ctx c) p = readPos s x p))) ∧
    (∀ dn dc, issues s c w false (pgrdBroodIss s c w) = true → descOf (tget x (fTD w + 1)) = some dn → descOf (tget x (fTC w)) = some dc →
      let s0 := fixView s c v
      opened s0 c [filterSeg s0 x (fTC w) dc a f.c] [] = some s1 →
      let g := viewGen s1 v
      let prog := filterWords s1 x dc a f.c
      let all := viewBrood s1 v
      let l := (liveBrood all).filter fun e => filterRun (attrRow g e.handle) [] prog
      let reads := all.map (fun e => broodRange (s1.index v.idx) e.seq) ++
        (if filterLooks prog then (liveBrood all).flatMap fun e => attrRanges (s1.index v.idx) g e.handle else [])
      let wr := rowsSegs (fTD w) d a f.d l.length d.e0 ++ rowsSegs (fTD w + 1) dn a f.d l.length 1
      ∀ s2, reads.any (rangeBusy s1) = false → touchRanges s1 reads = some s2 → reads.any (rangePoison s2) = false →
      let due := (dues s1 s2 reads).zipWith (· + ·) [0, 0, 0, 0]
      inDebt (s.part x.part) due = false →
      let s3 := charge s2 x.part due
      (d.rows < l.length →
        ∃ t, exec (.pgrdBrood c w) s = .next t ∧ (t.ctx c).st = .faulted ∧
          (t.ctx c).exc = { cause := .shapeOver, unit := 0xE0, dim := 1, detail := BitVec.ofNat 28 l.length }) ∧
      (l.length ≤ d.rows → d.rows < f.d + l.length →
        exec (.pgrdBrood c w) s = .next (faultCtx s3 c .descRange 0xE0 0 (BitVec.ofNat 28 (fTD w).val))) ∧
      (f.d + l.length ≤ d.rows → dn.rows < f.d + l.length →
        exec (.pgrdBrood c w) s = .next (faultCtx s3 c .descRange 0xE0 0 (BitVec.ofNat 28 (fTD w + 1).val))) ∧
      (∀ s4, f.d + l.length ≤ d.rows → f.d + l.length ≤ dn.rows → devWriteIss s3 c wr = [] → opened s3 c [] wr = some s4 →
        let s5 := ((List.range l.length).zip l).foldl (fun st p =>
          wrCode (putN st c d.space a (d.rowOff (f.d + p.1)) (bytesAt p.2.vec 0 (2 * d.e0))) c dn a (f.d + p.1) 0 p.2.id.toNat) s4
        let s6 := noteSource s5 (devRanges s5 (s5.ctx c) wr)
        let t := finishWrites (s6.setCtx c (sput (s6.ctx c) (fSP2 w) (BitVec.ofNat 64 l.length))) c wr 0
        let y := sput x (fSP2 w) (BitVec.ofNat 64 l.length)
        exec (.pgrdBrood c w) s = .next t ∧ SameRegs s t c ∧ (t.ctx c).pc = (advance y).pc ∧ (t.ctx c).sreg = (advance y).sreg ∧
          (t.ctx c).preg = x.preg ∧ (t.ctx c).flags = x.flags ∧ ∀ p, outsideSegs s x wr p → readPos t (t.ctx c) p = readPos s x p))

/-- What APND appends, and how a waiting APND goes on. An APND that executes with its reads open forms its entries and
raises INV for a rejected row. Where none is accepted it goes on. Where the drive would have to turn read-only it
faults with ADDR_RANGE and appends nothing. Where all of them fit below BROOD_CAP, their pages have frames, no block
that holds them is under reset and the regulators have tokens, the brood list grows by exactly those entries in row
order with the sequence numbers that follow HEAD, HEAD rises by their number, and the context goes on. Where they do
not fit yet nothing is appended and the context blocks at the instruction; APND_RESUME appends all of them once they
fit, and the context has passed the instruction; in read-only operation it faults and appends nothing. Each next
state is given as a whole. No brood list, header or generation of another index changes, and no byte of memory
(R131, R247 to R250, R393). -/
def Obligations.AppendsToBrood : Prop :=
  ∀ (s : State) (c : CtxId), calm (s.ctx c) = true →
    let x := s.ctx c
    let grows (t : State) (i : IdxId) (l : List BroodNew) : Prop :=
      let ix := s.index i
      (t.index i).brood = ix.brood ++ ((List.range l.length).zip l).map (fun p =>
        { seq := BitVec.ofNat 64 (ix.head.toNat + 1 + p.1), id := p.2.id, handle := p.2.handle, tomb := p.2.tomb, vec := p.2.vec }) ∧
      (t.index i).head = BitVec.ofNat 64 (ix.head.toNat + l.length) ∧ (t.index i).gens = ix.gens ∧
      (∀ j, j ≠ i → t.index j = s.index j) ∧ t.tiers.mem = s.tiers.mem
    (∀ (w : Insn) (o : ApndOps) (s1 : State), issues s c w false (apndIss s c w) = true → apndOps x w = some o →
      opened s c (apndRd x w o (arr0 s x)) [] = some s1 →
      let i := spIdx x w
      let rows := (List.range (sv x (fSM w))).map fun j => (j, apndEntry s1 x w o (arr0 s x) (s1.index i) j)
      let ex := rows.foldl (fun e p => if p.2.isNone then excJoin e (raiseAt flInv p.1 0 0) else e) Exc.none
      let l := rows.filterMap Prod.snd
      let s2 := unitRaise s1 c 0xE0 ex
      let fl := flToCtx ex.fl
      let fits : Prop := (s.index i).broodCount + l.length ≤ (s.index i).broodCap.toNat
      (l = [] → exec (.apnd c w) s = .next (finishInsn s2 c fl) ∧ (finishInsn s2 c fl).idxs = s.idxs) ∧
      (l ≠ [] → entersReadOnly s2 1 = true → exec (.apnd c w) s = .next (faultSeq (goReadOnly s2) c .addrRange 0 0)) ∧
      (l ≠ [] → entersReadOnly s2 1 = false →
        (∀ r, fits → broodBusy s2 i l.length = false → broodRoom s2 i l.length = some r → inDebt (s.part x.part) r.2 = false →
          let t := finishInsn (appendBrood (charge r.1 x.part r.2) c i l) c fl
          exec (.apnd c w) s = .next t ∧ grows t i l ∧ (x.trapMask = 0 → MovedOn s t c ∧ SameRegs s t c)) ∧
        (¬ fits →
          let t := blockCtx s2 c (.apnd i l fl)
          exec (.apnd c w) s = .next t ∧ (t.ctx c).st = .blocked ∧ (t.ctx c).wait = .apnd i l fl ∧ (t.ctx c).pc = x.pc ∧ t.idxs = s.idxs))) ∧
    ∀ (i : IdxId) (l : List BroodNew) (fl : BitVec 6), x.wait = .apnd i l fl →
      (s.nvm.readOnly = true → exec (.apndResume c) s = .next (faultSeq (goReadOnly s) c .addrRange 0 0)) ∧
      (s.nvm.readOnly = false → entersReadOnly s 1 = false →
        (∀ r, (s.index i).broodCount + l.length ≤ (s.index i).broodCap.toNat → broodBusy s i l.length = false → broodRoom s i l.length = some r →
          inDebt (s.part x.part) r.2 = false →
          let t := finishWait (appendBrood (charge r.1 x.part r.2) c i l) c fl
          exec (.apndResume c) s = .next t ∧ grows t i l ∧
            (x.trapMask = 0 → x.st = .blocked → (t.ctx c).pc = (advance x).pc ∧ (t.ctx c).sreg = (advance x).sreg ∧ (t.ctx c).wait = .none ∧ SameRegs s t c)) ∧
        ((s.index i).broodCap.toNat < (s.index i).broodCount + l.length → exec (.apndResume c) s = .next s))

/-- What SEND, RECV and LEASE do. A SEND whose message fits the drive's own slot of a round that has not begun, with its
read open, puts the bytes of A in that slot, with no other message there, keeps the context pinned to the end of the
slot and goes on, writing no memory; a message that does not fit faults with FABRIC and UNIT 0xE2 and changes no
slot. A RECV with no schedule for its round faults likewise; one whose children have not all passed pins the context
and blocks; otherwise, where its writes stand open, it writes the children's rows and the coverage, adds that to the
context's coverage of the round, unpins the context and goes on. A LEASE with no schedule faults with FABRIC; with
every window taken it writes zero to s[SP2] and goes on; otherwise it blocks with a new request number and the
request goes to the keeper, which may be the drive. LEASE with REL of a base that names no window held by the
context faults with ADDR_RANGE, of another with no schedule with FABRIC, and otherwise gives up the window and goes
on. Each next state is given as a whole. Message layouts are the model's (log entry 11), and so is that a hive
moment is a command of its own (log entry 1). -/
def Obligations.FabricInstructions : Prop :=
  ∀ (s s1 : State) (c : CtxId) (w : Insn), calm (s.ctx c) = true →
    let x := s.ctx c
    let a := arr0 s x
    let r := sv x (fSP1 w)
    let n := sv x (fSK w)
    (∀ d, issues s c w false (sendIss s c w) = true → descOf (tget x (fTA w)) = some d → x.sending ≠ some (BitVec.ofNat 64 r) →
      let gs := rawSegs (fTA w) d a 0 n
      let m : SlotMsg := { round := BitVec.ofNat 64 r, ctx := c, body := [], ready := false
                           intake := (intakeOf x).map Prod.fst, ord := ((intakeOf x).map Prod.snd).getD 0, own := false }
      let s0 := (fillSlot s m).setCtx c { x with pinEnd := later x.pinEnd (slotEnd s r), sending := some (BitVec.ofNat 64 r) }
      (slotTakes s r (64 + n) = false → exec (.send c w) s = .next (faultCtx s c .fabric 0xE2 0 0)) ∧
      (slotTakes s r (64 + n) = true → opened s0 c gs [] = some s1 →
        let m1 := { m with body := gs.flatMap fun g => readN s1 (s1.ctx c) g.sp g.arr g.off g.len, ready := true }
        ∃ t, exec (.send c w) s = .next t ∧ MovedOn s t c ∧ SameRegs s t c ∧ (t.ctx c).preg = x.preg ∧
          (t.ctx c).pinEnd = later x.pinEnd (slotEnd s r) ∧ (t.ctx c).sending = none ∧ t.tiers.mem = s.tiers.mem ∧
          m1 ∈ t.fab.slots ∧ (∀ q ∈ t.fab.slots, q = m1 ∨ q ∈ s.fab.slots) ∧
          ∀ q ∈ t.fab.slots, q.round = m1.round → q = m1 ∨ rootIn s r = true)) ∧
    (issues s c w false (recvIss s c w) = true →
      (ownChildren s r = none → exec (.recv c w) s = .next (faultCtx s c .fabric 0xE2 0 0)) ∧
      (∀ q l, ownChildren s r = some (q, l) → childrenPassed s q r l = false →
        exec (.recv c w) s = .next (blockCtx (s.setCtx c { x with pinned := true }) c (.recv w (BitVec.ofNat 64 r)))) ∧
      (∀ q l d dn dc, ownChildren s r = some (q, l) → childrenPassed s q r l = true → descOf (tget x (fTD w)) = some d →
        descOf (tget x (fTD w + 1)) = some dn → descOf (tget x (fTC w)) = some dc →
        let rows := x.count.toNat
        let k := min d.e0 dn.e0
        let wr := rowsSegs (fTD w) d a 0 (rows * l.length) k ++ rowsSegs (fTD w + 1) dn a 0 (rows * l.length) k ++ rawSegs (fTC w) dc a 0 64
        opened (s.setCtx c { x with pinned := true }) c [] wr = some s1 →
        let s2 := ((List.range l.length).zip l).foldl (fun st p =>
          (List.range rows).foldl (fun u i =>
            putBest u c d dn a (p.1 * rows + i) k ((List.range k).map (childEntry rows k (childMsg s r p.2) i))) st) s1
        let s3 := addCover (fillSegs c (rawSegs (fTC w) dc a 0 64) (toLe 64 (coverOf s r l).toNat) s2) c r (coverOf s r l)
        let t := finishWrites (s3.setCtx c { s3.ctx c with pinned := false }) c wr 0
        exec (.recv c w) s = .next t ∧ MovedOn s t c ∧ SameRegs s t c ∧ (t.ctx c).preg = x.preg ∧ (t.ctx c).pinned = false ∧
          (∃ v ∈ t.fab.covers, v.round = BitVec.ofNat 64 r ∧ v.ctx = c ∧ v.bits &&& coverOf s r l = coverOf s r l) ∧
          ∀ p, outsideSegs s x wr p → readPos t (t.ctx c) p = readPos s x p)) ∧
    (issues s c w false (leaseIss s c w) = true →
      (newestSched s = none → exec (.lease c w) s = .next (faultCtx s c .fabric 0xE2 0 0)) ∧
      (newestSched s ≠ none → freeWindow s 0 48 = none → exec (.lease c w) s = .next (s.setCtx c (advance (sput x (fSP2 w) 0)))) ∧
      (newestSched s ≠ none → freeWindow s 0 48 ≠ none →
        let t := askLease (blockCtx s c (.lease w (nextReq s))) (some c) (nextReq s) (n / Config.pageBytes)
        exec (.lease c w) s = .next t ∧
        (s.fab.st ≠ .keeper → (t.ctx c).st = .blocked ∧ (t.ctx c).wait = .lease w (nextReq s) ∧
          t.fab.reqNo = nextReq s ∧ ∃ l ∈ t.fab.leases, l.req = nextReq s ∧ l.ctx = some c ∧ l.granted = false ∧
            l.pages = n / Config.pageBytes))) ∧
    (issues s c w false (layoutIss w 5 mSP2 0x100 ++ fabricIss s x) = true →
      (heldLease s c (sv x (fSP2 w)) = none → exec (.leaseRelease c w) s = .next (faultCtx s c .addrRange 0xE0 0 0)) ∧
      ∀ l, heldLease s c (sv x (fSP2 w)) = some l →
        (newestSched s = none → exec (.leaseRelease c w) s = .next (faultCtx s c .fabric 0xE2 0 0)) ∧
        (newestSched s ≠ none →
          let t := (dropLease s l).setCtx c (advance x)
          exec (.leaseRelease c w) s = .next t ∧ MovedOn s t c ∧ SameRegs s t c ∧ ∀ q ∈ t.fab.leases, q.req ≠ l.req))

/-- What the scheduler's events do to the contexts and arrays of a partition. SLICE_END with the slice used up, what the
context used of it in an earlier step counted (R303), makes the Running context Runnable and lets the scheduler
choose; before that it changes nothing. When the clear of a switch is done, with none of the clusters under reset,
the successor runs its step on cleared arrays: its s0 is the sequence count, its s1 the steps done before, its pc
the entry point, its flags and loop stack are empty, and it holds the arrays. When a save is done, with no block
that it needs under reset (R27), the outgoing context is parked and the clear for the successor begins. When a
restore is done the parked context holds the arrays and runs, unless the save area is poisoned: then it faults. An
eviction moves the sequencer of the named victim to the first starved context. A context that has been starved, with
no resident context that can be evicted, for four slices since it began to wait so raises event 0x0002 once. That
each moment is a command of its own is the model's choice (log entry 1). -/
def Obligations.SchedulerEvents : Prop :=
  ∀ (s : State) (p : PartId) (c d : CtxId),
    (runningOf s p = some c →
      let due := (s.ctx c).sliceAt.toNat + ((s.part p).desc.slice.toNat * 1000 - sliceUsed (s.part p) c)
      (s.time.now.toNat < due → exec (.sliceEnd p) s = .next s) ∧
      (due ≤ s.time.now.toNat →
        ∃ s1 t, exec (.sliceEnd p) s = .next t ∧ t = dispatch s1 p ∧ (s1.ctx c).st = .runnable ∧ (s1.ctx c).lastRun = s.time.now ∧
          (s1.ctx c).pc = (s.ctx c).pc ∧ s1.part p = { s.part p with slice := none } ∧ ∀ q, q ≠ p → s1.part q = s.part q)) ∧
    ((s.part p).sw = .clear c → (partArrs s p).any (fun a => blockDown s (clusterOf a)) = false → (s.ctx c).st = .runnable → (s.ctx c).cur ≠ none →
      ∃ t, exec (.arrayClearComplete p) s = .next t ∧ (t.ctx c).st = .running ∧ (t.ctx c).pc = entryOf (s.slot (s.ctx c).slot) ∧
        (t.ctx c).stack = [] ∧ (t.ctx c).flags = 0 ∧ (∀ r, (s.ctx c).cur = some r → sget (t.ctx c) 0 = BitVec.ofNat 64 r.count.toNat) ∧
        sget (t.ctx c) 1 = (s.ctx c).steps ∧ (t.part p).sw = .idle ∧
        (t.part p).holder = some c ∧ ∀ a ∈ partArrs s p, (t.arr a).buf = [] ∧ (t.arr a).acc = []) ∧
    ((s.part p).sw = .save c d → saveDown s p = false →
      ∃ t, exec (.saveComplete p) s = .next t ∧ (t.part p).sw = .clear d ∧ (t.part p).holder = none ∧ (t.part p).parked = some c ∧
        t.ctxs = s.ctxs ∧ t.arrs = s.arrs) ∧
    ((s.part p).sw = .restore c → saveDown s p = false →
      ∃ t, exec (.restoreComplete p) s = .next t ∧
        (savePoison s p = false → (t.ctx c).st = .running ∧ (t.ctx c).sliceAt = s.time.now ∧ (t.part p).sw = .idle ∧
          (t.part p).holder = some c ∧ (t.part p).parked = none) ∧
        (savePoison s p = true → (t.ctx c).st = .faulted ∧ (t.ctx c).exc.cause = .poison)) ∧
    (∀ q : Fin 16, (swapOrder s).find? (isStarved s) = some d → (s.ctx c).seqr = some q → evictVictim s .blocked = some c →
      (holdsArrays s c = false ∨ saveBusy s (s.ctx c).part = false) →
      ∃ t, exec (.evictionComplete c) s = .next t ∧ (t.ctx c).st = .swapped ∧ (t.ctx c).seqr = none ∧ (t.ctx d).seqr = some q) ∧
    (∀ since, starvedNow s c = true → (s.ctx c).starved = false → (s.ctx c).starveAt = some since →
      since.toNat + 4 * ((s.part (s.ctx c).part).desc.slice.toNat * 1000) ≤ s.time.now.toNat →
      ∃ t e, exec (.starvationTimeout c) s = .next t ∧ (t.ctx c).starved = true ∧ (t.ctx c).ring.getLast? = some e ∧ e.code = 0x0002)

/-- A restore gives the arrays back what the save put in the save areas. For a partition whose arrays lie in service,
with memories in canonical form and within their sizes, restoring its arrays right after saving them gives every
array of the partition the buffer and accumulator memory it had, and saving changes no byte of device memory outside
the save areas of the partition's arrays (R308, R309). -/
def Obligations.SaveAndRestore : Prop :=
  ∀ (s : State) (p : PartId), memOk s →
    (∀ a, (∀ q ∈ (s.arr a).buf, q.1 < Config.bufBytes) ∧ (∀ q ∈ (s.arr a).acc, q.1 < Config.accBytes)) →
    (∀ a ∈ partArrs s p, ((restoreArrays (saveArrays s p) p).arr a).buf = (s.arr a).buf ∧
      ((restoreArrays (saveArrays s p) p).arr a).acc = (s.arr a).acc) ∧
    ∀ n, (∀ a ∈ partArrs s p, n < saveAddr s a ∨ saveAddr s a + saveBytes ≤ n) →
      memGet (saveArrays s p).tiers.mem n = memGet s.tiers.mem n

/-- Loading, activating and deactivating a program slot. A LOAD_PROGRAM that is taken up with type 0x80 and a piece that
continues the staged ones is stored; the piece that completes the length brings the checks of R77: the first that
fails gives the status and empties the staging, and with none the image is in the slot. A piece out of order drops
what was staged. PROGRAM_ACTIVATE of a loaded slot whose constants find room, once their pages have frames (R266,
R267), copies them to their place and makes it active; PROGRAM_DEACTIVATE of an active slot with no context frees
their pages. Otherwise each completes with the state-sequence status, or with no room, and has no side effect (R53,
R77, R78, R412). -/
def Obligations.ProgramSlots : Prop :=
  ∀ (s : State) (h : Hdr) (k : SlotId), accepts s h .prog = true →
    let u := (s.fetchSeq h)
    (∀ (off total : BitVec 32) (piece : Bytes), piece.length ≤ 1048576 →
      let sl := s.slot k
      let img := sl.stg ++ piece
      let fits := off.toNat = sl.stg.length ∧ img.length ≤ total.toNat ∧ (sl.stg = [] ∨ total.toNat = sl.stgTotal)
      let run := exec (.loadProgram h 0x80 k off total piece) s
      (¬ fits → run = .next (completeSt (u.setSlot k { sl with stg := [], stgTotal := 0 }) h .invalidField)) ∧
      (fits → img.length < total.toNat → run = .next (completeSt (u.setSlot k { sl with stg := img, stgTotal := total.toNat }) h .success)) ∧
      (fits → img.length = total.toNat → ∃ t, run = .next t ∧ (t.slot k).stg = [] ∧
        (∀ f, imgFault s k img = some f → lastStatus t = some (h.sq, h.cid, f.1) ∧ (t.slot k).img = sl.img ∧ (t.slot k).loaded = sl.loaded) ∧
        (imgFault s k img = none → lastStatus t = some (h.sq, h.cid, .success) ∧ (t.slot k).img = img ∧ (t.slot k).loaded = true))) ∧
    ((s.slot k).loaded = false ∨ (s.slot k).active = true → exec (.programActivate h k) s = .next (completeSt u h .sequence)) ∧
    ((s.slot k).loaded = true → (s.slot k).active = false →
      allocRun u (fieldAt (s.slot k).img 0x42 1 == 0) (pagesFor (constSize (s.slot k))) (.consts k) false = none →
      exec (.programActivate h k) s = .next (completeSt u h .noMemory)) ∧
    (∀ r, (s.slot k).loaded = true → (s.slot k).active = false →
      allocRun u (fieldAt (s.slot k).img 0x42 1 == 0) (pagesFor (constSize (s.slot k))) (.consts k) false = some r →
      (touchRanges r.1 [(r.2, r.2 + constSize (s.slot k))]).isSome = true →
      ∃ t, exec (.programActivate h k) s = .next t ∧ lastStatus t = some (h.sq, h.cid, .success) ∧ (t.slot k).active = true ∧
        (t.slot k).constBase = r.2 ∧ (t.slot k).img = (s.slot k).img ∧
        ∀ i, i < constSize (s.slot k) → memGet t.tiers.mem (r.2 + i) = (s.slot k).img.getD (fieldAt (s.slot k).img 0x18 4 + i) 0) ∧
    ((s.slot k).active = false ∨ slotBound s k = true → exec (.programDeactivate h k) s = .next (completeSt u h .sequence)) ∧
    ((s.slot k).active = true → slotBound s k = false →
      ∃ t, exec (.programDeactivate h k) s = .next t ∧ lastStatus t = some (h.sq, h.cid, .success) ∧ (t.slot k).active = false ∧
        (t.slot k).loaded = (s.slot k).loaded ∧ ∀ q ∈ t.tiers.pages, q.owner ≠ .consts k)

/-- Creating and deleting a context, and queueing a batch step. A CONTEXT_CREATE that passes every check, finds room for
its working areas and a sequencer, makes the lowest free context Ready on the slot, partition and submission queue
named, with cleared s-registers, the image's descriptors in its t-registers and p0 all ones, and completes with
success. A CONTEXT_DELETE of a context in use frees it, with its pages and leases. An EXECUTE_PROGRAM on a queue
whose context is not Faulted and not the hive context puts the step at the end of that context's queue, where it
starts at once if the context is Ready with nothing before it; on a queue without a context, or with a Faulted one,
it completes with the state-sequence status and changes nothing else. The lowest free device address is the model's
choice for a working area (log entry 22). -/
def Obligations.ContextsAndSteps : Prop :=
  ∀ (s : State) (h : Hdr) (d : Dw), accepts s h .prog = true →
    let u := (s.fetchSeq h)
    (∀ (c : CtxId) (a b : State × Nat) (v : State × Fin 16),
      let k := s.slot (Fin.ofNat 32 (dwB d.d10 16 12))
      let p : PartId := Fin.ofNat 8 (dwB d.d10 19 17)
      createFieldsBad s d = false → k.active = true → (s.part p).defined = true →
      ctxOfSq s (BitVec.ofNat 16 (dwB d.d11 15 0)) = none → freeCtx s = some c → (takeSeq u).isSome = true →
      (dwB d.d10 20 20 = 0 ∨ (fieldAt k.img 0x0A 2).testBit 0 = false) →
      fieldAt k.img 0x26 1 ≤ popCount (s.part p).desc.clusters → fieldAt k.img 0x27 1 ≤ popCount (s.part p).desc.foragers →
      overCap (s.part p).desc.ncap (partPages s p (fun x => x.wnSize) + pagesFor (workN k)) = false →
      overCap (s.part p).desc.fcap (partPages s p (fun x => x.wfSize) + pagesFor (workF k)) = false →
      allocRun u true (pagesFor (workN k)) (.workN c) false = some a →
      allocRun a.1 false (pagesFor (workF k)) (.workF c) false = some b → takeSeq b.1 = some v →
      ∃ t, exec (.contextCreate h d) s = .next t ∧ lastStatus t = some (h.sq, h.cid, .success) ∧ (t.ctx c).st = .ready ∧
        (t.ctx c).slot = Fin.ofNat 32 (dwB d.d10 16 12) ∧ (t.ctx c).part = p ∧ (t.ctx c).sq = BitVec.ofNat 16 (dwB d.d11 15 0) ∧ (t.ctx c).seqr = some v.2 ∧
        (t.ctx c).wnBase = a.2 ∧ (t.ctx c).wfBase = b.2 ∧ (t.ctx c).limit = (if d.d12 = 0 then 1000 else d.d12) ∧
        (∀ i, sget (t.ctx c) i = 0) ∧ (∀ i, tget (t.ctx c) i = imgDesc k.img i) ∧ pget (t.ctx c) 0 = BitVec.allOnes 64) ∧
    (let c : CtxId := Fin.ofNat 64 (dwB d.d10 9 4)
     deleteFieldsBad d = false →
      ((s.ctx c).st = .free → exec (.contextDelete h d) s = .next (completeSt u h .sequence)) ∧
      ((s.ctx c).st ≠ .free → ∃ t, exec (.contextDelete h d) s = .next t ∧ lastStatus t = some (h.sq, h.cid, .success) ∧
        t.ctx c = Ctx.free ∧ (∀ l ∈ t.fab.leases, l.ctx ≠ some c) ∧ (∀ q ∈ t.tiers.pages, q.owner ≠ .workN c ∧ q.owner ≠ .workF c) ∧
        (t.part (s.ctx c).part).holder ≠ some c ∧ (t.part (s.ctx c).part).parked ≠ some c)) ∧
    ∀ input : Bytes, execFieldsBad d input = false →
      (ctxOfSq s h.sq = none → exec (.executeProgram h d input) s = .next (completeSt u h .sequence)) ∧
      (∀ c, ctxOfSq s h.sq = some c → (s.ctx c).st = .faulted → exec (.executeProgram h d input) s = .next (completeSt u h .sequence)) ∧
      (∀ c, ctxOfSq s h.sq = some c → (s.ctx c).st ≠ .faulted → (s.fab.hive = 0 ∨ s.fab.hiveCtx ≠ some c) →
        ∃ t r, exec (.executeProgram h d input) s = .next t ∧ t.out.cpls = s.out.cpls ∧ r.src = .host h.sq h.cid ∧
          r.count.toNat = dwB d.d10 27 21 ∧ r.hin = input.drop 112 ∧ r.outLen = dwB d.d11 20 0 ∧
          ((s.ctx c).st ≠ .ready → (t.ctx c).queue = (s.ctx c).queue ++ [r]) ∧
          ((s.ctx c).st = .ready → (s.ctx c).queue = [] → (t.ctx c).queue = [] ∧ (t.ctx c).cur = some r))

/-- Defining, changing, deleting and resetting a partition. With well-formed fields, PARTITION_DEFINE of a number not in
use whose units belong to nobody else sets it up with its descriptor and full token buckets; PARTITION_CHANGE and
PARTITION_DELETE of a defined partition to which no context is bound replace its descriptor and remove it;
PARTITION_RESET of a defined partition with contexts deletes every one of them and leaves its descriptor as it was,
its arrays and their exception records clear and no switch under way. With a context bound, change and delete
complete with the state-sequence status, and so does defining a number in use, or resetting one without contexts,
with no side effect. A Tier N frame taken for a page of a partition's working area lies in a stack that STACKS
names, where it names any (R318). Full buckets and the answer to an undefined number of CHANGE and DELETE are the
model's choice (log entry 13). -/
def Obligations.Partitions : Prop :=
  ∀ (s : State) (h : Hdr) (d : Dw) (desc : Bytes), accepts s h .prog = true →
    let u := (s.fetchSeq h)
    let p := partNo desc
    let x := partDescOf desc
    (partHeadBad d desc 0 = false → partFieldsBad desc = false →
      ((s.part p).defined = true ∨ partClash s p x = true → exec (.partitionDefine h d desc) s = .next (completeSt u h .sequence)) ∧
      ((s.part p).defined = false → partClash s p x = false →
        exec (.partitionDefine h d desc) s = .next (completeSt (u.setPart p (partNew x)) h .success))) ∧
    (partHeadBad d desc 1 = false → partFieldsBad desc = false → (s.part p).defined = true → partClash s p x = false →
      (partBound s p = true → exec (.partitionChange h d desc) s = .next (completeSt u h .sequence)) ∧
      (partBound s p = false → exec (.partitionChange h d desc) s =
        .next (completeSt (u.setPart p { s.part p with desc := x, tokens := (partNew x).tokens }) h .success))) ∧
    (partHeadBad d desc 2 = false → zeroAt desc 1 63 = true → (s.part p).defined = true →
      (partBound s p = true → exec (.partitionDelete h d desc) s = .next (completeSt u h .sequence)) ∧
      (partBound s p = false → exec (.partitionDelete h d desc) s = .next (completeSt (u.setPart p .undef) h .success))) ∧
    (partHeadBad d desc 3 = false → zeroAt desc 1 63 = true →
      ((s.part p).defined = false ∨ partBound s p = false → exec (.partitionReset h d desc) s = .next (completeSt u h .sequence)) ∧
      ((s.part p).defined = true → partBound s p = true →
        ∃ t, exec (.partitionReset h d desc) s = .next t ∧ lastStatus t = some (h.sq, h.cid, .success) ∧
          (∀ c, (s.ctx c).st ≠ .free → (s.ctx c).part = p → (t.ctx c).st = .free) ∧ (t.part p).defined = true ∧
          (t.part p).desc = (s.part p).desc ∧ (t.part p).holder = none ∧ (t.part p).parked = none ∧ (t.part p).sw = .idle ∧
          ∀ a ∈ partArrs s p, (t.arr a).buf = [] ∧ (t.arr a).acc = [] ∧ (t.arr a).exc = .clear)) ∧
    (∀ (busy : List Range) (pg : Page) (c : CtxId) (t : State), pg ∈ s.tiers.pages → (pg.owner = .workN c ∨ pg.owner = .workF c) →
      (s.part (s.ctx c).part).desc.stackMask ≠ 0 → movePage s busy pg .tierN = some t →
      ∃ q ∈ t.tiers.pages, q.no = pg.no ∧ q.loc = .tierN ∧ (s.part (s.ctx c).part).desc.stackMask.getLsbD q.stk.val = true)

/-- No context in STATISTICAL mode on an image that is EXACT_ONLY. A context creation that asks for STATISTICAL mode
(bit 20 of its first dword) on a slot whose image has EXACT_ONLY set, and that no earlier stage of R403 turns away,
completes with Invalid Field in Command; it creates no context and has no other effect on the drive than its
completion. -/
def Obligations.StatisticalNeedsPermission : Prop :=
  ∀ (s : State) (h : Hdr) (d : Dw), accepts s h .prog = true → dwB d.d10 20 20 = 1 →
    (fieldAt (s.slot (Fin.ofNat 32 (dwB d.d10 16 12))).img 0x0A 2).testBit 0 = true →
    (∃ t, exec (.contextCreate h d) s = .next t ∧ t.ctxs = s.ctxs ∧ t.tiers = s.tiers ∧ t.parts = s.parts ∧ lastStatus t ≠ some (h.sq, h.cid, .success)) ∧
    ((s.slot (Fin.ofNat 32 (dwB d.d10 16 12))).active = true → (s.part (Fin.ofNat 8 (dwB d.d10 19 17))).defined = true →
      ctxOfSq s (BitVec.ofNat 16 (dwB d.d11 15 0)) = none → (freeCtx s).isSome = true → (takeSeq (s.fetchSeq h)).isSome = true →
      exec (.contextCreate h d) s = .next (completeSt (s.fetchSeq h) h .invalidField))

/-- The reserved bits of the trap mask, and SHORT. A SETP of the trap mask with a 1 in any of bits 15 to 5 of its value
faults the Running context with RSVD_FIELD and leaves the mask as it was. Whatever the mask holds, an instruction
that raises SHORT alone does not trap: it goes on, unless it stands degraded. -/
def Obligations.ReservedTrapBits : Prop :=
  ∀ (s : State) (c : CtxId) (w : Insn), (s.ctx c).st = .running → pcInCode s (s.ctx c) = true →
    (w.mod = 0 → bitsOf (sget (s.ctx c) (fSP1 w)) 15 5 ≠ 0 →
      ∃ t, exec (.setpTrapMask c w) s = .next t ∧ (t.ctx c).st = .faulted ∧ (t.ctx c).exc.cause = .rsvdField ∧
        (t.ctx c).trapMask = (s.ctx c).trapMask) ∧
    (calm (s.ctx c) = true → finishInsn s c ctxShort =
      s.setCtx c (advance { s.ctx c with flags := (s.ctx c).flags ||| ctxShort }))

/-- Creating and deleting an index, its share, its stagings, and asking for a merge. INDEX_CREATE with well-formed
fields and a source that lies within its working area, of an index number not in use, forms the index from the
descriptor: generation 1 in record 0 with the centroid count given, empty lists, an empty brood list, record 1 not
valid; the namespace then holds the index and none of the host's data. With no room it completes with the shared
data space's status and with the number in use with the state-sequence status, in both cases with no other effect.
INDEX_DELETE of an index that no step holds a view on empties its header, frees its pages and its namespace and
takes it out of the merge queue; held or not in use, it completes with the state-sequence status. INDEX_SET_SHARE
stores the share, 10 where the field is 0. With well-formed fields and a source that passes its checks,
INDEX_STAGE_CENTROIDS puts the whole source in the place of any staged before; INDEX_STAGE_ATTRIBUTES grows the
table to hold the rows, lays them over the rows staged before, and changes no generation; INDEX_MERGE queues a merge
unless one is queued. Creating and staging wait while the step of the source's context is in progress or a block
under reset holds the source (R271, R27), and complete once the pages they read and write have frames (R266, R267),
the others at once; each with success, for an index not in use with the state-sequence status, and where the table
cannot grow with the shared data space's status, with no other effect. The place of a grown table and what a deleted
index's namespace then holds are the model's choice and a free value (log entries 14, 2). -/
def Obligations.IndexCommands : Prop :=
  (∀ (s : State) (h : Hdr) (d : Dw) (b : Bytes), accepts s h .prog = true →
    let u := (s.fetchSeq h)
    let i := ixNo b
    let x := idxOf b
    let stop := partsEnd (ixF b 0x28 8) (srcParts x (ixF b 0x1C 4) 0 (ixF b 0x22 1 == 1) (ixF b 0x34 4))
    (ixHeadBad d b 0 = false → createIxBad s b = false → stop ≤ (srcArea s b).2 →
      ((s.index i).live = true → exec (.indexCreate h d b) s = .next (completeSt u h .sequence)) ∧
      ((s.index i).live = false → s.nvm.readOnly = false → entersReadOnly u 1 = false → srcBusy u b = true →
        exec (.indexCreate h d b) s = .next (park u (.indexCreate h d b))) ∧
      (∀ s2, (s.index i).live = false → s.nvm.readOnly = false → entersReadOnly u 1 = false → srcBusy u b = false →
        touchRanges u [((srcArea s b).1 + ixF b 0x28 8, (srcArea s b).1 + stop)] = some s2 →
        (createIdx s2 b x i = none → exec (.indexCreate h d b) s = .next (completeSt u h .noMemory)) ∧
        (∀ s3 t, createIdx s2 b x i = some s3 → touchRanges s3 (madeRanges s3 i) = some t →
          exec (.indexCreate h d b) s = .next (completeSt (settleDev t (madeRanges t i)) h .success) ∧
          (t.index i).live = true ∧ (t.index i).metric = x.metric ∧ (t.index i).dim = x.dim ∧ (t.index i).codeFmt = x.codeFmt ∧
          (t.index i).chanMask = x.chanMask ∧ (t.index i).nsid = x.nsid ∧ (t.index i).share = x.share ∧ (t.index i).cur = 0 ∧
          (t.index i).brood = [] ∧ (t.index i).gens[0].gen = 1 ∧ (t.index i).gens[0].valid = true ∧
          (t.index i).gens[0].ncent = BitVec.ofNat 32 (ixF b 0x1C 4) ∧ (t.index i).gens[0].lists = [] ∧
          (t.index i).gens[1].valid = false ∧ (∀ n ∈ t.nvm.nss, n.nsid = x.nsid → n.index = some i) ∧
          (∀ e ∈ t.nvm.blocks, e.key.nsid ≠ x.nsid) ∧ ∀ j, j ≠ i → t.index j = s.index j))) ∧
    (ixHeadBad d b 1 = false →
      ((s.index i).live = false ∨ idxHeld s i = true → exec (.indexDelete h d b) s = .next (completeSt u h .sequence)) ∧
      ((s.index i).live = true → idxHeld s i = false →
        ∃ t, exec (.indexDelete h d b) s = .next t ∧ lastStatus t = some (h.sq, h.cid, .success) ∧ t.index i = Idx.none ∧
          (∀ q ∈ t.tiers.pages, q.owner ≠ .index i) ∧ (∀ n ∈ t.nvm.nss, n.nsid = (s.index i).nsid → n.index = none) ∧
          i ∉ t.mergeQ ∧ (∀ m, t.merge = some m → m.idx ≠ i) ∧ ∀ j, j ≠ i → t.index j = s.index j)) ∧
    (ixHeadBad d b 5 = false → ixF b 0x07 1 ≤ 50 → (s.index i).live = false → exec (.indexSetShare h d b) s = .next (completeSt u h .sequence)) ∧
    (ixHeadBad d b 5 = false → ixF b 0x07 1 ≤ 50 → (s.index i).live = true →
      exec (.indexSetShare h d b) s = .next (completeSt (u.setIndex i { s.index i with
        share := if ixF b 0x07 1 = 0 then 10 else BitVec.ofNat 8 (ixF b 0x07 1) }) h .success))) ∧
  (∀ (s : State) (h : Hdr) (d : Dw) (b : Bytes), accepts s h .prog = true →
    let u := (s.fetchSeq h)
    let i := ixNo b
    let x := s.index i
    let n := ixF b 0x1C 4
    let lsc := ixF b 0x22 1 == 1
    let st := readStage s x (srcArea s b).1 (ixF b 0x28 8) n (ixF b 0x24 4) lsc
    let stop := partsEnd (ixF b 0x28 8) (srcParts x n (ixF b 0x24 4) lsc 0)
    let rows := max x.attrRows.toNat (ixF b 0x30 4 + ixF b 0x34 4)
    let at0 := (srcArea s b).1 + ixF b 0x28 8
    (ixHeadBad d b 2 = false → srcFieldsBad b = false → ixF b 0x22 1 < 2 → n ≠ 0 →
      (x.live = false → exec (.indexStageCentroids h d b) s = .next (completeSt u h .sequence)) ∧
      (x.live = true → n ≤ x.ncentCap.toNat → stop ≤ (srcArea s b).2 → srcBusy u b = true →
        exec (.indexStageCentroids h d b) s = .next (park u (.indexStageCentroids h d b))) ∧
      (∀ s2, x.live = true → n ≤ x.ncentCap.toNat → stop ≤ (srcArea s b).2 → srcBusy u b = false → retBad n st.ret = false → s.nvm.readOnly = false →
        touchRanges u [((srcArea s b).1 + ixF b 0x28 8, (srcArea s b).1 + stop)] = some s2 →
        exec (.indexStageCentroids h d b) s = .next (completeSt (s2.setIndex i { x with stage := some st }) h .success))) ∧
    (ixHeadBad d b 3 = false → srcFieldsBad b = false → ixF b 0x30 4 + ixF b 0x34 4 ≤ 0xFFFFFFFE → x.live = false →
      exec (.indexStageAttributes h d b) s = .next (completeSt u h .sequence)) ∧
    (ixHeadBad d b 3 = false → srcFieldsBad b = false → ixF b 0x30 4 + ixF b 0x34 4 ≤ 0xFFFFFFFE → x.live = true →
      ixF b 0x28 8 + ixF b 0x34 4 * x.attrWidth.toNat ≤ (srcArea s b).2 → s.nvm.readOnly = false →
      (srcBusy u b = true → exec (.indexStageAttributes h d b) s = .next (park u (.indexStageAttributes h d b))) ∧
      (srcBusy u b = false → growAttrs u i rows = none → exec (.indexStageAttributes h d b) s = .next (completeSt u h .noMemory)) ∧
      (∀ s2 s3, srcBusy u b = false → growAttrs u i rows = some s2 →
        touchRanges s2 ((at0, at0 + ixF b 0x34 4 * x.attrWidth.toNat) :: (if (s2.index i).attrAddr = x.attrAddr then [] else
          [((s2.index i).attrAddr.toNat, (s2.index i).attrAddr.toNat + x.attrRows.toNat * x.attrWidth.toNat)])) = some s3 →
        ∃ t, exec (.indexStageAttributes h d b) s = .next t ∧ lastStatus t = some (h.sq, h.cid, .success) ∧
          (t.index i).attrRows = BitVec.ofNat 32 rows ∧ (t.index i).gens = x.gens ∧ (t.index i).cur = x.cur ∧
          (t.index i).brood = x.brood ∧
          (t.index i).attrStage = overRows x.attrStage (readAttrs s x at0 (ixF b 0x30 4) (ixF b 0x34 4)) ∧
          x.attrRows.toNat ≤ (t.index i).attrRows.toNat)) ∧
    (ixHeadBad d b 4 = false → s.nvm.readOnly = false →
      (x.live = false → exec (.indexMerge h d b) s = .next (completeSt u h .sequence)) ∧
      (x.live = true → exec (.indexMerge h d b) s = .next (completeSt (queueMerge u i) h .success) ∧ i ∈ (queueMerge u i).mergeQ)))

/-- What a brood merge takes at its start and what the generation change leaves. With no merge running, the first queued
one starts with the brood head as its limit and the stagings taken from the index. The generation change waits while
a step holds a view on the record to be overwritten, or what the merge reads and writes has no frames, no room in
the data pool or a block under reset (R27, R267, R366); else it makes the other record current, with the next
generation number, the limit as its base, every live insert up to the limit in a list of a live centroid with its
identifier and full vector, while the record of the previous generation stays as it was and no other index changes.
When the mirror of an index is durable up to a number, BSEQ_DURABLE is that number, at most the head, and a context
that waits for durability goes on once its entries are covered. Without running firmware or 12 V, and the last two
while a forager is under reset, none of this happens (R27, R64, R234, R253 to R255). -/
def Obligations.MergesAndGenerations : Prop :=
  ∀ (s : State),
    (∀ i rest, s.merge = none → s.mergeQ = i :: rest → s.nvm.readOnly = false → firmwareOn s = true →
      ∃ t m, exec .broodMergeStart s = .next t ∧ t.merge = some m ∧ t.mergeQ = rest ∧ m.idx = i ∧ m.limit = (s.index i).head ∧
        m.stage = (s.index i).stage ∧ m.attrs = (s.index i).attrStage ∧ (t.index i).stage = none ∧ (t.index i).attrStage = [] ∧
        (t.index i).gens = (s.index i).gens ∧ (t.index i).brood = (s.index i).brood ∧ t.tiers = s.tiers) ∧
    (s.merge ≠ none ∨ s.mergeQ = [] ∨ firmwareOn s = false → exec .broodMergeStart s = .next s) ∧
    (firmwareOn s = false ∨ flashDown s = true → exec .generationChange s = .next s ∧
      ∀ (i : IdxId) (n : BitVec 64), exec (.broodMirrorDurable i n) s = .next s) ∧
    (∀ m, s.merge = some m →
      let x := s.index m.idx
      let g := x.gens[x.cur]
      (recordHeld s m.idx (x.cur + 1) = true → exec .generationChange s = .next s) ∧
      (recordHeld s m.idx (x.cur + 1) = false → mergeDone s m = none → exec .generationChange s = .next s) ∧
      (recordHeld s m.idx (x.cur + 1) = false → firmwareOn s = true → flashDown s = false → (mergeDone s m).isSome = true →
        ∃ t, exec .generationChange s = .next t ∧ t.merge = none ∧ (t.index m.idx).cur = x.cur + 1 ∧
          (t.index m.idx).gens[x.cur] = g ∧
          let y := (t.index m.idx).gens[(t.index m.idx).cur]
          y.gen = g.gen + 1 ∧ y.sbase = m.limit ∧ y.valid = true ∧ (∀ j, j ≠ m.idx → t.index j = s.index j) ∧
          (formLive (formRows s x g m.stage) ≠ [] →
            ∀ e ∈ liveBrood (absorbed x m),
              ∃ l ∈ y.lists, l.cent ∈ formLive (formRows s x g m.stage) ∧ ∃ q ∈ l.ents, q.id = e.id ∧ q.full = e.vec ∧ q.handle = e.handle))) ∧
    ∀ (i : IdxId) (n : BitVec 64), firmwareOn s = true → flashDown s = false → (s.index i).live = true → (s.index i).durable.toNat < min n.toNat (s.index i).head.toNat →
      ∃ t, exec (.broodMirrorDurable i n) s = .next t ∧ (t.index i).durable.toNat = min n.toNat (s.index i).head.toNat ∧
        (t.index i).head = (s.index i).head ∧
        ∀ c, (s.ctx c).st = .blocked → (s.ctx c).wait = .fence → allDurable t (s.ctx c) = true → (t.ctx c).wait = .none

/-- What Fabric Management and a write of FAB_NODE do to the fabric's state. From the management port, with well-formed
fields: SET_NODE_ID outside a hive stores the node ID and AUTO; JOIN_HIVE of a drive with an identity and outside a
hive puts it in state Joining with that hive and hive context; LEAVE_HIVE puts it in state 0 with no hive, schedule,
round work, adopted node ID or lent frame, every lease it held in Tier X marked lost; each in the wrong state
completes with the state-sequence status and no other effect. ROUTE_ENTRY replaces the node's entry, FABRIC_SETTINGS
the VLAN and priorities. A write of FAB_NODE sets the fields whose bytes are enabled outside a hive and nothing in
one. From a live port that R430 does not name it is counted in DENY and does nothing else; a supervisor's that the
latch fences is counted in FENCED and does nothing else; an inert port's does nothing. -/
def Obligations.FabricManagement : Prop :=
  ∀ (s : State) (h : Hdr) (d : Dw), accepts s h .fabric = true → h.port = .management →
    let u := (s.fetchSeq h)
    (fabHeadBad d 0 = false → d.d12 = 0 → dwB d.d11 31 13 = 0 →
      (inHive s = true → exec (.setNodeId h d) s = .next (completeSt u h .sequence)) ∧
      (inHive s = false →
        ∃ t, exec (.setNodeId h d) s = .next t ∧ lastStatus t = some (h.sq, h.cid, .success) ∧
          t.fab = { s.fab with node := BitVec.ofNat 12 (dwB d.d11 11 0), auto := dwB d.d11 12 12 == 1, set := true } ∧
          (s.rst.trimv = true → s.host.ps ≠ 4 → t.pins.sending = Vector.replicate 8 true))) ∧
    (fabHeadBad d 1 = false → dwB d.d11 31 16 = 0 → dwB d.d11 15 0 ≠ 0 → dwB d.d12 31 6 = 0 →
      let c : CtxId := Fin.ofNat 64 (dwB d.d12 5 0)
      ((s.ctx c).st = .free → exec (.joinHive h d) s = .next (completeSt u h .invalidField)) ∧
      ((s.ctx c).st ≠ .free → (inHive s = true ∨ s.fab.set = false) → exec (.joinHive h d) s = .next (completeSt u h .sequence)) ∧
      ((s.ctx c).st ≠ .free → inHive s = false → s.fab.set = true →
        exec (.joinHive h d) s = .next (completeSt { u with fab := { s.fab with
          hive := BitVec.ofNat 16 (dwB d.d11 15 0), st := .joining, hiveCtx := some c, epoch := 0, heard := 0, anns := [], pows := [] } } h .success))) ∧
    (fabHeadBad d 2 = false → d.d11 = 0 → d.d12 = 0 →
      (inHive s = false → exec (.leaveHive h d) s = .next (completeSt u h .sequence)) ∧
      (inHive s = true →
        ∃ t, exec (.leaveHive h d) s = .next t ∧ lastStatus t = some (h.sq, h.cid, .success) ∧ t.fab.hive = 0 ∧ t.fab.st = .noHive ∧
          t.fab.sched = none ∧ t.fab.pend = none ∧ t.fab.hiveCtx = none ∧ t.fab.slots = [] ∧ t.fab.lent = [] ∧ t.fab.bulk = [] ∧
          t.fab.node = (if s.fab.auto then 0 else s.fab.node) ∧ t.fab.routes = s.fab.routes ∧
          ∀ l ∈ t.fab.leases, l.granted = true → l.window < 48 → l.lost = true)) ∧
    (∀ data : Bytes, fabHeadBad d 4 = false → d.d11 = 0 → d.d12 = 0 → data.length = 16 → fieldAt data 0 2 < 4096 →
      fieldAt data 2 1 < 8 → fieldAt data 3 1 = 0 →
      exec (.routeEntry h d data) s = .next (completeSt (putRoute u (routeOf data)) h .success) ∧
        (putRoute u (routeOf data)).fab.routes.find? (fun q => q.node == (routeOf data).node) = some (routeOf data)) ∧
    (fabHeadBad d 5 = false → d.d12 = 0 → dwB d.d11 15 12 = 0 →
      exec (.fabricSettings h d) s = .next (completeSt { u with fab := { s.fab with
        vid := BitVec.ofNat 12 (dwB d.d11 11 0), gprio := BitVec.ofNat 8 (dwB d.d11 23 16), prio := BitVec.ofNat 8 (dwB d.d11 31 24) } } h .success)) ∧
    ∀ (p : Port) (v : BitVec 64) (be : BitVec 8), regsLive s = true →
      let writes : Prop := (reaches s p = true ∧ mayWrite s .fabric p = true) ∨ ∃ n e, p = .supervisor n e ∧ fenceOk s n e = true
      (reaches s p = true → mayWrite s .fabric p = false → exec (.fabNodeWrite p v be) s = .next (countDeny s)) ∧
      (∀ n e, p = .supervisor n e → fenceOk s n e = false → exec (.fabNodeWrite p v be) s = .next (countFenced s)) ∧
      (reaches s p = false → (∀ n e, p ≠ .supervisor n e) → exec (.fabNodeWrite p v be) s = .next s) ∧
      (writes → inHive s = true → exec (.fabNodeWrite p v be) s = .next s) ∧
      (writes → inHive s = false →
        ∃ t, exec (.fabNodeWrite p v be) s = .next t ∧
          t.fab.node = (if wholly be 0 1 then v.truncate 12 else s.fab.node) ∧
          t.fab.auto = (if wholly be 1 1 then v.getLsbD 12 else s.fab.auto) ∧
          t.fab.prio = (if wholly be 2 2 then v.extractLsb' 16 8 else s.fab.prio) ∧ t.fab.hive = s.fab.hive ∧ t.fab.routes = s.fab.routes)

/-- The pieces of a schedule, in order or not. A schedule piece that is not the next one at its offset, or that is not
the last and does not carry 4,096 bytes, or that names another total length than the pieces held, completes with
Invalid Field in Command and leaves no piece held; that a piece of another total length counts as out of order is
the model's choice (log entry 31). A piece in order short of the total length is held and completes with success.
The piece that ends at the total length brings R344: an adoptable table is adopted, which newestSched then names,
and the completion is success; one that is not completes with Invalid Field in Command; neither leaves a piece held. -/
def Obligations.SchedulePieces : Prop :=
  ∀ (s : State) (h : Hdr) (d : Dw) (data : Bytes), accepts s h .fabric = true → h.port = .management → fabHeadBad d 3 = false →
    0 < data.length → data.length ≤ 4096 →
    let u := (s.fetchSeq h)
    let stop := d.d11.toNat + data.length
    let inOrder := d.d11.toNat = s.fab.stg.length ∧ stop ≤ d.d12.toNat ∧ (data.length = 4096 ∨ stop = d.d12.toNat) ∧
      (s.fab.stg = [] ∨ d.d12.toNat = s.fab.stgTotal)
    (¬ inOrder → exec (.schedulePiece h d data) s = .next (completeSt (dropPieces u) h .invalidField) ∧ (dropPieces u).fab.stg = []) ∧
    (inOrder → stop < d.d12.toNat →
      exec (.schedulePiece h d data) s =
        .next (completeSt { u with fab := { s.fab with stg := s.fab.stg ++ data, stgTotal := d.d12.toNat } } h .success)) ∧
    (inOrder → stop = d.d12.toNat →
      ∃ t, exec (.schedulePiece h d data) s = .next t ∧ t.fab.stg = [] ∧
        (adoptable s (s.fab.stg ++ data) = true →
          lastStatus t = some (h.sq, h.cid, .success) ∧ newestSched t = some (schedOf (s.fab.stg ++ data))) ∧
        (adoptable s (s.fab.stg ++ data) = false →
          lastStatus t = some (h.sq, h.cid, .invalidField) ∧ t.fab.sched = s.fab.sched ∧ t.fab.pend = s.fab.pend))

/-- What the writing and reading commands of the NVM set do to the blocks of their range. A WRITE, WRITE_ZEROES or
WRITE_UNCORRECTABLE that passes its namespace checks, may start under the range locks and finds room, leaves every
block of its range with its own data, zeros, or as uncorrectable, and every other block as it was; it completes with
success at once, unless it forces the medium. READ completes with the data of its blocks as they are once read and
COMPARE with success where they equal the host's and Compare Failure where not; both leave every block as it was.
Where a block cannot be read, either completes with Unrecovered Read Error and one more error is counted. A failed
check completes with its status, frees what the command held of the range-lock table, and does nothing else. Losses
by whole flash block are the model's choice (log entry 15). -/
def Obligations.NvmWritesAndReads : Prop :=
  ∀ (s : State) (h : Hdr) (nsid : BitVec 32) (lba : BitVec 64) (nlb : BitVec 16) (o : NvmOpt) (data : Bytes), accepts s h .data = true →
    (hasEntry s h = true ∨ locksUsed s < 1024) →
    let u := if s.replay && hasEntry s h then s else s.tickSeq
    let n := nlb.toNat + 1
    let key (i : Nat) : BlkKey := { nsid := nsid, lba := BitVec.ofNat 64 (lba.toNat + i) }
    let starts (wr : Bool) : Prop := (takeLock u (lockOf h) (newLock h nsid lba.toNat n wr o.ord)).2 = true ∧ (o.ord = false ∨ queueQuiet u h = true)
    let wrote (i : Instr) (vals : List BlkVal) : Prop :=
      ∃ t, exec i s = .next t ∧ (∀ j, j < n → (blkCopy t (key j)).val = vals.getD j zeroBlock) ∧
        (∀ k : BlkKey, (∀ j, j < n → key j ≠ k) → blkCopy t k = blkCopy s k) ∧
        (o.fua = false → forceMedium s = false → lastStatus t = some (h.sq, h.cid, .success)) ∧
        (o.fua = true ∨ forceMedium s = true → t.out.cpls = s.out.cpls) ∧ t.tiers = s.tiers ∧ t.ctxs = s.ctxs ∧ t.idxs = s.idxs ∧ t.nvm.nss = s.nvm.nss
    (nsBad s nsid lba.toNat n = none → protected' s = false → starts true → entersReadOnly s n = false → writeWaits s n = false →
      lba.toNat + n ≤ 2 ^ 64 → s.nvm.dseq.toNat + 1 < 2 ^ 64 → (∀ k, ∀ c ∈ copiesOf s k, c.dseq ≤ s.nvm.dseq.toNat) →
      (n ≤ 256 → wrote (.write h nsid lba nlb o data) (splitBlocks n data)) ∧
      wrote (.writeZeroes h nsid lba nlb o) (List.replicate n zeroBlock) ∧
      wrote (.writeUncorrectable h nsid lba nlb o) (List.replicate n .uncorrectable)) ∧
    (nsBad s nsid lba.toNat n = none → starts false → n ≤ 256 →
      let s1 := (takeLock u (lockOf h) (newLock h nsid lba.toNat n false o.ord)).1
      let q := readCopies s1 nsid lba.toNat n
      let l := readCopies (countRead s1 q) nsid lba.toNat n
      placesBusy s1 (q.filterMap fun q => q.place) = false →
      ((∀ q ∈ l, q.val ≠ .uncorrectable) →
        (∃ t, exec (.read h nsid lba nlb o) s = .next t ∧ t.nvm = s.nvm ∧ t.tiers = s.tiers ∧ t.ctxs = s.ctxs ∧
          t.out.cpls = { sq := h.sq, cid := h.cid, port := h.port, st := .success, dw0 := 0, dw1 := 0,
                         data := l.flatMap fun q => blkBytes q.val } :: s.out.cpls) ∧
        (∃ t, exec (.compare h nsid lba nlb o data) s = .next t ∧ t.nvm = s.nvm ∧ t.tiers = s.tiers ∧ t.ctxs = s.ctxs ∧
          lastStatus t = some (h.sq, h.cid, if (l.flatMap fun q => blkBytes q.val) = data then .success else .compareFailure))) ∧
      ((∃ q ∈ l, q.val = .uncorrectable) → ∀ i ∈ [Instr.read h nsid lba nlb o, .compare h nsid lba nlb o data],
        ∃ t, exec i s = .next t ∧ lastStatus t = some (h.sq, h.cid, .unrecovered) ∧ t.media.dataErr = satInc s.media.dataErr ∧ t.nvm = s.nvm)) ∧
    ∀ st, nsBad s nsid lba.toNat n = some st → n ≤ 256 →
      ∀ i ∈ [Instr.write h nsid lba nlb o data, .writeZeroes h nsid lba nlb o, .writeUncorrectable h nsid lba nlb o,
        .read h nsid lba nlb o, .compare h nsid lba nlb o data], exec i s = .next (completeSt (freeLocks u (lockOf h)) h st)

/-- Dataset Management, FLUSH, the write cache's programs and the release of range locks. DATASET_MANAGEMENT with the
deallocate attribute that may start leaves every block of its ranges reading as zeros and completes with success;
without the attribute it changes no block. FLUSH completes at once where nothing cached belongs to its namespaces,
and else waits for the writes then cached. When a cached write is on the medium, no forager being under reset, its
entry has left the cache, every block of it lies on the medium with its value and number, no flush waits for it, and
a write that waited for the medium completes. RANGE_LOCK_RELEASE frees the marked entries, and what waited for one
is tried again. Field codes of the base specification, the attribute bit among them, are the model's (log entry 9). -/
def Obligations.DeallocateFlushAndCache : Prop :=
  ∀ (s : State) (h : Hdr) (nsid : BitVec 32) (d : Dw) (ranges : List (BitVec 64 × BitVec 32)),
    let u := (s.fetchSeq h)
    let v := if s.replay && hasEntry s h then s else s.tickSeq
    let k := hull ranges
    let ad := dwB d.d11 2 2 == 1
    let ord := dwB d.d13 15 15 == 1
    (accepts s h .data = true → (hasEntry s h = true ∨ locksUsed s < 1024) → nsBad s nsid 0 0 = none → dsmFieldsBad d ranges = false → nsBad s nsid 0 k.2 = none → (ad && protected' s) = false →
      (takeLock v (lockOf h) (newLock h nsid k.1 (k.2 - k.1) ad ord)).2 = true → (ord = false ∨ queueQuiet v h = true) →
      ∃ t, exec (.datasetManagement h nsid d ranges) s = .next t ∧ lastStatus t = some (h.sq, h.cid, .success) ∧
        (ad = false → t.nvm = s.nvm) ∧ t.tiers = s.tiers ∧
        (ad = true → s.nvm.dseq.toNat + 1 < 2 ^ 64 → (∀ k, ∀ c ∈ copiesOf s k, c.dseq ≤ s.nvm.dseq.toNat) →
          ∀ p ∈ ranges, ∀ a : BitVec 64, p.1.toNat ≤ a.toNat → a.toNat < p.1.toNat + p.2.toNat →
            (blkCopy t { nsid := nsid, lba := a }).val = zeroBlock)) ∧
    (accepts s h .data = true → d.d10 = 0 → d.d11 = 0 → d.d12 = 0 → d.d13 = 0 → d.d14 = 0 → d.d15 = 0 →
      namesIndex s h nsid = false → (nsid = BitVec.allOnes 32 ∨ nsBad s nsid 0 0 = none) →
      let need := (s.nvm.cache.filter fun e => flushNames nsid e.nsid && e.wait.isNone).map fun e => e.dseq
      (need = [] → exec (.flush h nsid d) s = .next (completeSt u h .success)) ∧
      (need ≠ [] → exec (.flush h nsid d) s =
        .next { u with nvm := { u.nvm with flushes := u.nvm.flushes ++ [{ sq := h.sq, cid := h.cid, need := need }] } })) ∧
    (∀ (q : BitVec 64) (e : CEnt) (s1 : State), s.nvm.cache.find? (fun x => x.dseq == q) = some e → flashDown s = false → programEnt s e = some s1 →
      ∃ t, exec (.writeCacheProgramComplete q) s = .next t ∧ (∀ x ∈ t.nvm.cache, x.dseq ≠ q) ∧
        (∀ p ∈ entBlocks e, ∃ b ∈ t.nvm.blocks, b.key = p.1 ∧ b.val = p.2 ∧ b.dseq = q) ∧
        (∀ f ∈ t.nvm.flushes, f.need ≠ [] ∧ q ∉ f.need) ∧
        ∀ w, e.wait = some w → ∃ x ∈ t.out.cpls, x.sq = w.1 ∧ x.cid = w.2 ∧ x.st = .success) ∧
    ∃ t, exec .rangeLockRelease s = .next t ∧ (∀ l ∈ t.host.locks, l ∈ s.host.locks ∧ l.done = false) ∧
      (asleep s = false → t.ready = s.parked ++ s.ready ∧ t.parked = []) ∧
      ∀ c, (s.ctx c).st = .blocked → (s.ctx c).wait = .lock → (t.ctx c).wait = .none

/-- What Identify, Get Log Page, Get Features and in-band NVMe-MI return. Identify Controller completes with a page that
holds the model number at byte 24 and the vendor area at byte 3072; Identify Namespace of an attached namespace
without an index with its page, whose first field is its size; the list of active namespaces with the namespace
list; a CNS beyond 0x1F with Invalid Field. A namespace that holds an index is refused. Get Log Page completes with
the page's bytes, and with Invalid Field for a page the drive does not have and for more than 1 MiB; reading clears
no log, ring, monitor or counter; the event log page starts with its count and overflow. Get Features completes with
the present or default value. A Send leaves a response that a Receive returns and removes. Field codes of the base
specification and bytes of its layouts that the spec does not give are the model's (log entry 9). -/
def Obligations.InformationCommands : Prop :=
  ∀ (s : State) (h : Hdr) (nsid : BitVec 32) (d : Dw), accepts s h .info = true →
    let u := (s.fetchSeq h)
    (exec (.identify h nsid 1) s = .next (complete u h .success 0 0 (identifyCtrl u)) ∧
      bytesAt (identifyCtrl u) 24 40 = modelNumber s ∧ bytesAt (identifyCtrl u) 3072 1024 = vendorArea s) ∧
    (∀ n, findNs s nsid.toNat = some n → 1 ≤ nsid.toNat → nsid.toNat ≤ 66 → n.attached = true →
      (namesIndex s h nsid = true → exec (.identify h nsid 0) s = .next (completeSt u h .indexNamespace)) ∧
      (namesIndex s h nsid = false →
        exec (.identify h nsid 0) s = .next (complete u h .success 0 0 (identifyNs u n)) ∧ fieldAt (identifyNs u n) 0 8 = n.size % 2 ^ 64)) ∧
    exec (.identify h nsid 2) s = .next (complete u h .success 0 0 (nsList nsid (activeNs s))) ∧
    (∀ cns : BitVec 8, 0x20 ≤ cns.toNat → exec (.identify h nsid cns) s = .next (completeSt u h .invalidField)) ∧
    (∀ (lid : BitVec 8) (lsi : BitVec 16) (rae : Bool) (off : BitVec 64) (len : BitVec 32),
      (pageAt u lid lsi off.toNat len.toNat = none → exec (.getLogPage h lid lsi rae off len) s = .next (completeSt u h .invalidField)) ∧
      (1048576 < len.toNat → exec (.getLogPage h lid lsi rae off len) s = .next (completeSt u h .invalidField)) ∧
      (∀ b, pageAt u lid lsi off.toNat len.toNat = some b → len.toNat ≤ 1048576 →
        ∃ t x, exec (.getLogPage h lid lsi rae off len) s = .next t ∧ x ∈ t.out.cpls ∧ x.sq = h.sq ∧ x.cid = h.cid ∧ x.st = .success ∧
          x.data = b ∧ t.log = s.log ∧ t.ctxs = s.ctxs ∧ t.media = s.media ∧ t.nvm = s.nvm ∧ t.fw = s.fw)) ∧
    (logOk s → fieldAt (logPage u) 0 4 = s.log.ents.length ∧ fieldAt (logPage u) 4 4 = s.log.ovf.toNat) ∧
    (∀ v, featValue u d (dwB d.d10 10 8 != 0) = some v → featBad d 11 = false → getBad d = false → dwB d.d10 10 8 < 3 →
      exec (.getFeatures h d) s = .next (complete (u.draw 1) h .success (BitVec.ofNat 32 v.1) 0 v.2)) ∧
    (∀ data : Bytes, d.d14 = 0 → d.d15 = 0 → ∃ t, exec (.nvmeMiSend h d data) s = .next t ∧ lastStatus t = some (h.sq, h.cid, .success) ∧ t.host.miResp ≠ []) ∧
    (d.d14 = 0 → d.d15 = 0 → s.host.miResp ≠ [] → ∃ t, exec (.nvmeMiReceive h d) s = .next t ∧ t.host.miResp = [] ∧
      (t.out.cpls.head?.map fun x => (x.cid, x.st, x.data)) = some (h.cid, .success, s.host.miResp))

/-- What the Set Features commands set. With no reserved bit set: Power Management (feature 2) with state 0 to 2 selects
that state at once, with 3 or 4 starts entry when nothing is outstanding and else stays in the operational state;
Idle Fallback, Autonomous Power State Transition, Volatile Write Cache and Temperature Threshold store the values
given, the last for one temperature or, with 15, for all; Power Limit, from a port of its class, stores 0 as 0,
values from 1 to 303 as 304 and values above 1,920 as 1,920. Each completes with success and changes nothing else. A
power state above 4 completes with Invalid Field and nothing else. Of the features without a row of their own, event
configuration and the base specification's others that the drive has store their value, and one that the drive does
not have completes with Invalid Field and nothing else. Field places of the base specification are the model's (log
entry 9). -/
def Obligations.FeatureCommands : Prop :=
  ∀ (s : State) (h : Hdr) (d : Dw), setBad d = false →
    let u := (s.fetchSeq h)
    let k := BitVec.ofNat 16 (dwB d.d11 15 0)
    let i := dwB d.d11 19 16
    (accepts s h .queues = true →
      (dwB d.d10 7 0 = 0x0B → exec (.setFeaturesPowerManagement h d) s =
        .next (completeSt { u with host := { u.host with aecfg := d.d11 } } h .success)) ∧
      (0x0C < dwB d.d10 7 0 → exec (.setFeaturesPowerManagement h d) s = .next (completeSt u h .invalidField)) ∧
      (dwB d.d10 7 0 = 2 → dwB d.d11 31 8 = 0 → ∃ t, exec (.setFeaturesPowerManagement h d) s = .next t ∧
        (4 < dwB d.d11 4 0 → t = completeSt u h .invalidField) ∧
        (dwB d.d11 4 0 < 3 → t = completeSt { u with host := { u.host with ps := BitVec.ofNat 3 (dwB d.d11 4 0), wish := none } } h .success) ∧
        (3 ≤ dwB d.d11 4 0 → dwB d.d11 4 0 ≤ 4 →
          t = completeSt { u with host := { u.host with entry := t.host.entry, wish := t.host.wish } } h .success ∧
          (quiet u = true → t.host.entry = some (BitVec.ofNat 3 (dwB d.d11 4 0))) ∧
          (quiet u = false → t.host.entry = s.host.entry ∧ t.host.wish = some (BitVec.ofNat 3 (dwB d.d11 4 0))))) ∧
      exec (.setFeaturesIdleFallback h d) s =
        .next (completeSt { u with host := { u.host with idle3 := k, idle4 := BitVec.ofNat 16 (dwB d.d11 31 16) } } h .success) ∧
      (∀ r, plainRsv (dwB d.d10 7 0) = some r → vectorBad u d = false → exec (.setFeaturesPowerManagement h d) s =
        .next (if d.d11 &&& r = 0 then completeSt { u with host := { u.host with
            feats := u.host.feats.filter (fun q => q.1 != plainKey d) ++ [(plainKey d, d.d11)] } } h .success
          else completeSt u h .invalidField)) ∧
      (dwB d.d11 31 1 = 0 → (∀ table : Bytes, apstBad table = false → exec (.setFeaturesAutonomousPst h d table) s =
          .next (completeSt { u with host := { u.host with apst := d.d11.getLsbD 0, apstTab := table } } h .success)) ∧
        exec (.setFeaturesVolatileWriteCache h d) s = .next (completeSt { u with host := { u.host with vwc := d.d11.getLsbD 0 } } h .success)) ∧
      (dwB d.d11 31 22 = 0 → dwB d.d11 21 20 ≤ 1 → (i ≤ 8 ∨ i = 15) →
        ∃ t, exec (.setFeaturesTemperatureThreshold h d) s = .next t ∧
          t = completeSt { u with host := { u.host with overT := t.host.overT, underT := t.host.underT } } h .success ∧
          ∀ j : Fin 9, (t.host.overT[j] = if dwB d.d11 21 20 = 0 ∧ (i = 15 ∨ i = j.val) then k else s.host.overT[j]) ∧
            (t.host.underT[j] = if dwB d.d11 21 20 = 1 ∧ (i = 15 ∨ i = j.val) then k else s.host.underT[j]))) ∧
    (accepts s h .power = true → dwB d.d11 31 16 = 0 →
      ∃ t, exec (.setFeaturesPowerLimit h d) s = .next t ∧ t = completeSt { u with tel := t.tel } h .success ∧
        t.tel = { s.tel with written := t.tel.written } ∧
        t.tel.written.toNat = if k = 0 then 0 else if k.toNat < 304 then 304 else if 1920 < k.toNat then 1920 else k.toNat)

/-- Creating, deleting, attaching and formatting a namespace. A creation within the free capacity makes the lowest free
namespace ID of 1 to 64, detached, of the size asked for, and returns the ID; beyond the capacity it completes with
its status and nothing else. A deletion leaves no namespace of that ID and no block of it. Attachment attaches a
detached namespace and detaches an attached one, and otherwise completes with the status that says so. Format leaves
no written block of the namespace and every block of the others. A command of the host that names a namespace
holding an index completes with Index Namespace and nothing else. Field places of the base specification, the status
of a waiting write, and the lowest free ID are the model's (log entries 9, 16, 22). -/
def Obligations.NamespaceCommands : Prop :=
  ∀ (s : State) (h : Hdr) (nsid : BitVec 32) (d : Dw) (data : Bytes), accepts s h .queues = true →
    d.d11 = 0 → d.d12 = 0 → d.d13 = 0 → d.d14 = 0 → d.d15 = 0 →
    let u := (s.fetchSeq h)
    let sel := dwB d.d10 3 0
    let size := fieldAt data 0 8
    (sel = 0 → dwB d.d10 31 4 = 0 → nsid = 0 → size ≠ 0 → fieldAt data 8 8 = size → (data.drop 16).any (· != 0) = false →
      (freeBlocks s < size → exec (.namespaceManagement h nsid d data) s = .next (completeSt u h .nsCapacity)) ∧
      (∀ n, size ≤ freeBlocks s → freeNsid s = some n →
        ∃ t, exec (.namespaceManagement h nsid d data) s = .next t ∧ lastStatus t = some (h.sq, h.cid, .success) ∧
          (t.out.cpls.head?.map fun x => x.dw0) = some (BitVec.ofNat 32 n) ∧ 1 ≤ n ∧ n ≤ 64 ∧ findNs s n = none ∧
          t.nvm.nss = s.nvm.nss ++ [{ nsid := BitVec.ofNat 32 n, size := size, attached := false, index := none, residue := none }] ∧
          t.nvm.blocks = s.nvm.blocks)) ∧
    (sel = 1 → dwB d.d10 31 4 = 0 →
      (namesIndex s h nsid = true → exec (.namespaceManagement h nsid d data) s = .next (completeSt u h .indexNamespace)) ∧
      (namesIndex s h nsid = false → (s.nvm.nss.any fun n => n.nsid == nsid) = true →
        ∃ t, exec (.namespaceManagement h nsid d data) s = .next t ∧ lastStatus t = some (h.sq, h.cid, .success) ∧
          (∀ n ∈ t.nvm.nss, n.nsid ≠ nsid) ∧ (nsid ≠ BitVec.allOnes 32 → (∀ n ∈ s.nvm.nss, n.nsid ≠ nsid → n ∈ t.nvm.nss)) ∧
          (∀ b ∈ t.nvm.blocks, b.key.nsid ≠ nsid) ∧ ∀ e ∈ t.nvm.cache, e.nsid ≠ nsid)) ∧
    (∀ n, sel ≤ 1 → dwB d.d10 31 4 = 0 → namesIndex s h nsid = false → findNs s nsid.toNat = some n →
      (n.attached = true → sel = 0 → exec (.namespaceAttachment h nsid d) s = .next (completeSt u h .nsAttached)) ∧
      (n.attached = false → sel = 1 → exec (.namespaceAttachment h nsid d) s = .next (completeSt u h .nsNotAttached)) ∧
      (n.attached = decide (sel = 1) →
        ∃ t, exec (.namespaceAttachment h nsid d) s = .next t ∧ lastStatus t = some (h.sq, h.cid, .success) ∧
          findNs t nsid.toNat = some { n with attached := decide (sel = 0) } ∧ t.nvm.blocks = s.nvm.blocks)) ∧
    (dwB d.d10 8 0 = 0 → dwB d.d10 11 9 ≤ 1 → dwB d.d10 31 12 = 0 → namesIndex s h nsid = false → nsid ≠ BitVec.allOnes 32 →
      (s.nvm.nss.any fun n => n.nsid == nsid) = true → s.rst.safe = false →
      ∃ t, exec (.formatNvm h nsid d) s = .next t ∧ lastStatus t = some (h.sq, h.cid, .success) ∧
        (∀ b, b ∈ t.nvm.blocks ↔ b ∈ s.nvm.blocks ∧ b.key.nsid ≠ nsid) ∧ (∀ e ∈ t.nvm.cache, e.nsid ≠ nsid) ∧
        (t.nvm.nss.map fun n => (n.nsid, n.size)) = s.nvm.nss.map fun n => (n.nsid, n.size))

/-- Staging, committing and activating a firmware image. A download stores its piece at its offset of the staged image.
A commit of action 0 or 1 of a staged image that passes its checks, to a slot that does not run and has no protected
sector, the boot records' sectors not protected either, leaves that image in the slot, the staging empty, and the
boot records naming the slot; a staged image that fails gives Invalid Firmware Image, the running slot Invalid
Firmware Slot, a protected one Firmware Activation Prohibited, each with no other effect. Action 2 leaves the
records naming the slot. Action 3 of an image whose COMPAT is the running one's, with the other supervisor running,
asks for the reset of that supervisor's block and completes later; with another COMPAT it writes the record and says
that a reset is needed. The commit's action codes and field places are the base specification's as the model takes
them, and the other supervisor's block reset is the model's reading (log entries 9, 17). -/
def Obligations.FirmwareCommands : Prop :=
  ∀ (s : State) (h : Hdr) (d : Dw), accepts s h .firmware = true →
    let u := (s.fetchSeq h)
    let act := dwB d.d10 5 3
    (∀ data : Bytes, (d.d10.toNat + 1) * 4 = data.length → d.d11.toNat * 4 + data.length ≤ 25165824 → d.d12 = 0 → d.d13 = 0 →
      d.d14 = 0 → d.d15 = 0 →
      ∃ t, exec (.firmwareImageDownload h d data) s = .next t ∧ lastStatus t = some (h.sq, h.cid, .success) ∧
        (∀ i, i < data.length → t.fw.staged[d.d11.toNat * 4 + i]? = data[i]?) ∧
        (∀ i, i < d.d11.toNat * 4 → i < s.fw.staged.length → t.fw.staged[i]? = s.fw.staged[i]?) ∧ t.bst = s.bst) ∧
    (∀ k, commitFieldsBad d = false → commitSlot u d = some k → s.rst.phase = .run →
      sectorProt s 0x3000 = false → sectorProt s 0x3001 = false →
      (act ≤ 1 →
        (k = s.fw.slot → exec (.firmwareCommit h d) s = .next (completeSt u h .invalidFwSlot)) ∧
        (k ≠ s.fw.slot → imageOk s.fw.staged = false → exec (.firmwareCommit h d) s = .next (completeSt u h .invalidFwImage)) ∧
        (k ≠ s.fw.slot → imageOk s.fw.staged = true → slotProt s k = true → exec (.firmwareCommit h d) s = .next (completeSt u h .fwProhibited)) ∧
        (k ≠ s.fw.slot → imageOk s.fw.staged = true → slotProt s k = false →
          ∃ t, exec (.firmwareCommit h d) s = .next t ∧ lastStatus t = some (h.sq, h.cid, .success) ∧ slotImage t k = stagedImage s ∧
            chosenSlot t = k ∧ t.fw.staged = [] ∧ t.fw.slot = s.fw.slot ∧ t.rst = s.rst)) ∧
      (act = 2 → k ≠ s.fw.slot → slotOk s k = true →
        ∃ t, exec (.firmwareCommit h d) s = .next t ∧ lastStatus t = some (h.sq, h.cid, .success) ∧ chosenSlot t = k ∧
          slotImage t k = slotImage s k ∧ t.fw.staged = s.fw.staged) ∧
      (∀ s1, act = 3 → s.fw.act = none → activationImage u k = (s1, none) →
        let m := s.sup.holder + 1
        (fwCompat (slotImage s1 k) = fwCompat (slotImage s1 s1.fw.slot) → (supOne s m).running = true →
          ∃ t, exec (.firmwareCommitActivate h d) s = .next t ∧ t.fw.act = some (h, k, 1) ∧ t.out.cpls = s.out.cpls ∧
            (s.rst.act = .none → t.rst.act = .idling (BitVec.ofNat 8 (0x50 + m.val)))) ∧
        (fwCompat (slotImage s1 k) ≠ fwCompat (slotImage s1 s1.fw.slot) →
          ∃ t, exec (.firmwareCommitActivate h d) s = .next t ∧ lastStatus t = some (h.sq, h.cid, .fwNeedsReset) ∧ chosenSlot t = k)))

/-- Abort says that nothing was aborted, and aborts nothing. An Abort that is taken up, with its unused dwords zero
(R400), completes with Successful Completion and a completion dword 0 of 1. Apart from that completion, and from the
sequence number that a command's fetch takes, nothing of the drive changes: every waiting, queued and running
command stays where it was. -/
def Obligations.AbortHasNoEffect : Prop :=
  ∀ (s : State) (h : Hdr) (d : Dw), accepts s h .queues = true → tailBad d = false →
    ∃ t, exec (.abort h d) s = .next t ∧
      t.out.cpls = { sq := h.sq, cid := h.cid, port := h.port, st := .success, dw0 := 1, dw1 := 0, data := [] } :: s.out.cpls ∧
      t = { s with time := t.time, out := t.out } ∧ t.time = (s.fetchSeq h).time

/-- Creating and deleting queues, asynchronous requests, and opcodes the drive does not have. Creating a submission or
completion queue with a free identifier of 1 to 128, an allowed size and, for a submission queue, an existing
completion queue, adds it; an identifier in use or out of range gives Invalid Queue Identifier. Deleting a
submission queue removes it and deletes the context bound to it; deleting a completion queue removes it unless a
submission queue uses it. A queue command changes no queue but the one it names. An Asynchronous Event Request
waits, or completes with the notification that waits, and a seventeenth completes with the limit status. An
unsupported opcode completes with Invalid Command Opcode and nothing else. Field places of the base specification
are the model's (log entry 9). -/
def Obligations.QueueCommands : Prop :=
  ∀ (s : State) (h : Hdr) (d : Dw), accepts s h .queues = true → d.d12 = 0 → d.d13 = 0 → d.d14 = 0 → d.d15 = 0 →
    let u := (s.fetchSeq h)
    let q := dwB d.d10 15 0
    let n := dwB d.d10 31 16
    let hi := dwB d.d11 31 16
    (dwB d.d11 0 0 = 1 → dwB d.d11 15 3 = 0 → cqExists s hi = true →
      (qidBad q = true ∨ sqExists s (BitVec.ofNat 16 q) = true → exec (.createIoSubmissionQueue h d) s = .next (completeSt u h .invalidQueue)) ∧
      (qidBad q = false → sqExists s (BitVec.ofNat 16 q) = false → qsizeBad n = false →
        exec (.createIoSubmissionQueue h d) s = .next (completeSt { u with host := { u.host with
          sqs := u.host.sqs ++ [{ id := BitVec.ofNat 16 q, size := n + 1, cq := BitVec.ofNat 16 hi }] } } h .success))) ∧
    (dwB d.d11 0 0 = 1 → dwB d.d11 15 2 = 0 →
      (qidBad q = true ∨ cqExists s q = true → exec (.createIoCompletionQueue h d) s = .next (completeSt u h .invalidQueue)) ∧
      (qidBad q = false → cqExists s q = false → qsizeBad n = false → hi ≤ 128 →
        exec (.createIoCompletionQueue h d) s = .next (completeSt { u with host := { u.host with
          cqs := u.host.cqs ++ [{ id := BitVec.ofNat 16 q, size := n + 1, ien := d.d11.getLsbD 1, vector := BitVec.ofNat 16 hi }] } } h .success))) ∧
    (n = 0 → d.d11 = 0 →
      (q ≠ 0 → sqExists s (BitVec.ofNat 16 q) = true →
        ∃ t, exec (.deleteIoSubmissionQueue h d) s = .next t ∧ lastStatus t = some (h.sq, h.cid, .success) ∧
          t.host.sqs = s.host.sqs.filter (fun x => x.id != BitVec.ofNat 16 q) ∧ t.host.cqs = s.host.cqs ∧
          ∀ c, ctxOfSq s (BitVec.ofNat 16 q) = some c → t.ctx c = Ctx.free) ∧
      (cqExists s q = true →
        ((s.host.sqs.any fun x => x.cq.toNat == q) = true → exec (.deleteIoCompletionQueue h d) s = .next (completeSt u h .invalidQueueDel)) ∧
        ((s.host.sqs.any fun x => x.cq.toNat == q) = false → exec (.deleteIoCompletionQueue h d) s =
          .next (completeSt { u with host := { u.host with cqs := u.host.cqs.filter fun x => x.id.toNat != q } } h .success)))) ∧
    (s.host.notes = [] → s.host.aers.length < 16 →
      exec (.asynchronousEventRequest h) s = .next { u with host := { u.host with aers := u.host.aers ++ [h.cid] } }) ∧
    (∀ w, s.host.notes = [w] → noteLid w ∉ s.host.masked → s.host.aers = [] →
      ∃ t, exec (.asynchronousEventRequest h) s = .next t ∧ lastStatus t = some (0, h.cid, .success) ∧
        (t.out.cpls.head?.map fun x => x.dw0) = some w ∧ t.host.notes = []) ∧
    (16 ≤ s.host.aers.length → exec (.asynchronousEventRequest h) s = .next (completeSt u h .aerLimit)) ∧
    ∀ opc, accepts s h .info = true → exec (.unsupportedOpcode h opc) s = .next (completeSt u h .invalidOpcode)

/-- What the Subsystem Local Memory commands read and write. A Memory Read of a range of allocated working areas, with
no step of their contexts in progress, frames for its pages and no poison, completes with the bytes of device memory
there; with poison it completes with Unrecovered Read Error and one more error is counted. A Memory Write of such a
range leaves the range holding its data, and every other byte as it was, and clears the poison of the code pages it
covers whole. A range outside the working areas completes with Invalid Field, a namespace other than 65 and 66 with
Invalid Namespace, in both cases with no other effect; in safe mode a write is refused. Range set management creates
a set under the lowest free identifier, which it returns, while fewer than 64 stand, and deletes one. The memory
namespaces' field places and the lowest free range set identifier are the model's (log entries 9, 22). -/
def Obligations.MemoryCommands : Prop :=
  ∀ (s : State) (h : Hdr) (nsid : BitVec 32) (addr : BitVec 64) (len : BitVec 32) (data : Bytes) (d : Dw) (sets : List MemRange),
    accepts s h .data = true →
    let u := (s.fetchSeq h)
    (nsid ≠ 65 → nsid ≠ 66 → exec (.memoryRead h nsid addr len) s = .next (completeSt u h .invalidNs) ∧
      (s.rst.safe = false → exec (.memoryWrite h nsid addr data) s = .next (completeSt u h .invalidNs))) ∧
    (nsid = 65 ∨ nsid = 66 →
      (memRange s nsid.toNat addr.toNat len.toNat = none → exec (.memoryRead h nsid addr len) s = .next (completeSt u h .invalidField)) ∧
      (memRange s nsid.toNat addr.toNat data.length = none → s.rst.safe = false →
        exec (.memoryWrite h nsid addr data) s = .next (completeSt u h .invalidField)) ∧
      (∀ r s1, memRange s nsid.toNat addr.toNat len.toNat = some r → workBusy s r = false → touchRanges u [r] = some s1 →
        (rangePoison s1 r = false → exec (.memoryRead h nsid addr len) s =
          .next (complete s1 h .success 0 0 (memGets s.tiers.mem r.1 len.toNat))) ∧
        (rangePoison s1 r = true → exec (.memoryRead h nsid addr len) s =
          .next (completeSt { s1 with media := { s1.media with dataErr := satInc s1.media.dataErr } } h .unrecovered))) ∧
      (∀ r s1, memRange s nsid.toNat addr.toNat data.length = some r → workBusy s r = false → touchRanges u [r] = some s1 → s.rst.safe = false →
        ∃ t, exec (.memoryWrite h nsid addr data) s = .next t ∧ lastStatus t = some (h.sq, h.cid, .success) ∧
          memGets t.tiers.mem r.1 data.length = data ∧
          (∀ a, a < r.1 ∨ r.1 + data.length ≤ a → memGet t.tiers.mem a = memGet s.tiers.mem a) ∧
          (∀ p ∈ t.tiers.poison, p ∈ s1.tiers.poison ∧ ¬ (r.1 ≤ p * 2048 ∧ (p + 1) * 2048 ≤ r.1 + data.length)) ∧ t.ctxs = s.ctxs)) ∧
    (s.rst.safe = true → exec (.memoryWrite h nsid addr data) s = .next (completeSt u h .writeProtected)) ∧
    (let ok := sets.all fun m => match memSpan m.nsid.toNat m.start.toNat m.len.toNat with
       | some r => inWork s r
       | none => false
     dwB d.d10 15 4 = 0 → tailBad d = false → dwB d.d10 3 0 = 0 → dwB d.d10 31 16 = 0 → sets ≠ [] → ok = true →
      (s.host.ranges.length < 64 → ∃ t, exec (.memoryRangeSetManagement h d sets) s = .next t ∧
        lastStatus t = some (h.sq, h.cid, .success) ∧ t.host.ranges = s.host.ranges ++ [(freeSet s, sets)] ∧
        (t.out.cpls.head?.map fun x => x.dw0) = some ((freeSet s).zeroExtend 32)) ∧
      (64 ≤ s.host.ranges.length → exec (.memoryRangeSetManagement h d sets) s = .next (completeSt u h .invalidField))) ∧
    (dwB d.d10 15 4 = 0 → tailBad d = false → dwB d.d10 3 0 = 1 → sets = [] → (s.host.ranges.any fun q => q.1 == BitVec.ofNat 16 (dwB d.d10 31 16)) = true →
      exec (.memoryRangeSetManagement h d sets) s = .next (completeSt { u with host := { u.host with
        ranges := u.host.ranges.filter fun q => q.1 != BitVec.ofNat 16 (dwB d.d10 31 16) } } h .success))

/-- What the management port's messages do, with and without 12 V. With the port up, 12 V present and the firmware
running, a data structure that the standard has, a health message and a configuration read answer with data, a
configuration write stores the value that a later read returns, a register read answers with the register's eight
bytes, a register write answers once the write has taken effect, a management reset answers and resets the drive
warm with its cause, and a tunnelled command that moves at most 4,096 bytes either way waits to run next; one that
moves more is refused. With 12 V absent every message but a VPD read is answered with Internal Error and has no
other effect; the VPD is read and a control message answered whenever the port has power. No message but a write, a
reset or a tunnelled command changes anything but the answer and the stamps, and a register read only what it clears
beside them. Message contents of NVMe-MI and its status codes are the model's (log entry 9). -/
def Obligations.ManagementPort : Prop :=
  ∀ (s : State) (tag : BitVec 16), miUp s = true →
    let u := s.tickSeq
    let answers (i : Instr) (f : MiResp → Prop) : Prop :=
      ∃ t x, exec i s = .next t ∧ t.out.mi = x :: s.out.mi ∧ x.tag = tag ∧ f x ∧ t = { s with time := t.time, free := t.free, out := t.out }
    (s.pins.main = true → s.rst.phase = .run →
      (∀ dt : BitVec 8, answers (.readNvmeMiDataStructure tag dt) fun x => if 4 < dt.toNat then x.code = 4 else x.code = 0 ∧ x.data.length = 32) ∧
      answers (.subsystemHealthStatusPoll tag) (fun x => x.code = 0 ∧ x.data.length = 8) ∧
      answers (.controllerHealthStatusPoll tag) (fun x => x.code = 0 ∧ x.data.length = 16) ∧
      (∀ cfg : BitVec 8, cfgOk cfg = false → answers (.configurationGet tag cfg) fun x => x.code = 4) ∧
      (∀ (cfg : BitVec 8) (v : BitVec 32), cfgOk cfg = true →
        answers (.configurationGet tag cfg) (fun x => x.code = 0 ∧ x.data.length = 4 ∧
          ((s.host.mcfg.find? fun q => q.1 == cfg) = some (cfg, v) → x.data = toLe 4 v.toNat)) ∧
        ∃ t, exec (.configurationSet tag cfg v) s = .next t ∧ (t.host.mcfg.find? fun q => q.1 == cfg) = some (cfg, v) ∧
          (∀ o, o ≠ cfg → (t.host.mcfg.find? fun q => q.1 == o) = s.host.mcfg.find? fun q => q.1 == o) ∧
          (t.out.mi.head?.map fun x => (x.tag, x.code)) = some (tag, 0)) ∧
      (∀ off len : BitVec 16, answers (.vpdRead tag off len) fun x => x.code = 0 ∧ x.data.length = len.toNat) ∧
      (∀ k, exec (.managementReset tag k) s = .next (warmReset (miPut u tag 0 []) k 0x4) ∧ (warmReset (miPut u tag 0 []) k 0x4).rst.cause = 0x4) ∧
      (∀ (off : BitVec 32) (r : RegName), off.toNat % 8 = 0 → regName off.toNat = some r →
        ∃ t, exec (.registerRead tag off) s = .next t ∧ t = { clearRc u r (BitVec.allOnes 64) with out := t.out } ∧
          t.out.mi = { tag := tag, code := 0, data := toLe 8 (regValue u r).toNat } :: s.out.mi) ∧
      ∀ (off : BitVec 32) (v : BitVec 64), exec (.registerWrite tag off v) s = .next (miPut (writeAt u .management off.toNat v 0xFF) tag 0 [])) ∧
    (∀ opc nsid d (data : Bytes), s.pins.main = true → served s = true → 
      (data.length ≤ 4096 → tunnelAsks opc d ≤ 4096 → exec (.tunnelledAdminCommand tag opc nsid d data) s =
        .next { u with ready := s.ready ++ [adminCmd (miHdr tag) opc.toNat nsid d data] }) ∧
      (4096 < data.length ∨ 4096 < tunnelAsks opc d → exec (.tunnelledAdminCommand tag opc nsid d data) s = .next (miPut s tag 4 []))) ∧
    (s.pins.main = false →
      (∀ off len : BitVec 16, answers (.vpdRead tag off len) fun x => x.code = 0 ∧ x.data.length = len.toNat) ∧
      ∀ (dt : BitVec 8) (v : BitVec 32) (w : BitVec 64) (k : Survivors) (nsid : BitVec 32) (d : Dw) (data : Bytes),
        ∀ i ∈ [Instr.readNvmeMiDataStructure tag dt, .subsystemHealthStatusPoll tag, .controllerHealthStatusPoll tag, .configurationGet tag dt,
            .configurationSet tag dt v, .managementReset tag k, .tunnelledAdminCommand tag dt nsid d data, .registerRead tag v, .registerWrite tag v w],
          exec i s = .next (miPut s tag 2 [])) ∧
    ∀ code : BitVec 8, s.pins.main = false ∨ s.rst.phase ≠ .held → answers (.mctpControlMessage tag code) fun x => x.code = 0

/-- Reading and writing the registers of the window. A read of a register by a port that may read returns its value,
clears what a read clears and nothing else, reads as zero where the map has no register, and from another port has
no effect. A write of an enabled byte of a register by a port whose class may write it has its effect; a port
without the authority, and any port's write of a supervisor's register, is counted and has no other effect; a
register that no such write changes is left alone. TEL_LIMIT takes the power limit in its stored form where both its
bytes are enabled. What a write that enables all bytes stores in CAL_SENS, CAL_RL_BIAS, CAL_EQ, BST_ADDR, BST_DATA,
BST_WAIT or TIR_XLEASE is what a read then returns, and a field of CAL_SENS with a byte not enabled keeps its value.
Reset values that the map does not give are the model's (log entry 23). -/
def Obligations.RegisterWindow : Prop :=
  ∀ (s : State) (p : Port) (off : BitVec 32) (v : BitVec 64) (be : BitVec 8), off.toNat % 8 = 0 →
    (mayRead s p = false → ∀ n, exec (.rcRegisterRead p off n) s = .next s) ∧
    (mayRead s p = true →
      (regName off.toNat = none → exec (.rcRegisterRead p off 8) s = .next (putRead s p 0)) ∧
      (∀ r, regName off.toNat = some r →
        exec (.rcRegisterRead p off 8) s = .next (putRead (clearRc s r (BitVec.allOnes 64)) p (regValue s r)) ∧
        (r = .hstDeny → regValue (clearRc s r (BitVec.allOnes 64)) r = 0) ∧
        (∀ n, r = .fgrBytes n → regValue (clearRc s r (BitVec.allOnes 64)) r = 0) ∧
        (∀ k, r = .ceOvf k → regValue (clearRc s r (BitVec.allOnes 64)) r = 0))) ∧
    ((p = .host ∨ p = .management ∨ p = .debug) → regsLive s = true → be ≠ 0 → reaches s p = true →
      ∀ r, regName off.toNat = some r →
        (supOnly r = true → exec (.bar2RegisterWrite p off v be) s = .next (countDeny s)) ∧
        (supOnly r = false → regCls r = none → exec (.bar2RegisterWrite p off v be) s = .next s) ∧
        (∀ k, supOnly r = false → regCls r = some k →
          (mayWrite s k p = false → exec (.bar2RegisterWrite p off v be) s = .next (countDeny s)) ∧
          (mayWrite s k p = true → exec (.bar2RegisterWrite p off v be) s = .next (portPut s p r v be)))) ∧
    (∀ k, wholly be 0 3 = true →
      let lap := bitsOf v 31 0
      let least := if k = (1 : Fin 3) then 3600 else 600
      (scrubOf (putLap s k v be) k).lap.toNat = (if lap = 0 then 0 else if lap < least then least else if 604800 < lap then 604800 else lap)) ∧
    (∀ r, be = BitVec.allOnes 8 →
      let back : BitVec 64 := regValue (portPut s p r v be) r
      (∀ i : Fin 96, i.val < 94 → r = .calSens i → back = v &&& 0xFFFFFFFF) ∧ (r = .rlBias 0 → back = v) ∧
      (r = .rlBias 1 → back = v &&& 0x00FFFFFFFFFFFFFF) ∧ (∀ l, r = .calEq l → back = v &&& 0xFFFFFF) ∧
      (r = .bst 0 → back = v &&& 0x3FFFFFF) ∧ (r = .bst 1 → back = v &&& 0xFFFFFFFF) ∧ (r = .bst 4 → back = v &&& 0xF) ∧
      (r = .xlease → bitsOf v 12 0 ≤ 4096 → bitsOf v 24 16 ≤ 448 → back = v &&& 0x01FF1FFF)) ∧
    (∀ i : Fin 96, i.val < 94 →
      (wholly be 0 1 = false → (portPut s p (.calSens i) v be).cal.off = s.cal.off) ∧
      (wholly be 2 3 = false → (portPut s p (.calSens i) v be).cal.mult = s.cal.mult)) ∧
    ((p = .management ∨ p = .debug) → regsLive s = true → reaches s p = true → mayWrite s .power p = true → wholly be 0 1 = true →
      ∃ t, exec (.telLimitWrite p v be) s = .next t ∧ t = { s with tel := { s.tel with written := t.tel.written } } ∧
        let k := bitsOf v 15 0
        t.tel.written.toNat = if k = 0 then 0 else if k < 304 then 304 else if 1920 < k then 1920 else k)

/-- No port but a supervisor writes a reset register. While the registers are live, a write of any enabled byte of
RST_CAUSE, RST_BLK, RST_BLK_TMO or RST_WDOG from the host, management or debug port that reaches the registers
leaves the whole drive as it was but for DENY, which counts one more; a GO command from such a port for a block
other than a supervisor's does the same. -/
def Obligations.ResetRegistersAreTheSupervisors : Prop :=
  ∀ (s : State) (p : Port) (off : BitVec 32) (v : BitVec 64) (be blk : BitVec 8) (r : RegName), (p = .host ∨ p = .management ∨ p = .debug) →
    (r = .rstCause ∨ r = .rstBlk ∨ r = .rstBlkTmo ∨ r = .rstWdog) →
    let denied : State := { s with host := { s.host with deny := satInc s.host.deny } }
    (off.toNat % 8 = 0 → regName off.toNat = some r → be ≠ 0 → regsLive s = true → reaches s p = true →
      exec (.bar2RegisterWrite p off v be) s = .next denied) ∧
    (supOf blk.toNat = none → regsLive s = true → reaches s p = true → exec (.rstBlkGo p blk) s = .next denied)

/-- The primacy latch, heartbeats, takeover and block resets. With 12 V present, a claim that expects the latch's own
epoch, holder and valid bit makes the claimant holder with an epoch one newer and says so in its OK bit; any other
claim changes only that bit. A GO of another port only counts in DENY, for a supervisor's block too (log entry 26).
GO of the holder with its epoch starts the reset of a block with a code, merges with the same one or waits; a
reserved code, and its own supervisor's, only sets ERR; a fenced write is counted. A block that is idle is reset,
and one that holds a request is not; after the time-out it is reset by force, every context with a request in flight
faults with its cause, and a class 0x12 entry is logged with the block's scope and unit and outcome 0; when it is
done the next waiting reset starts. A heartbeat counts, and ends the wait for one after a block reset. A primary
whose heartbeat stalls loses the latch to the other supervisor, which resets its block, or holds it after three
failures of a day. A supervisor whose heartbeat has not advanced since its block reset is held. That each moment is
a command of its own, which requests are in flight in a block, and the class 0x12 entry's scope and outcome are the
model's choices (log entries 1, 26, 29). -/
def Obligations.SupervisorsAndBlocks : Prop :=
  ∀ (s : State) (n : Fin 2),
    (∀ (v : BitVec 64) (be : BitVec 8), s.pins.main = true → bitsOf be 2 0 = 7 →
      let same := s.sup.epoch = v.truncate 16 ∧ s.sup.holder.val = bitsOf v 16 16 ∧ s.sup.valid = v.getLsbD 17
      ∃ t, exec (.supClaim n v be) s = .next t ∧
        (same → t.sup.epoch = s.sup.epoch + 1 ∧ t.sup.holder = n ∧ t.sup.valid = true ∧ t.sup.ok = s.sup.ok.set n true) ∧
        (¬ same → t = { s with sup := { s.sup with ok := s.sup.ok.set n false } })) ∧
    ((supOne s n).running = true → (supOne s n).waiting = true →
      ∃ t, exec (.primacyClaimTimeout n) s = .next t ∧ t.sup.holder = n ∧ t.sup.epoch = s.sup.epoch + 1 ∧ t.sup.valid = true) ∧
    (∀ (p : Port) (b : BitVec 8), p = .host ∨ p = .management ∨ p = .debug → regsLive s = true → reaches s p = true →
      exec (.rstBlkGo p b) s = .next (countDeny s)) ∧
    (∀ (e : BitVec 16) (b : BitVec 8), s.rst.phase = .run →
      (fenceOk s n e = true → blockCode b.toNat = true → supOf b.toNat ≠ some n →
        ∃ t, exec (.rstBlkGo (.supervisor n e) b) s = .next t ∧ t.rst.blk = b ∧ t.rst.err = s.rst.err ∧
          (s.rst.act = .none → t.rst.act = .idling b ∧ t.rst.waiting = s.rst.waiting) ∧
          (∀ c, s.rst.act = .idling c ∨ s.rst.act = .resetting c → t.rst.act = s.rst.act ∧
            t.rst.waiting = if c = b ∨ b ∈ s.rst.waiting then s.rst.waiting else s.rst.waiting ++ [b])) ∧
      (fenceOk s n e = true → (blockCode b.toNat = false ∨ supOf b.toNat = some n) →
        exec (.rstBlkGo (.supervisor n e) b) s = .next { s with rst := { s.rst with blk := b, err := true } }) ∧
      (fenceOk s n e = false → ∃ t, exec (.rstBlkGo (.supervisor n e) b) s = .next t ∧ t.rst.act = s.rst.act ∧
        t.sup.fenced = satInc s.sup.fenced ∧ t.rst.err = (s.rst.err || (supOf b.toNat).isSome))) ∧
    (∀ b, s.rst.act = .idling b →
      (holdsWork s b.toNat = true → exec .blockIdle s = .next s) ∧
      (holdsWork s b.toNat = false → ∃ t, exec .blockIdle s = .next t ∧ t.rst.act = .resetting b ∧
        ∀ a, clusterOf a = b.toNat → (t.arr a).buf = [] ∧ (t.arr a).acc = [] ∧ (t.arr a).exc = .clear) ∧
      ∃ t, exec .blockResetTimeout s = .next t ∧ t.rst.act = .resetting b ∧ t.rst.forced = true ∧
        (∀ c, inFlight s b.toNat c = true → (t.ctx c).st = .faulted ∧ (t.ctx c).exc.cause = .blockReset) ∧
        (t.log.ents.getLast?.map fun e => (e.cls, e.scope, e.unit, e.outcome)) = some (0x12, (blockScope b.toNat).1, (blockScope b.toNat).2, 0)) ∧
    (∀ b, s.rst.act = .resetting b → supOf b.toNat = none → ∃ t, exec .blockResetDone s = .next t ∧
      (s.rst.waiting = [] → t.rst.act = .none) ∧ (∀ c l, s.rst.waiting = c :: l → t.rst.act = .idling c ∧ t.rst.waiting = l)) ∧
    ((supOne s n).running = true → ∃ t, exec (.supervisorHeartbeat n) s = .next t ∧ (supOne t n).hb = (supOne s n).hb + 1 ∧
      (s.sup.holder ≠ n → (supOne t n).primary = false) ∧ supOne t (n + 1) = supOne s (n + 1) ∧ (supOne t n).blkRst = false) ∧
    ((supOne s n).running = true → (supOne s (n + 1)).running = true → s.sup.takeover = none → s.sup.valid = true → s.sup.holder = n →
      ∃ t, exec (.heartbeatTimeout n) s = .next t ∧ t.sup.holder = n + 1 ∧ t.sup.epoch = s.sup.epoch + 1 ∧ t.sup.takeover = some n ∧
        (t.log.ents.getLast?.map fun e => (e.cls, e.scope, e.unit, e.outcome)) = some (0x01, 1, BitVec.ofNat 16 n.val, 1)) ∧
    (s.sup.takeover = some n →
      (recentFails s n < 3 → ∃ t, exec .takeoverComplete s = .next t ∧ t.sup.takeover = none ∧ t.rst.blk = BitVec.ofNat 8 (0x50 + n.val) ∧
        (s.rst.act = .none → t.rst.act = .idling (BitVec.ofNat 8 (0x50 + n.val)))) ∧
      (3 ≤ recentFails s n → ∃ t, exec .takeoverComplete s = .next t ∧ (supOne t n).heldOff = true ∧ (supOne t n).running = false)) ∧
    ((supOne s n).blkRst = false → exec (.supervisorReturnTimeout n) s = .next s) ∧
    (s.rst.phase = .run → (supOne s n).blkRst = true → (supOne s n).heldOff = false →
      ∃ t, exec (.supervisorReturnTimeout n) s = .next t ∧ (supOne t n).heldOff = true ∧
        (t.log.ents.getLast?.map fun e => (e.cls, e.unit, e.outcome)) = some (0x01, BitVec.ofNat 16 n.val, 2))

/-- Reads and programs of an erase-incomplete sector, and during a suspended erase. With the boot store idle or
suspended, and its sector neither suspended nor protected: a sector with its erase-incomplete bit set gives a free
value to a read, with result code 2, and refuses a program with code 2, with no other effect; an erase of it that
completes clears the bit. While an erase is suspended, a read of that sector returns the status word with result
code 3, a program of it is refused with code 3, a new erase with code 4; a read of another sector with enough wait
states returns its word with code 0, and a program of another sector starts and, once complete, has stored its word
with code 0. -/
def Obligations.EraseIncompleteAndSuspended : Prop :=
  ∀ (s : State) (p : Port), regsLive s = true → bstPort s p = true → s.bst.op = .none → s.bst.op2 = .none →
    let n := bstSector s
    let a := s.bst.addr.toNat
    (suspSector s n = false → n ∈ s.bst.einc →
      (exec (.bstRead p) s = .next { s.draw 4 with bst := { s.bst with data := freeWord32 s, res := 2 } }) ∧
      (sectorProt s n = false → exec (.bstProgram p) s = .next { s with bst := { s.bst with res := 2 } }) ∧
      (sectorProt s n = false → s.bst.esusp = false →
        ∃ t v, exec (.bstErase p) s = .next t ∧ t.bst.op = .erase n ∧ exec (.bstOperationComplete true) t = .next v ∧ n ∉ v.bst.einc ∧ v.bst.res = 0)) ∧
    (s.bst.esusp = true →
      (s.bst.esect.toNat = n → exec (.bstRead p) s =
        .next { s with bst := { s.bst with data := (bstStat { s with bst := { s.bst with res := 3 } }).truncate 32, res := 3 } }) ∧
      (sectorProt s n = false → s.bst.esect.toNat = n → exec (.bstProgram p) s = .next { s with bst := { s.bst with res := 3 } }) ∧
      (sectorProt s n = false → exec (.bstErase p) s = .next { s with bst := { s.bst with res := 4 } }) ∧
      (s.bst.esect.toNat ≠ n → n ∉ s.bst.einc →
        (waitNeed s ≤ s.bst.wait.toNat → ∃ t, exec (.bstRead p) s = .next t ∧ t.bst.res = 0 ∧
          t.bst.data = BitVec.ofNat 32 (leNat (memGets s.bst.mem (a / 4 * 4) 4)) ∧ t.bst.mem = s.bst.mem) ∧
        (sectorProt s n = false → a % 4 = 0 →
          ∃ t v, exec (.bstProgram p) s = .next t ∧ exec (.bstOperationComplete true) t = .next v ∧ v.bst.res = 0 ∧
            memGets v.bst.mem a 4 = toLe 4 s.bst.data.toNat ∧ (∀ i, i < a ∨ a + 4 ≤ i → memGet v.bst.mem i = memGet s.bst.mem i) ∧
            v.bst.esusp = true)))

/-- What the boot store's operations do, and their result codes. From a port of its class, while nothing runs: a program
of an unprotected word starts; one of a protected sector, and an erase of it, is refused with code 1, an unaligned
one with code 9; an erase sets the erase-incomplete bit and when complete leaves the sector erased; suspend turns a
running erase into a suspended one, resume runs it on; protect and clear protection, refused with 1 while locked,
set the sector's bit and clear all; a password is stored unless one is set; lock needs a password; unlock clears the
lock with the right password, else counts a wrong one with code 7, and refuses after three. A reserved operation has
code 8. While busy a command has code 4. From a live port outside the class a command is counted and nothing else.
What an erased sector reads as is free; how a second command waits is the model's reading (log entry 6). -/
def Obligations.BootStoreOperations : Prop :=
  ∀ (s : State) (p : Port), regsLive s = true →
    let n := bstSector s
    let b := s.bst
    let result (i : Instr) (r : BitVec 4) : Prop := exec i s = .next { s with bst := { b with res := r } }
    (bstReaches s p = true → bstPort s p = false → ∀ i ∈ [Instr.bstRead p, .bstProgram p, .bstErase p, .bstSuspend p, .bstResume p, .bstProtect p,
      .bstClearProtection p, .bstStorePassword p, .bstLock p, .bstUnlock p, .bstReservedOp p 0], exec i s = .next (countDeny s)) ∧
    (bstPort s p = true → bstBusy s = true → b.esusp = false → ∀ i ∈ [Instr.bstRead p, .bstProgram p, .bstErase p, .bstResume p, .bstProtect p,
      .bstClearProtection p, .bstStorePassword p, .bstLock p, .bstUnlock p, .bstReservedOp p 0], result i 4) ∧
    (bstPort s p = true →
      (∀ k, b.op = .erase k → exec (.bstSuspend p) s = .next { s with bst := { b with op := .suspend k } }) ∧
      (bstBusy s = false → result (.bstSuspend p) 4)) ∧
    (∀ k, b.op = .suspend k → ∃ t, exec (.bstOperationComplete true) s = .next t ∧ t.bst.esusp = true ∧ t.bst.esect = BitVec.ofNat 14 k ∧
      t.bst.mem = b.mem ∧ t.bst.res = 0) ∧
    (bstPort s p = true → bstBusy s = false →
      (sectorProt s n = true → result (.bstProgram p) 1 ∧ result (.bstErase p) 1) ∧
      (b.esusp = false → n ∉ b.einc →
        (waitNeed s ≤ b.wait.toNat → ∃ t, exec (.bstRead p) s = .next t ∧ t.bst.res = 0 ∧
          t.bst.data = BitVec.ofNat 32 (leNat (memGets b.mem (b.addr.toNat / 4 * 4) 4)) ∧ t.bst.mem = b.mem) ∧
        (sectorProt s n = false → b.addr.toNat % 4 ≠ 0 → result (.bstProgram p) 9) ∧
        (sectorProt s n = false → b.addr.toNat % 4 = 0 →
          ∃ t v, exec (.bstProgram p) s = .next t ∧ t.bst.mem = b.mem ∧ exec (.bstOperationComplete true) t = .next v ∧
            memGets v.bst.mem b.addr.toNat 4 = toLe 4 b.data.toNat)) ∧
      (b.esusp = false → sectorProt s n = false →
        ∃ t v, exec (.bstErase p) s = .next t ∧ n ∈ t.bst.einc ∧ t.bst.mem = b.mem ∧ exec (.bstOperationComplete true) t = .next v ∧ n ∉ v.bst.einc ∧
          (∀ i, i / 4096 = n → memGet v.bst.mem i = Config.erasedByte i) ∧ ∀ i, i / 4096 ≠ n → memGet v.bst.mem i = memGet b.mem i) ∧
      (b.esusp = true → ∃ t, exec (.bstResume p) s = .next t ∧ t.bst.op = .erase b.esect.toNat ∧ t.bst.esusp = false) ∧
      (b.esusp = false → result (.bstResume p) 4) ∧
      (b.locked = true → result (.bstProtect p) 1 ∧ result (.bstClearProtection p) 1 ∧ result (.bstStorePassword p) 1) ∧
      (b.locked = false →
        (∃ t v, exec (.bstProtect p) s = .next t ∧ exec (.bstOperationComplete true) t = .next v ∧ sectorProt v n = true ∧ v.bst.res = 0) ∧
        (∃ t v, exec (.bstClearProtection p) s = .next t ∧ exec (.bstOperationComplete true) t = .next v ∧ (∀ k, sectorProt v k = false) ∧ v.bst.res = 0) ∧
        (b.pwdset = true → result (.bstStorePassword p) 1) ∧
        (b.pwdset = false → ∃ t v, exec (.bstStorePassword p) s = .next t ∧ exec (.bstOperationComplete true) t = .next v ∧
          v.bst.pwdset = true ∧ v.bst.key = b.pwd ∧ v.bst.res = 0)) ∧
      (b.pwdset = true → exec (.bstLock p) s = .next { s with bst := { b with locked := true, res := 0 } }) ∧
      (b.pwdset = false → result (.bstLock p) 4) ∧
      (b.badpwd = 3 → result (.bstUnlock p) 7) ∧
      (b.badpwd ≠ 3 → b.pwdset = true → b.pwd = b.key → exec (.bstUnlock p) s = .next { s with bst := { b with locked := false, res := 0 } }) ∧
      (b.badpwd ≠ 3 → b.pwd ≠ b.key → exec (.bstUnlock p) s = .next { s with bst := { b with badpwd := b.badpwd + 1, res := 7 } }) ∧
      ∀ op : BitVec 4, op = 0 ∨ 11 ≤ op.toNat → result (.bstReservedOp p op) 8)

/-- What each reset clears and keeps, and the steps of the exit from one. Every reset writes its cause and leaves no
context, slot, partition, queue, log entry or cached write, memory cleared but for index pages, and every block on
the medium, every namespace and the fuses as they were. A warm one (subsystem, hot reset, watchdog) keeps the time,
the latch and the outputs and starts trim load; a cold one (power on, PERST#) clears the latch, and waits for PERST#
and power. A good trim pass leads to the boot ROM, a third failed one to safe mode, with every clock at the bottom
of its range and the transmitters idle; a slot that passes starts both supervisors, with primacy claimed, and none
leaves recovery; replay makes an enabled controller ready. A controller reset removes queues, requests and bound
contexts; a normal shutdown reports completion once the cache is empty. Which cached writes survive is named by the
environment or free, and the pins' first levels and a reset in another reset's course are the model's (log entries
7, 10). -/
def Obligations.ResetsAndStart : Prop :=
  ∀ (s : State) (k : Survivors),
    let cleared (t : State) (cause : BitVec 4) : Prop :=
      t.rst.cause = cause ∧ (∀ c, t.ctx c = Ctx.free) ∧ (∀ j, t.slot j = Slot.empty) ∧ (∀ p, (t.part p).defined = false) ∧ t.log.ents = [] ∧
      t.nvm.cache = [] ∧ t.host.sqs = [] ∧ t.host.ccEn = false ∧ t.ready = [] ∧ t.parked = [] ∧ t.pending = s.pending ∧
      (∀ b ∈ s.nvm.blocks, b ∈ t.nvm.blocks) ∧ t.nvm.nss = s.nvm.nss ∧ t.otp = s.otp ∧
      ∀ a, (∀ p ∈ s.tiers.pages, p.no = a / Config.pageBytes → ∀ i, p.owner ≠ .index i) → memGet t.tiers.mem a = 0
    let warm (i : Instr) (cause : BitVec 4) : Prop :=
      ∃ t, exec i s = .next t ∧ cleared t cause ∧ t.rst.phase = .trim ∧ t.rst.cold = false ∧ t.rst.stamp = s.time.now.truncate 48 ∧
        t.time.now = s.time.now ∧ t.sup.epoch = s.sup.epoch ∧ t.sup.holder = s.sup.holder ∧ t.sup.valid = s.sup.valid ∧ t.pins = s.pins
    let cold (i : Instr) (cause : BitVec 4) : Prop :=
      ∃ t, exec i s = .next t ∧ cleared t cause ∧ t.rst.phase = exitPhase t.pins ∧ t.rst.cold = true ∧ t.sup.valid = false ∧ t.sup.epoch = 0 ∧
        (∀ j : Fin 2, t.sup.one[j].running = false) ∧ ∀ a : ArrId, (t.arr a).buf = [] ∧ (t.arr a).acc = []
    (served s = true → warm (.nvmSubsystemReset k) 0x2) ∧ (warmable s = true → warm (.pcieHotReset k) 0x3) ∧
    (s.rst.phase = .run → s.rst.wdog ≠ 0 → warm (.watchdogExpiry k) 0x5) ∧ cold .powerOn 0x0 ∧
    (s.rst.phase ≠ .noPower → s.rst.phase ≠ .tripped → cold (.perstAssert k) 0x1) ∧
    (∃ t, exec .perstDeassert s = .next t ∧ t.pins = { s.pins with perst := false } ∧ t.ctxs = s.ctxs ∧
      (s.rst.phase = .held → s.pins.main = true → t.rst.phase = .trim) ∧ (s.rst.phase ≠ .held → t.rst = s.rst)) ∧
    (s.rst.phase = .trim →
      (∃ t, exec (.trimLoadPass true) s = .next t ∧ t.rst = { s.rst with phase := .boot, trimv := true }) ∧
      (s.rst.crcf.toNat < 2 → exec (.trimLoadPass false) s = .next { s with rst := { s.rst with crcf := s.rst.crcf + 1 } }) ∧
      (s.rst.crcf = 2 → ∃ t, exec (.trimLoadPass false) s = .next t ∧ t.rst = { s.rst with crcf := 3, phase := .boot, safe := true } ∧
        t.tel.clkC = 600 ∧ t.tel.clkF = 500 ∧ t.tel.clkS = 800 ∧ t.pins.sending = Vector.replicate 8 false ∧
        (t.log.ents.getLast?.map fun e => e.cls) = some 0x0F)) ∧
    (s.rst.phase = .boot →
      (bootSlot s = none → exec .bootImageLoaded s = .next { s with rst := { s.rst with phase := .recovery } }) ∧
      (∀ j, bootSlot s = some j → ∃ t, exec .bootImageLoaded s = .next t ∧ t.rst.phase = .run ∧ t.fw.slot = j ∧ t.sup.valid = true ∧
        t.sup.epoch = s.sup.epoch + 1 ∧ t.sup.holder = (if s.sup.valid then s.sup.holder else 0) ∧
        (∀ n : Fin 2, t.sup.one[n].running = true ∧ (t.sup.one[n].primary = true ↔ n = t.sup.holder)) ∧
        (j ≠ chosenSlot s → (t.log.ents.getLast?.map fun e => e.cls) = some 0x10))) ∧
    (s.rst.phase = .run → s.media.replayed = false →
      ∃ t, exec .mapReplay s = .next t ∧ t.media.replayed = true ∧ t.host.rdy = s.host.ccEn ∧ t.nvm = s.nvm) ∧
    (served s = true → ∃ t, exec .controllerEnable s = .next t ∧ t.host.ccEn = true ∧ t.host.rdy = (s.media.replayed || s.rst.phase == .recovery) ∧
      t.nvm = s.nvm) ∧
    (s.host.ccEn = true →
      (∃ t, exec .nvmeControllerReset s = .next t ∧ t.host.ccEn = false ∧ t.host.rdy = false ∧ t.host.sqs = [] ∧ t.host.cqs = [] ∧ t.host.aers = [] ∧
        (∀ q ∈ s.host.sqs, ∀ c, ctxOfSq s q.id = some c → t.ctx c = Ctx.free) ∧ t.nvm.blocks = s.nvm.blocks ∧ t.nvm.nss = s.nvm.nss ∧ t.log = s.log) ∧
      (s.host.shst = 0 → ∃ t, exec .normalShutdown s = .next t ∧ t.host.noFetch = true ∧ t.nvm = s.nvm ∧
        t.host.shst = if s.nvm.cache = [] then 2 else 1))

/-- Loss and return of power, the hold-up bank, cage supplies and the power states. A power failure leaves a drive
without power that keeps every block on the medium and no context, and its return starts a cold exit with cause
power-on. The hold-up test sets the warning of a failed bank, counted and logged, or clears it, once the bank is
charged. A cage is supplied only with its module present. Entry to PS3 or PS4 ends only with an empty write cache;
in PS4 the fabric is down. The exit returns to PS0 and lets the held commands run. The idle time starts entry from
an operational state when nothing is outstanding. The levels of the pins and the outcome of the hold-up test's log
entry are the model's (log entries 7, 25). -/
def Obligations.PowerAndSleep : Prop :=
  ∀ (s : State) (k : Survivors) (p : Fin 2) (b : Bool),
    (∃ t, exec (.powerFail k) s = .next t ∧ t.rst.phase = .noPower ∧ t.pins.main = false ∧ (∀ c, t.ctx c = Ctx.free) ∧ t.nvm.cache = [] ∧
      (∀ e ∈ s.nvm.blocks, e ∈ t.nvm.blocks) ∧ t.nvm.nss = s.nvm.nss) ∧
    (s.rst.phase = .noPower → ∃ t, exec .powerReturn s = .next t ∧ t.pins.main = true ∧ t.rst.cause = 0 ∧ t.rst.cold = true ∧
      t.rst.phase = (if s.pins.perst then .held else .trim) ∧ t.nvm = s.nvm) ∧
    (∀ i ∈ [Instr.holdupTest b, .holdupCharged b], (i = .holdupTest b → s.media.charged = true) → (i = .holdupCharged b → warmable s = true) →
      ∃ t, exec i s = .next t ∧ t.media.charged = true ∧ t.media.hupFail = (!b) ∧
        (b = false → t.media.err[18] = satInc s.media.err[18] ∧ (t.log.ents.getLast?.map fun e => (e.cls, e.outcome)) = some (0x13, 2)) ∧
        (b = true → t.log = s.log)) ∧
    (s.media.charged = false → exec (.holdupTest b) s = .next s) ∧
    (∃ t, exec (.cageModulePresent p b) s = .next t ∧ t.pins.present[p] = b ∧ t.pins.supply[p] = (b && s.pins.main) ∧
      t.pins.present[p + 1] = s.pins.present[p + 1] ∧ t.pins.supply[p + 1] = s.pins.supply[p + 1] ∧ t.rst = s.rst) ∧
    (∀ v, s.host.entry = some v →
      (s.nvm.cache ≠ [] → exec .psEntryComplete s = .next s) ∧
      (s.nvm.cache = [] → ∃ t, exec .psEntryComplete s = .next t ∧ t.host.ps = v ∧ t.host.entry = none ∧
        t.host.exiting = decide (s.parked ≠ []) ∧ (v = 4 → ∀ q : Fin 2, t.fab.ports[q].link = false) ∧ t.nvm = s.nvm)) ∧
    (s.host.exiting = true → s.host.entry = none →
      ∃ t, exec .psExitComplete s = .next t ∧ t.host.ps = 0 ∧ t.host.exiting = false ∧ t.ready = s.parked ++ s.ready ∧ t.parked = []) ∧
    ∀ v, idleTarget s = some v → s.rst.phase = .run → s.host.exiting = false → s.host.entry = none →
      (quiet s = true → ∃ t, exec .idleFallbackTimer s = .next t ∧ t.host.entry = some (BitVec.ofNat 3 v) ∧ t.host.ps = s.host.ps) ∧
      (quiet s = false → exec .idleFallbackTimer s = .next s)

/-- The sample period, the power and thermal loops, the comparator and the slower cycles. At a multiple of 100,000 ns, a
sample period sets every sensor of the first 94 to its calibrated reading by the user registers as they stood at its
start, takes over those registers for the next, sets its power and limit registers, and, with the input power above
the limit, takes up to 8 steps down; the clocks stay on their steps within their ranges. A temperature at its trip
point takes the drive down until power is removed. The comparator and an excursion of 8 ms take their steps down,
the guard time's end lets steps up begin again. A hot cluster's ceiling goes down one step, and up one once all its
group has cooled by 2 degrees, the ceilings that other groups have lowered staying as they were. Ten implausible
readings fail a sensor and are logged. The derated limit follows the mean inlet temperature; the history counts each
group's highest reading; a tracked offset moves by at most one step. The fuses' values and details of the power loop
are the model's (log entries 4, 18). -/
def Obligations.TelemetryLoops : Prop :=
  ∀ (s : State) (raw : List Int),
    let s1 := addMinutes (sampleAll s raw)
    let onSteps (t : Tel) : Prop := 600 ≤ t.clkC.toNat ∧ t.clkC.toNat ≤ 1100 ∧ t.clkC.toNat % 25 = 0 ∧ 500 ≤ t.clkF.toNat ∧ t.clkF.toNat ≤ 1000 ∧
      t.clkF.toNat % 25 = 0 ∧ 800 ≤ t.clkS.toNat ∧ t.clkS.toNat ≤ 1200 ∧ t.clkS.toNat % 25 = 0
    (periodAt s = false → exec (.samplePeriod raw) s = .next s) ∧
    (warmable s = true → periodAt s = true → s.rst.trimv = true →
      (tripped s1 = true → ∃ t, exec (.samplePeriod raw) s = .next t ∧ t.rst.phase = .tripped ∧ ∀ c, t.ctx c = Ctx.free) ∧
      (tripped s1 = false → ∃ t, exec (.samplePeriod raw) s = .next t ∧
        (∀ i : Fin 96, i.val < 94 → (sensor t i).value = valueOf32 (calibrated s i (raw.getD i.val 0)) ∧ (sensor t i).valid = !(sensor s i).failed) ∧
        t.tel.calOff = s.cal.off ∧ t.tel.calMult = s.cal.mult ∧ t.tel.bias0 = s.cal.bias0 ∧ t.tel.bias1 = s.cal.bias1 ∧ t.tel.ps = inputPow s1 ∧ t.tel.limit.toNat = limitNow s1 % 65536 ∧ t.tel.p1 = meanOf t.tel.last ∧ (onSteps s.tel → onSteps t.tel) ∧
        (limitNow s1 * unitUw < inputPow s1 → s.tel.exc < 79 →
          let d := stepsDown (min 8 (ceilDiv (inputPow s1 - limitNow s1 * unitUw) 4000000)) s.tel
          t.tel.clkC = d.clkC ∧ t.tel.clkF = d.clkF ∧ t.tel.clkS = d.clkS ∧ t.tel.gap = d.gap) ∧ t.log = s.log ∧ t.ctxs = s.ctxs)) ∧
    (s.rst.trimv = true → 80 ≤ s.tel.exc → exec .excursionLimit s = .next { s with tel := allDown s.tel }) ∧
    exec .guardExpiry s = .next { s with tel := { s.tel with guard := false } } ∧
    (warmable s = true → ∃ t, exec .overpowerComparator s = .next t ∧ t = { s with tel := { s.tel with clkC := t.tel.clkC, gap := 15 } } ∧
      t.tel.clkC.toNat = min s.tel.clkC.toNat 600) ∧
    (∀ (i : Fin 12) (v : Int), s.rst.trimv = true → throttleRead s 2 i.val = some v →
      let two : Fin 6 := 2
      let spares (t : State) : Prop := t = { s with tel := { s.tel with throtC := t.tel.throtC } } ∧
        (∀ g : Fin 6, g ≠ two → t.tel.throtC[g] = s.tel.throtC[g]) ∧ ∀ j : Fin 12, j ≠ i → t.tel.throtC[two][j] = s.tel.throtC[two][j]
      (1600 < v → canLowC s i = true →
        ∃ t, exec (.thermalThrottleStep 2 (Fin.ofNat 32 i.val)) s = .next t ∧ t.tel.throtC[two][i] = s.tel.throtC[two][i] + 1 ∧ spares t) ∧
      (v ≤ 1600 → (∀ r ∈ groupReads s 2, r ≤ 1568) → s.tel.gapT[two] = 0 →
        ∃ t, exec (.thermalThrottleStep 2 (Fin.ofNat 32 i.val)) s = .next t ∧ t.tel.throtC[two][i] = s.tel.throtC[two][i] - 1 ∧ spares t)) ∧
    (∀ i : Fin 96, (sensor s i).failed = false → 10 ≤ (sensor s i).bad →
      ∃ t, exec (.sensorFailure i) s = .next t ∧ (sensor t i).failed = true ∧ (sensor t i).valid = false ∧
        (t.log.ents.getLast?.map fun e => (e.cls, e.scope, e.unit)) = some (0x0E, 10, BitVec.ofNat 16 i.val)) ∧
    (∃ t, exec .deratingUpdate s = .next t ∧ t.tel.inSum = 0 ∧ t.tel.inCnt = 0 ∧ ((sensor s 89).failed = true → t.tel.derate = 1440) ∧
      ((sensor s 89).failed = false → s.tel.inCnt ≠ 0 → t.tel.derate.toNat = derated s.tel.inSum s.tel.inCnt ∧ 960 ≤ t.tel.derate.toNat ∧ t.tel.derate.toNat ≤ 1920)) ∧
    (∃ t, exec .temphistUpdate s = .next t ∧ ∀ (g : Fin 8) (v : Int), highest (groupReads s g.val) = some v → ∀ j : Fin 64,
      t.media.temphist[g][j] = if j = tempBin v then satInc s.media.temphist[g][j] else s.media.temphist[g][j]) ∧
    ∀ (die : Fin 1536) (best : List Int), s.rst.trimv = true →
      ∃ t, exec (.readLevelTracking die best) s = .next t ∧ (∀ d, d ≠ die → trackedOf t d = trackedOf s d) ∧ (trackedOf t die).length = 15 ∧
        ∀ i, i < 15 → -127 ≤ (trackedOf s die).getD i 0 → (trackedOf s die).getD i 0 ≤ 127 →
          -127 ≤ (trackedOf t die).getD i 0 ∧ (trackedOf t die).getD i 0 ≤ 127 ∧
          ((trackedOf t die).getD i 0 - (trackedOf s die).getD i 0).natAbs ≤ 1

/-- Failed programs, erases and dies, erase suspension, patrol, relocation, racking, collection and checkpoints. A
failed program or erase retires its block, counts it and logs it, and after a failed program the drive still holds
every valid block with its number and value, the earlier pages of the block that needed it rebuilt elsewhere. With
12 V present, a failed die leaves service, its rebuild starts and it is logged; the rebuild's end is logged and
takes it off the list. An erase is suspended at most 16 times, each counted, resumes, and when complete counts one
erase of its block. A patrol read of a block with a page programmed counts the level it reached; from level 2 its
block is marked, and at level 4 one of its pages is lost and with it, where another block of the superblock has a
page of that stripe, such a page; a block under erase is erase-incomplete. A relocation clears its mark. Racking and
collection, where their conditions hold and their victim's valid blocks find room, leave no block of it and count
those moved. A checkpoint that is due switches slots, puts the map in the new one, advances its generation and
empties the journal; before, it changes nothing. Without running firmware or 12 V, and where a forager that the work
needs is under reset, none of the background work happens (R27, R516). Which superblock is the victim, and which
page of the block a patrol reads, are the model's (log entries 15, 2). -/
def Obligations.FlashUpkeep : Prop :=
  ∀ (s : State) (b : FlashBlk) (die : Fin 1536),
    let logged (t : State) (cls scope : BitVec 8) : Prop := ∃ e ∈ t.log.ents, e.cls = cls ∧ e.scope = scope ∧ e.unit = BitVec.ofNat 16 die.val
    (b.die = die → b ∉ s.media.retBlk → die ∉ s.media.dieRet →
      (firmwareOn s = true → ∃ t, exec (.flashProgramFail b) s = .next t ∧ t.media.retBlk = s.media.retBlk ++ [b] ∧ t.media.blkRet = s.media.blkRet + 1 ∧
        t.media.err[(5 : Fin 24)] = satInc s.media.err[(5 : Fin 24)] ∧ t.media.err[(7 : Fin 24)] = satInc s.media.err[(7 : Fin 24)] ∧
        logged t 0x05 7 ∧
        ∀ q ∈ s.nvm.blocks, mapped s q = true → ∃ r ∈ t.nvm.blocks, r.key = q.key ∧ r.dseq = q.dseq ∧ r.val = q.val) ∧
      ((s.media.erases.any fun e => e.die == b.die && e.block == b.block) = true →
        ∃ t, exec (.flashEraseFail b) s = .next t ∧ b ∈ t.media.retBlk ∧ (∀ e ∈ t.media.erases, ¬ (e.die = b.die ∧ e.block = b.block)) ∧
          t.media.err[(6 : Fin 24)] = satInc s.media.err[(6 : Fin 24)] ∧ logged t 0x05 7)) ∧
    (s.pins.main = true → die ∉ s.media.dieRet → ∃ t, exec (.dieFailure die) s = .next t ∧ die ∈ t.media.dieRet ∧ (die, s.media.order) ∈ t.media.rebuild ∧
      (∀ e ∈ t.media.erases, e.die ≠ die) ∧ logged t 0x04 6) ∧
    (∀ s1, firmwareOn s = true → flashDown s = false → (s.media.rebuild.any fun r => r.1 == die) = true →
      rehome s readPlaces (onDie s die) (fun q => q.num / 9375 == die.val % 48) = some s1 →
      ∃ t, exec (.dieRebuildComplete die) s = .next t ∧ (∀ r ∈ t.media.rebuild, r.1 ≠ die) ∧ logged t 0x04 6 ∧
        t.nvm.blocks = s1.nvm.blocks) ∧
    (∀ e, dieErase s die = some e →
      (foragerDown s (chanOf die) = true → exec (.eraseSuspend die) s = .next s ∧ exec (.eraseResume die) s = .next s ∧ exec (.eraseComplete die) s = .next s) ∧
      (foragerDown s (chanOf die) = false → e.halted = false → e.susp < 16 → ∃ t, exec (.eraseSuspend die) s = .next t ∧
        dieErase t die = some { e with halted := true, susp := e.susp + 1 } ∧ t.media.err[(9 : Fin 24)] = satInc s.media.err[(9 : Fin 24)]) ∧
      (16 ≤ e.susp → exec (.eraseSuspend die) s = .next s) ∧
      (e.halted = true → exec (.eraseSuspend die) s = .next s ∧ exec (.eraseComplete die) s = .next s ∧
        (foragerDown s (chanOf die) = false → ∃ t, exec (.eraseResume die) s = .next t ∧ dieErase t die = some { e with halted := false } ∧ t.media.err = s.media.err)) ∧
      (foragerDown s (chanOf die) = false → e.halted = false → ∃ t, exec (.eraseComplete die) s = .next t ∧ t.media.erases.length + 1 = s.media.erases.length ∧
        ({ die := e.die, block := e.block } : FlashBlk) ∉ t.media.einc ∧
        t.media.wear = addWear { die := e.die, block := e.block } e.slc s.media.wear)) ∧
    (∀ level : Fin 5, working s = false ∨ foragerDown s (chanOf b.die) = true → exec (.patrolRead b level) s = .next s) ∧
    (∀ level : Fin 5, working s = true → foragerDown s (chanOf b.die) = false →
      ((s.media.erases.any fun e => e.die == b.die && e.block == b.block) = true →
        ∃ t, exec (.patrolRead b level) s = .next t ∧ b ∈ t.media.einc ∧ t.nvm = s.nvm) ∧
      ((s.media.erases.any fun e => e.die == b.die && e.block == b.block) = false → stripesIn s b ≠ [] →
        ∃ t, exec (.patrolRead b level) s = .next t ∧ t.nvm = s.nvm ∧ t.media.lostBlk = s.media.lostBlk ∧
          (level ≠ 0 → t.media.err[Fin.ofNat 24 (level.val - 1)] = satInc s.media.err[Fin.ofNat 24 (level.val - 1)]) ∧
          (2 ≤ level.val → b ∈ t.media.reloc) ∧ (level.val < 2 → t.media.reloc = s.media.reloc) ∧
          (level ≠ 4 → t.media.lostPg = s.media.lostPg) ∧
          (level = 4 → ∃ k ∈ stripesIn s b, (b, k) ∈ t.media.lostPg ∧
            ((∃ n ∈ sbChans s (sbOf b.die b.block), dieAt n (sbOf b.die b.block / 9375) ≠ b.die ∧
                k ∈ stripesIn s { die := dieAt n (sbOf b.die b.block / 9375), block := b.block }) →
              ∃ d, d ≠ b.die ∧ ({ die := d, block := b.block }, k) ∈ t.media.lostPg)))) ∧
    (working s = false ∨ flashDown s = true → ∀ i ∈ [Instr.relocation b, .racking, .garbageCollection], exec i s = .next s) ∧
    (∀ s1, working s = true → flashDown s = false → b ∈ s.media.reloc → rehome s readPlaces (inBlk b) (fun q => q.num == sbOf b.die b.block) = some s1 →
      ∃ t, exec (.relocation b) s = .next t ∧ b ∉ t.media.reloc ∧ t.nvm = s1.nvm ∧ t.media.err[(8 : Fin 24)] = satInc s1.media.err[(8 : Fin 24)]) ∧
    (∀ (v : Sb) (m : State × Nat), working s = true → flashDown s = false → emptySb s v = some m →
      ((slcCrowded s = true ∨ s.media.idle = true) → rackVictim s = some v → ∃ t, exec .racking s = .next t ∧
        (∀ q ∈ t.nvm.blocks, q.place.sb ≠ v.num) ∧ (∀ q ∈ t.media.sbs, q.num ≠ v.num) ∧ t.media.racked = satAdd m.1.media.racked m.2) ∧
      (s.media.poolFree < 128 → gcVictim s = some v → ∃ t, exec .garbageCollection s = .next t ∧
        (∀ q ∈ t.nvm.blocks, q.place.sb ≠ v.num) ∧ (∀ q ∈ t.media.sbs, q.num ≠ v.num) ∧ t.media.gcMoved = satAdd m.1.media.gcMoved m.2)) ∧
    exec .hostWriteIdle s = .next (if firmwareOn s then { s with media := { s.media with idle := true } } else s) ∧
    (firmwareOn s = false → exec (.flashProgramFail b) s = .next s ∧ exec (.dieRebuildComplete die) s = .next s) ∧
    (ckptDue s = false → exec .checkpoint s = .next s) ∧
    (s.rst.phase = .run → ckptDue s = true → ∃ t, exec .checkpoint s = .next t ∧ t.media.ckptSlot = (!s.media.ckptSlot) ∧
      t.media.ckptGen = s.media.ckptGen + 1 ∧ t.media.ckpts.toList.getD (b2n (!s.media.ckptSlot)) [] = mapNow s ∧
      t.media.journal = 0 ∧ t.media.opened = 0 ∧ t.media.ckptAt = s.time.now.toNat ∧ t.nvm = s.nvm)

/-- What scrubbing finds, repair from spares, and the loss of arrays, packages, stacks and foragers. A scrub whose place
is not under reset (R27) and that corrects counts and enters one record in the table of its place; an SRAM word or a
code page without a flash source that neither code corrects is poisoned, counted and logged, one with a source is
read again. A marked row takes a spare of its bank, or its array fails; a DRAM row is repaired from its spare or its
frames are retired and logged. With 12 V absent no such failure comes. A failed array faults the context it carries
and gives way to a spare of its field, or its number is withdrawn. A lost package lowers the limit by its frames. A
lost stack faults every running step and denies programs. A lost forager leaves service with its 48 dies, and every
index on it is queued to be merged without it. Which stack or package lies behind an address without a frame, a die
failure's scope and the like are the model's (log entry 20). -/
def Obligations.RepairsAndFailures : Prop :=
  ∀ (s : State),
    let logged (t : State) (cls scope : BitVec 8) (unit : Nat) : Prop := ∃ e ∈ t.log.ents, e.cls = cls ∧ e.scope = scope ∧ e.unit = BitVec.ofNat 16 unit
    (∀ (n : ChanId) (o : Nat), working s = true → foragerDown s n = false → s.tiers.scrubS.lap ≠ 0 →
      exec (.scrubPage (.forager n o) .clean) s = .next s ∧
      (∀ bit, ∃ t, exec (.scrubPage (.forager n o) (.secded bit)) s = .next t ∧ t.tiers.ce[3].next = s.tiers.ce[3].next + 1 ∧
        t.media.err[(15 : Fin 24)] = satInc s.media.err[(15 : Fin 24)] ∧ t.tiers.sramPoison = s.tiers.sramPoison ∧ t.log = s.log) ∧
      (.forager n (o / 8 * 8) ∉ s.tiers.sramPoison →
        ∃ t, exec (.scrubPage (.forager n o) .uncorrectable) s = .next t ∧ .forager n (o / 8 * 8) ∈ t.tiers.sramPoison ∧
          t.media.err[(17 : Fin 24)] = satInc s.media.err[(17 : Fin 24)] ∧ logged t 0x0D 5 n.val)) ∧
    (∀ p : Nat, working s = true → placeDown s (.tier p) = false → p < Config.tierFBase / 2048 - 1 → s.tiers.scrubN.lap ≠ 0 → dramOf s p = some true →
      exec (.scrubPage (.tier p) .clean) s = .next s ∧
      (∀ bit, ∃ t, exec (.scrubPage (.tier p) (.secded bit)) s = .next t ∧ t.tiers.ce[0].next = s.tiers.ce[0].next + 1 ∧
        t.media.err[(11 : Fin 24)] = satInc s.media.err[(11 : Fin 24)] ∧ t.tiers.mem = s.tiers.mem ∧ t.tiers.poison = s.tiers.poison) ∧
      (hasSource s p = true → sourceLost s = false → ∃ t, exec (.scrubPage (.tier p) .uncorrectable) s = .next t ∧
        t.tiers.poison = s.tiers.poison ∧ t.log = s.log ∧ t.media.err[(16 : Fin 24)] = satInc s.media.err[(16 : Fin 24)]) ∧
      (hasSource s p = false → p ∉ s.tiers.poison → ∃ t, exec (.scrubPage (.tier p) .uncorrectable) s = .next t ∧
        t.tiers.poison = p :: s.tiers.poison ∧ t.media.err[(17 : Fin 24)] = satInc s.media.err[(17 : Fin 24)] ∧
        (t.log.ents.getLast?.map fun e => (e.cls, e.scope, e.outcome)) = some (0x0D, 9, 3))) ∧
    (∀ (p : Fin 200) (o : Nat), let r : Fin 200 × Nat := (p, Config.rowOf (o / 8 * 8))
      s.pins.main = true → r ∈ s.tiers.rowMark → p ∉ s.badPhys → (activeOf s p).elim false (holdsState s) = false →
      ((s.tiers.rowUsed.filter (· == (p, r.2 / 512))).length < 2 →
        ∃ t, exec (.sramRowRepair (.comb p o)) s = .next t ∧ r ∉ t.tiers.rowMark ∧ t.tiers.sprUsed = satInc s.tiers.sprUsed ∧ t.arrs = s.arrs) ∧
      (2 ≤ (s.tiers.rowUsed.filter (· == (p, r.2 / 512))).length →
        ∃ t, exec (.sramRowRepair (.comb p o)) s = .next t ∧ p ∈ t.badPhys ∧ r ∉ t.tiers.rowMark)) ∧
    (∀ (frames : List Nat) (site : BitVec 8) (s1 : State), s.pins.main = true → site.toNat < 4 → blockDown s (0x30 + site.toNat) = false → takeMany (some (Fin.ofNat 4 site.toNat)) frames.eraseDups.length s = some s1 →
      (∃ t, exec (.dramRowRepair frames site true) s = .next t ∧ t.tiers.limit = s1.tiers.limit ∧
        t.tiers.rprStk[Fin.ofNat 4 site.toNat] = satInc s1.tiers.rprStk[Fin.ofNat 4 site.toNat]) ∧
      (∃ t, exec (.dramRowRepair frames site false) s = .next t ∧ t.tiers.limit = s1.tiers.limit - frames.eraseDups.length ∧
        logged t 0x0B 9 site.toNat)) ∧
    (∀ (p : Fin 200) (a : ArrId), s.pins.main = true → p ∉ s.badPhys → activeOf s p = some a →
      let q := freeSpare { s with badPhys := s.badPhys ++ [p] } (a.val / 48)
      ∃ t, exec (.arrayFailure p) s = .next t ∧ t.badPhys = s.badPhys ++ [p] ∧ (t.arr a).buf = [] ∧ (t.arr a).acc = [] ∧ logged t 0x02 4 a.val ∧
        (∀ c, arrayCtx s a = some c → (t.ctx c).st = .faulted ∧ (t.ctx c).exc.cause = .unitFail) ∧
        (∀ f, q = some f → (t.arr a).phys = BitVec.ofNat 8 f.val ∧ (t.arr a).inserv = true ∧ (t.arr a).spare = true) ∧
        (q = none → (t.arr a).inserv = false)) ∧
    (∀ (p : Fin 14) (lost : List Nat), s.pins.main = true → p ∉ s.tiers.pkgFail → ∃ t, exec (.tierFPackageFailure p lost) s = .next t ∧ p ∈ t.tiers.pkgFail ∧
      t.tiers.limit = s.tiers.limit - 32768) ∧
    (∀ n : Fin 4, s.pins.main = true → ∃ t, exec (.tierNStackFailure n) s = .next t ∧ t.tiers.stkFail = true ∧ (∀ c, (t.ctx c).queue = []) ∧
      (∀ c, (s.ctx c).cur ≠ none → (t.ctx c).st = .faulted ∧ (t.ctx c).exc.cause = .unitFail ∧ (t.ctx c).cur = none) ∧ logged t 0x0A 9 n.val) ∧
    (s.pins.main = false → ∀ (p : Fin 200) (q : Fin 14) (lost : List Nat) (n : Fin 4) (k : ChanId) (pl : EccPlace) (fr : List Nat) (site : BitVec 8) (b : Bool),
      ∀ i ∈ [Instr.sramRowRepair pl, .dramRowRepair fr site b, .arrayFailure p, .tierFPackageFailure q lost, .tierNStackFailure n, .foragerFailure k], exec i s = .next s) ∧
    ∀ n : ChanId, s.pins.main = true → (s.fgr n).retired = false → ∃ t, exec (.foragerFailure n) s = .next t ∧ (t.fgr n).retired = true ∧
      (∀ k, k < 48 → dieAt n k ∈ t.media.dieRet) ∧
      ∀ i, (s.index i).live = true → (s.index i).chanMask.getLsbD n.val = true → (t.index i).dropChan.getLsbD n.val = true ∧ i ∈ t.mergeQ

/-- Which Hornak frames a drive takes, and what each kind of message does. On a port without link, and for PAUSE, PFC
and gPTP frames and other stations' frames, nothing happens. Another EtherType, a frame over 8,262 bytes, one that
fails a check and a reserved type are counted and do nothing else. An ANNOUNCE teaches the sender's address on its
port; one of another hive does no more; one of the drive's own node ID and a lower EUI-64 puts the drive in
conflict; any other is noted, and makes a listening drive the member of a keeper with no older epoch. A SCHEDULE
that R344 allows is adopted, else counted. A QUERY of an allowed size is noted and queues one hive step, both in the
order of round, intake member and the pair its frame carries; another is counted. In sync, an ANSWER in its slot is
kept for its round, an ABSENT as one of no coverage, counted where its bitmap is not zero; a FINAL completes the
first command that waits for its round, the root's ABSENT passes over it. RESYNC names the round to rejoin, is
acknowledged in sync, and its acknowledgement ends the repeats. A keeper records POWER values; a member has its
grant for the next round. A drive without an entry in the schedule acts on ANNOUNCE and SCHEDULE alone. Message
layouts are the model's (log entries 11, 24). -/
def Obligations.HiveMessages : Prop :=
  ∀ (s : State) (p : Fin 2) (f : FrameHdr) (pl : Bytes),
    let up : Prop := s.rst.phase = .run ∧ s.fab.ports[p].link = true ∧ f.etype ≠ 0x8808 ∧ f.etype ≠ 0x88F7 ∧ hearsMac s p f.dstMac = true
    let fit (typ : BitVec 8) : Prop := f.etype = 0x88B5 ∧ pl.length ≤ 8192 ∧ frameOk s typ f = true
    let taken (typ : BitVec 8) : Prop := up ∧ fit typ ∧ f.segcnt.toNat ≤ 1 ∧ (2 < typ.toNat → excluded s = false)
    let v (typ : BitVec 8) : State := remember s typ f
    let r := roundOf s f.round
    let n := srcNode f
    (∀ k ∈ [((1 : BitVec 8), Instr.announce p f pl), (2, .schedule p f pl), (3, .query p f pl), (4, .answer p f pl), (5, .absent p f pl), (6, .final p f pl),
        (7, .resync p f pl), (8, .resyncAck p f pl), (9, .leaseReq p f pl), (10, .leaseGrant p f pl), (11, .leaseRel p f pl), (12, .xacc p f pl),
        (13, .xdata p f pl), (14, .power p f pl), (15, .budget p f pl)],
      (¬ up → exec k.2 s = .next s) ∧ (up → ¬ fit k.1 → exec k.2 s = .next (countRx s p)) ∧
      (up → fit k.1 → 2 < k.1.toNat → excluded s = true → exec k.2 s = .next (v k.1))) ∧
    (∀ typ, (¬ up → exec (.reservedFrame p typ f pl) s = .next s) ∧ (up → exec (.reservedFrame p typ f pl) s = .next (countRx s p))) ∧
    (taken 1 →
      let a := annOf f pl
      let known := s.fab.routes.find? fun q => q.node == n
      let s1 := learn (v 1) p f
      (annOk pl = false → exec (.announce p f pl) s = .next (countRx (v 1) p)) ∧
      (annOk pl = true → sameHive s f = false → exec (.announce p f pl) s = .next s1) ∧
      ((∀ q, known = some q → q.static = false) →
        ∃ q, (s1.fab.routes.find? fun x => x.node == n) = some q ∧
          (if p = 0 then q.v0 = true ∧ q.mac0 = f.srcMac else q.v1 = true ∧ q.mac1 = f.srcMac)) ∧
      ((∃ q, known = some q ∧ q.static = true) → s1.fab.routes = s.fab.routes) ∧
      (annOk pl = true → sameHive s f = true → a.node = s.fab.node → a.eui.toNat < s.otp.eui.toNat →
        ∃ t, exec (.announce p f pl) s = .next t ∧ t.fab.st = .conflict ∧ t.fab.hive = 0 ∧ t.fab.routes = s1.fab.routes ∧
          ((∀ l ∈ s.fab.leases, l.granted = true → l.lost = false → 48 ≤ l.window) → (t.log.ents.getLast?.map fun e => e.cls) = some 0x11)) ∧
      (annOk pl = true → sameHive s f = true → (a.node ≠ s.fab.node ∨ s.otp.eui.toNat ≤ a.eui.toNat) →
        ∃ t, exec (.announce p f pl) s = .next t ∧ a ∈ t.fab.anns ∧ t.fab.hive = s.fab.hive ∧ t.fab.routes = s1.fab.routes ∧
          (excluded s = false → s.fab.st = .listening → a.st = 6 → newerEq a.epoch s.fab.epoch = true →
            t.fab.st = .member ∧ t.fab.epoch = a.epoch ∧ t.fab.knode = a.node) ∧
          (s.fab.st = .keeper → ¬ (a.st = 6 ∧ (newer a.epoch s.fab.epoch = true ∨ (a.epoch = s.fab.epoch ∧ lowerKey s a = true))) → t.fab.st = .keeper) ∧
          (s.fab.st = .joining → t.fab.st = .joining))) ∧
    (taken 2 → (adoptable s pl = true → ∃ t, exec (.schedule p f pl) s = .next t ∧ newestSched t = some (schedOf pl)) ∧
      (adoptable s pl = false → exec (.schedule p f pl) s = .next (countRx (v 2) p))) ∧
    (taken 3 → queryOk pl = false → exec (.query p f pl) s = .next (countRx (v 3) p)) ∧
    (∀ q, taken 3 → s.time.insync = true → s.fab.sched = some q → queryOk pl = true →
      let o := pairKey f.stamp f.seq
      (s.fab.hiveCtx = none → exec (.query p f pl) s = .next (noteQuery (v 3) r n o)) ∧
      ∀ c, s.fab.hiveCtx = some c →
        ((s.ctx c).st = .faulted ∨ (s.ctx c).st = .free → exec (.query p f pl) s = .next (noteQuery (v 3) r n o)) ∧
        ((s.ctx c).st ≠ .faulted → (s.ctx c).st ≠ .free →
          ∃ t x, exec (.query p f pl) s = .next t ∧ x.src = .hive r n o ∧
            t.fab.queries = s.fab.queries.filter (fun q => !queryBefore s (r, n, o) q) ++ [(r, n, o)] ++ s.fab.queries.filter (queryBefore s (r, n, o)) ∧
            x.count.toNat = fieldAt pl 0 8 ∧ x.hin = pl.drop 120 ∧ x.params[13]? = some (r + BitVec.ofNat 64 q.depth) ∧ x.outLen = 1048576 ∧
            ((s.ctx c).st ≠ .ready → (t.ctx c).queue = insertHive s x (s.ctx c).queue) ∧
            ((s.ctx c).st = .ready → (s.ctx c).queue = [] → (t.ctx c).queue = [] ∧ (t.ctx c).cur = some x))) ∧
    (∀ q i j, s.fab.sched = some q → ownIndex s q = some i → q.indexOf n = some j →
      let e := q.slot r.toNat j
      let inTime : Prop := s.time.insync = true ∧ e.parent = i ∧ childTimely s q r.toNat j f = true
      let others := s.fab.kids.filter fun m => !(m.round == r && m.child == j)
      (taken 4 → inTime → ∃ t, exec (.answer p f pl) s = .next t ∧
        t.fab.kids = others ++ [{ round := r, child := j, cover := BitVec.ofNat 512 (fieldAt pl 0 64), body := pl.drop 64 }]) ∧
      (taken 4 → ¬ inTime → exec (.answer p f pl) s = .next (v 4)) ∧
      (taken 5 → (pl.any (· != 0)) = true → exec (.absent p f pl) s = .next (countRx (v 5) p)) ∧
      (taken 5 → (pl.any (· != 0)) = false → e.parent ≠ 0xFFFF → inTime → ∃ t, exec (.absent p f pl) s = .next t ∧
        t.fab.kids = others ++ [{ round := r, child := j, cover := 0, body := [] }]) ∧
      (taken 5 → (pl.any (· != 0)) = false → e.parent ≠ 0xFFFF → ¬ inTime → exec (.absent p f pl) s = .next (v 5)) ∧
      (taken 5 → (pl.any (· != 0)) = false → e.parent = 0xFFFF → s.time.insync = true → exec (.absent p f pl) s = .next (passOver (v 5) r))) ∧
    (∀ q m, taken 6 → s.time.insync = true → s.fab.sched = some q →
      (s.fab.cmds.find? fun m => m.sent && !m.skip && m.round + BitVec.ofNat 64 q.depth == r) = some m →
      ∃ t, exec (.final p f pl) s = .next t ∧ lastStatus t = some (m.sq, m.cid, .success) ∧
        (t.out.cpls.head?.map fun x => (x.dw0, x.dw1)) = some (if coversAll q (BitVec.ofNat 512 (fieldAt pl 0 64)) then 0 else 0x10000,
          BitVec.ofNat 32 (64 + (pl.drop 64).length)) ∧ ∀ k ∈ t.fab.cmds, ¬ (k.sq = m.sq ∧ k.cid = m.cid)) ∧
    (taken 6 → s.time.insync = false → exec (.final p f pl) s = .next (v 6)) ∧
    (taken 7 → ∃ t, exec (.resync p f pl) s = .next t ∧ t.fab.rejoin = some (BitVec.ofNat 64 (fieldAt pl 0 8)) ∧
      t.fab.bulk = s.fab.bulk ++ (if s.time.insync then [(8, toNode n, bytesAt pl 0 8)] else [])) ∧
    (∀ j, taken 8 → (s.fab.sched.bind fun q => q.indexOf n) = some j →
      ∃ t, exec (.resyncAck p f pl) s = .next t ∧ t.fab.oos = (s.fab.oos.filter fun o => o.1 != j) ∧
        ∀ o ∈ s.fab.oos, o.1 = j → o ∈ t.fab.acked) ∧
    (taken 14 → ∃ t, exec (.power p f pl) s = .next t ∧ (s.fab.st ≠ .keeper → t = v 14) ∧ (s.fab.st = .keeper →
      ∃ w ∈ t.fab.pows, w.node = n ∧ w.round = r ∧ w.demand = fieldAt pl 0 4 ∧ w.floor = fieldAt pl 4 4 ∧ w.cap = fieldAt pl 8 4 ∧ w.room = fieldAt pl 12 4)) ∧
    ∀ q, taken 15 → s.fab.sched = some q →
      ∀ i, ownIndex s q = some i → 4 * i + 4 ≤ pl.length →
        ∃ t, exec (.budget p f pl) s = .next t ∧ t.fab.grantNext = some (r + 1, fieldAt pl (4 * i) 4) ∧ t.fab.grant = s.fab.grant

/-- What the lease messages and their time-outs do at keeper, lender and requester. A keeper that finds no lender
refuses a request, and grants the size asked for from a lender other than the requester with a grant to requester
and lender. The lender adds the lease it can serve. A requester's grant opens the lowest free window, whose base its
waiting LEASE writes; a refusal, and 10 ms without an answer, writes 0; in both cases the context goes on. A release
from requester or keeper frees the lender's pages, and from the keeper loses the lease. An access to a lent range
reads or writes the lender's pages and answers, or answers failure for a lease it does not know of its sender and
for a read of an uncorrectable error, with which the lent pages are free. A drive without a schedule takes no grant.
A failure answered to the requester, and 100 ms of silence, lose the lease: its pages without a flash source are
poisoned; after silence the lender is sent a release. Data that were asked for land in the window, other data
nowhere. Message layouts, the node ID in a request number and the release after silence are the model's (log entries
11, 12). -/
def Obligations.LeaseMessages : Prop :=
  ∀ (s : State) (p : Fin 2) (f : FrameHdr) (pl : Bytes),
    let taken (typ : BitVec 8) : Prop := (s.rst.phase = .run ∧ s.fab.ports[p].link = true ∧ hearsMac s p f.dstMac = true) ∧
      (f.etype = 0x88B5 ∧ pl.length ≤ 8192 ∧ frameOk s typ f = true) ∧ f.segcnt.toNat ≤ 1 ∧ excluded s = false
    let n := srcNode f
    (taken 9 →
      let req := BitVec.ofNat 32 (fieldAt pl 4 4)
      let pages := fieldAt pl 0 4
      (s.fab.st ≠ .keeper → exec (.leaseReq p f pl) s = .next (remember s 9 f)) ∧
      (∀ q, s.fab.st = .keeper → s.fab.sched = some q → n ≠ s.fab.node →
        (pickLender s q n pages = none → ∃ t, exec (.leaseReq p f pl) s = .next t ∧ t.fab.bulk = s.fab.bulk ++ [(10, toNode n, grantBytes req 0 0 0)] ∧
          t.fab.grants = s.fab.grants) ∧
        (∀ l, pickLender s q n pages = some l → l ≠ n ∧ (l ≠ s.fab.node → ∃ t base, exec (.leaseReq p f pl) s = .next t ∧
          t.fab.bulk = s.fab.bulk ++ [(10, toNode l, grantBytes req l pages base), (10, toNode n, grantBytes req l pages base)] ∧
          t.fab.grants = s.fab.grants ++ [{ req := req, node := n, lender := l, pages := pages, base := base }])))) ∧
    (taken 10 →
      let req := BitVec.ofNat 32 (fieldAt pl 0 4)
      let lender := BitVec.ofNat 12 (fieldAt pl 4 4)
      let pages := fieldAt pl 8 4
      let base := BitVec.ofNat 64 (fieldAt pl 12 8)
      (newestSched s = none → exec (.leaseGrant p f pl) s = .next (remember s 10 f)) ∧
      (∀ s1, newestSched s ≠ none → pages ≠ 0 → lender = s.fab.node → lendPages (remember s 10 f) req (reqNode req) pages base = some s1 →
        exec (.leaseGrant p f pl) s = .next s1 ∧ ({ req := req, node := reqNode req, lender := lender, pages := pages, base := base } : Lent) ∈ s1.fab.lent) ∧
      (∀ l c w k, newestSched s ≠ none → pages ≠ 0 → lender ≠ s.fab.node → (s.fab.leases.find? fun l => l.req == req && !l.granted) = some l → l.ctx = some c →
        l.lost = false → freeWindow s 0 48 = some k → (s.ctx c).st = .blocked → (s.ctx c).wait = .lease w req → calm (s.ctx c) = true →
        ∃ t, exec (.leaseGrant p f pl) s = .next t ∧ (t.ctx c).sreg = (advance (sput (s.ctx c) (fSP2 w) (BitVec.ofNat 64 (windowBase k)))).sreg ∧ (t.ctx c).wait = .none ∧
          ∃ g ∈ t.fab.leases, g.req = req ∧ g.granted = true ∧ g.window = k ∧ g.pages = pages ∧ g.lender = lender)) ∧
    (∀ req l c w, (s.fab.leases.find? fun l => l.req == req && !l.granted) = some l → l.ctx = some c → (s.ctx c).st = .blocked →
      (s.ctx c).wait = .lease w req → calm (s.ctx c) = true →
      ∃ t, exec (.leaseReplyTimeout req) s = .next t ∧ (t.ctx c).sreg = (advance (sput (s.ctx c) (fSP2 w) 0)).sreg ∧ (t.ctx c).wait = .none ∧ ∀ g ∈ t.fab.leases, g.req ≠ req) ∧
    (taken 11 →
      let req := BitVec.ofNat 32 (fieldAt pl 0 4)
      ∃ t, exec (.leaseRel p f pl) s = .next t ∧ (∀ l ∈ t.fab.lent, l.req = req → l.node ≠ n ∧ n ≠ s.fab.knode) ∧
        (n = s.fab.knode → ∀ l, (s.fab.leases.find? fun l => l.req == req && l.granted && !l.lost) = some l → l.window < 48 →
          ∀ g ∈ t.fab.leases, g.req = req → g.lost = true) ∧
        (n ≠ s.fab.knode → t.fab.leases = s.fab.leases)) ∧
    (taken 12 →
      let req := fieldAt pl 4 4
      let off := fieldAt pl 8 8
      let len := fieldAt pl 16 8
      let back (ok : Bool) (d : Bytes) := s.fab.bulk ++ [((13 : BitVec 8), toNode n, xdataBytes ok req off len d)]
      ((s.fab.lent.find? fun l => l.req.toNat == req && l.node == n) = none → ∃ t, exec (.xacc p f pl) s = .next t ∧
        t.fab.bulk = back false [] ∧ t.tiers = s.tiers) ∧
      (∀ l a, (s.fab.lent.find? fun l => l.req.toNat == req && l.node == n) = some l → lentAddr s l off = some a → off + len ≤ l.pages * Config.pageBytes →
        ∃ t, exec (.xacc p f pl) s = .next t ∧
          (fieldAt pl 0 4 = 1 → t.fab.bulk = back true [] ∧ memGets t.tiers.mem a len = bytesAt pl 24 len ∧
            ∀ x, x < a ∨ a + len ≤ x → memGet t.tiers.mem x = memGet s.tiers.mem x) ∧
          (fieldAt pl 0 4 ≠ 1 → rangePoison s (a, a + len) = false →
            t.tiers = s.tiers ∧ t.fab.bulk = back true (memGets s.tiers.mem a len)) ∧
          (fieldAt pl 0 4 ≠ 1 → rangePoison s (a, a + len) = true →
            t.fab.bulk = back false [] ∧ ∀ x ∈ t.fab.lent, ¬ (x.req = l.req ∧ x.node = l.node)))) ∧
    (∀ l, taken 13 → (s.fab.leases.find? fun l => l.req.toNat == fieldAt pl 4 4 && l.granted && l.lender == n && !l.lost) = some l →
      let off := fieldAt pl 8 8
      let len := fieldAt pl 16 8
      (l.window < 48 → fieldAt pl 0 4 ≠ 0 → ∃ t, exec (.xdata p f pl) s = .next t ∧ (∀ g ∈ t.fab.leases, g.req = l.req → g.lost = true) ∧
        ∀ x ∈ windowPages l, x ∉ s.tiers.source → (∀ q ∈ s.tiers.pages, q.no = x / 1024 → q.owner = .lease l.req) → x ∈ t.tiers.poison) ∧
      (fieldAt pl 0 4 = 0 → (off, len, false) ∈ l.reads → pl.length = 24 + len → ∃ t, exec (.xdata p f pl) s = .next t ∧
        memGets t.tiers.mem (windowBase l.window + off) len = pl.drop 24 ∧
        ∀ x, x < windowBase l.window + off ∨ windowBase l.window + off + len ≤ x → memGet t.tiers.mem x = memGet s.tiers.mem x) ∧
      (fieldAt pl 0 4 = 0 → (off, len, false) ∉ l.reads → exec (.xdata p f pl) s = .next (remember s 13 f))) ∧
    ∀ lender, ∃ t, exec (.leaseLossTimeout lender) s = .next t ∧
      (∀ g ∈ t.fab.leases, g.granted = true → g.lender = lender → g.window < 48 → g.lost = true) ∧
      ∀ l ∈ s.fab.leases, l.granted = true → l.lender = lender → l.lost = false → (11, toNode lender, toLe 4 l.req.toNat) ∈ t.fab.bulk

/-- What a hive member does at each of its times. An incomplete message is dropped after 1 ms, a learned address after 1
s. An announcement is sent at once on every up port to the hive's group address, or queued while a schedule governs;
a keeper queues its schedule. After 300 ms a listening drive or member becomes a candidate unless its priority is
255, and a candidate the keeper with an epoch one newer than any heard. A round's start sets the round and puts its
grant in force. In its intake window a drive in sync carries the first command that it fetched before the window and
that fits; the compute window's end counts a hive step that still runs; once in its slot a member sends its ready
answer, the root the FINAL of a query, or ABSENT; at a silent child's limit it is out of step, once. The bulk window
sends the queued messages that fit. Without FINAL in time a command ends incomplete. That each time is a command of
its own, which does nothing at another time, is the model's choice (log entries 1, 24). -/
def Obligations.HiveTimers : Prop :=
  ∀ (s : State),
    exec .messageTimeout s = .next { s with fab := { s.fab with asm := s.fab.asm.filter fun a => decide (s.time.now.toNat < a.begun.toNat + 1000000) } } ∧
    (∀ (n : BitVec 12) (p : Fin 2), ∃ t, exec (.routeEntryExpiry n p) s = .next t ∧ t = { s with fab := { s.fab with routes := t.fab.routes } } ∧
      (∀ r ∈ t.fab.routes, r.node = n → r.static = false → (if p = 0 then r.v0 else r.v1) = false) ∧
      (∀ r ∈ s.fab.routes, (r.node ≠ n ∨ r.static = true) → r ∈ t.fab.routes)) ∧
    (mayTransmit s = true →
      (s.fab.sched ≠ none → exec .announceTimer s = .next (queueBulk s 1 toAll [])) ∧
      (s.fab.sched = none → ∃ t, exec .announceTimer s = .next t ∧
        ∀ p : Fin 2, s.fab.ports[p].link = true → blockBusy s (0x40 + p.val) = false →
          ∃ m ∈ t.out.tx, m.port = p ∧ m.typ = 1 ∧ m.dst = toAll ∧ fieldAt m.body 0 8 = s.otp.eui.toNat ∧
            ∃ x ∈ m.frames, x.port = p ∧ x.bytes.take 6 = toBe 6 (groupMac s.fab.hive).toNat)) ∧
    (∀ q, s.fab.sched = some q → s.fab.st = .keeper → mayTransmit s = true → exec .scheduleResend s = .next (queueBulk s 2 toAll q.raw)) ∧
    (excluded s = true → exec .electionTimeout s = .next s) ∧
    (excluded s = false → ∃ t, exec .electionTimeout s = .next t ∧
      (s.fab.st = .listening ∨ s.fab.st = .member → t.fab.st = (if s.fab.prio = 255 then s.fab.st else .candidate) ∧ t.fab.epoch = s.fab.epoch) ∧
      (s.fab.st = .candidate → t.fab.st = .keeper ∧ t.fab.knode = s.fab.node ∧
        t.fab.epoch = (if newer s.fab.heard s.fab.epoch then s.fab.heard else s.fab.epoch) + 1)) ∧
    (∀ q, s.rst.phase = .run → s.fab.pend = none → s.fab.sched = some q → q.t0.toNat ≤ s.time.now.toNat → q.period ≠ 0 →
      ∃ t, exec .roundStart s = .next t ∧ t.fab.round.toNat = (s.time.now.toNat - q.t0.toNat) / (q.period * 1000) ∧
        (∀ m ∈ t.fab.slots, t.fab.round.toNat ≤ m.round.toNat) ∧
        (∀ g, s.fab.grantNext = some g → g.1.toNat ≤ t.fab.round.toNat → t.fab.grant = some g.2 ∧ t.fab.grantNext = none) ∧
        (∀ c k, t.fab.round ≠ s.fab.round ∨ s.fab.fresh = true → (s.ctx c).wait = .bar k → (t.ctx c).rang = true)) ∧
    (∀ q, s.rst.phase = .run → s.fab.pend = some q → q.begun s.time.now.toNat = true →
      ∃ t, exec .roundStart s = .next t ∧ t.fab.sched = some q ∧ t.fab.pend = none ∧
        (q.t0.toNat ≤ s.time.now.toNat → ∀ c k, (s.ctx c).wait = .bar k → (t.ctx c).rang = true)) ∧
    (∀ q i, ownPart s = some (q, i) → s.time.insync = true →
      let r := s.fab.round
      let e := q.slot r.toNat i
      (∀ m rest, mayTransmit s = true → inWindow s q e.inOff e.inLen = true → s.fab.cmds = m :: rest → m.sent = false →
        m.fetched.toNat < q.at r.toNat + e.inOff * 64 →
        wireBits s.fab.vid m.msg.length ≤ roomIn s s.fab.inUsed (allLanes s) (q.at r.toNat + e.inOff * 64) (e.inLen * 64) →
        ∃ t k, exec .intakeWindow s = .next t ∧ k ∈ t.fab.cmds ∧ k.sq = m.sq ∧ k.cid = m.cid ∧ k.sent = true ∧ k.round = r ∧
          (canSend s toAll = true → ∃ y ∈ t.out.tx, y.typ = 3 ∧ y.dst = toAll ∧ y.round = r ∧ y.body = m.msg)) ∧
      (q.at r.toNat + (e.cmpOff + e.cmpLen) * 64 ≤ s.time.now.toNat →
        ∃ t, exec .computeWindowEnd s = .next t ∧ t = { s with fab := { s.fab with overrun := t.fab.overrun } } ∧
          t.fab.overrun = if hiveRuns s then satInc s.fab.overrun else s.fab.overrun) ∧
      (e.slotLen ≠ 0 → s.time.now.toNat ≤ q.slotAt r.toNat i + 256 → q.slotAt r.toNat i ≤ s.time.now.toNat + 256 → s.fab.rejoin = none →
        (s.fab.slotSent = some r → exec .slotStart s = .next s) ∧ (s.fab.slotSent ≠ some r →
        let head (t : State) := t.out.tx.head?.map fun y => (y.port, y.typ, y.dst, y.round)
        ∃ t, exec .slotStart s = .next t ∧ t.fab.slotSent = some r ∧ (∀ m ∈ t.fab.slots, m.round ≠ r) ∧
          (∀ x, mayTransmit s = true → e.parent ≠ 0xFFFF → slotPort s (q.node e.parent) e.port = some x →
            (readyMsg s r (fun _ => true) = none → head t = some (x, 5, toNode (q.node e.parent), r)) ∧
            (∀ m, readyMsg s r (fun _ => true) = some m →
              let fits := decide (wireBits s.fab.vid (64 + m.body.length) ≤ slotBits s e (q.node e.parent))
              (fits = true → head t = some (x, 4, toNode (q.node e.parent), r) ∧ (t.out.tx.head?.map fun y => y.body.drop 64) = some m.body) ∧
              (fits = false → head t = some (x, 5, toNode (q.node e.parent), r)))) ∧
          (∀ x v m, mayTransmit s = true → e.parent = 0xFFFF → s.fab.queries = [v] → v.1 + BitVec.ofNat 64 q.depth = r → v.2.1 ≠ s.fab.node →
            slotPort s v.2.1 e.port = some x → readyMsg s r (fun k => k.intake == some v.2.1 && k.ord == v.2.2) = some m →
            wireBits s.fab.vid (64 + m.body.length) ≤ slotBits s e v.2.1 →
            head t = some (x, 6, toNode v.2.1, r) ∧ (t.out.tx.head?.map fun y => y.body.drop 64) = some m.body))) ∧
      (∀ child : Fin 512,
        let l := limitRound s q child.val
        child.val < q.members.length → q.limitAt l child.val ≤ s.time.now.toNat → (q.slot l child.val).parent = i → (q.slot l child.val).slotLen ≠ 0 →
        childMsg s l child.val = none →
        ∃ t, exec (.acceptanceLimit child) s = .next t ∧
          ((∀ o ∈ s.fab.oos, o.1 ≠ child.val) → (∀ o ∈ s.fab.acked, o.1 = child.val → o.2.toNat ≤ l) →
            (child.val, BitVec.ofNat 64 (l + 2)) ∈ t.fab.oos) ∧
          ((∃ o ∈ s.fab.oos, o.1 = child.val) → t.fab.oos = s.fab.oos))) ∧
    (∀ q, s.fab.sched = some q → s.time.insync = true → mayTransmit s = true → inWindow s q q.bulkOff q.bulkLen = true →
      (ownIndex s q = none → ∃ t, exec .bulkWindow s = .next t ∧ ∀ m ∈ t.fab.bulk, m.1 = 1) ∧
      (∀ m rest used, ownIndex s q ≠ none → s.fab.bulkUsed = some (s.fab.round, used) → s.fab.bulk = m :: rest → s.fab.bulkSent = 0 → m.1 ≠ 1 → canSend s m.2.1 = true →
        (framesIn s.fab.vid (roomIn s s.fab.bulkUsed (allLanes s) (q.at s.fab.round.toNat + q.bulkOff * 64) (q.bulkLen * 64))
          (segSizes m.2.2.length)).1 = (segSizes m.2.2.length).length →
        ∃ t, exec .bulkWindow s = .next t ∧ t.fab.bulk <:+ rest ∧ ∃ y ∈ t.out.tx, y.typ = m.1 ∧ y.dst = m.2.1 ∧ y.body = m.2.2)) ∧
    (∀ q m, s.fab.sched = some q → m ∈ s.fab.cmds → m.sent = true → q.at (m.round.toNat + q.depth + 2) ≤ s.time.now.toNat →
      ∃ t, exec .hiveAnswerTimeout s = .next t ∧ (∀ k ∈ t.fab.cmds, ¬ (k.sq = m.sq ∧ k.cid = m.cid)) ∧
        ∃ x ∈ t.out.cpls, x.sq = m.sq ∧ x.cid = m.cid ∧ x.st = .success ∧ x.dw0 = 0x10000 ∧ x.dw1 = 64)

/-- Synchronisation to the grandmaster, and the lanes and links of the fabric ports. A measurement on an up port sets
OFFSET and ends holdover, and INSYNC is set exactly when the counter is not held and lies within 200 ns; before any
schedule, the first one more than 1 ms off sets the counter forward, or holds it; any other offset is left to be
slewed away. Loss of the messages starts holdover, whose end clears INSYNC. A failed lane takes the link down; with
three good ones it retrains, with fewer, after 500 ms without a link, and on loss of link the port is down and the
fault is logged with the port. A link comes up with four lanes, or with three as degraded, for a drive with an
identity and calibration. The slewed amount and the outcome codes logged are the model's readings (log entries 19,
25). -/
def Obligations.TimeAndPorts : Prop :=
  ∀ (s : State) (p : Fin 2),
    let logged (t : State) (cls : BitVec 8) (unit : Nat) : Prop := ∃ e ∈ t.log.ents, e.cls = cls ∧ e.scope = 8 ∧ e.unit = BitVec.ofNat 16 unit
    (∀ gm : BitVec 64, s.rst.phase = .run → s.fab.ports[p].link = true →
      let off : Int := (s.time.now.toNat : Int) - gm.toNat
      ∃ t, exec (.gptpSync gm) s = .next t ∧ t = { s with time := t.time } ∧ t.time.holdover = false ∧ t.time.corrected = true ∧
        t.time.offset = offsetBits off ∧ (t.time.insync = true ↔ t.time.holdUntil = none ∧ off.natAbs ≤ 200) ∧
        (s.time.corrected = false → s.fab.sched = none → 1000000 < off.natAbs →
          (off < 0 → t.time.now = gm ∧ t.time.holdUntil = s.time.holdUntil.map fun _ => gm) ∧
          (0 ≤ off → t.time.now = s.time.now ∧ t.time.holdUntil = some gm)) ∧
        (s.time.corrected = true ∨ s.fab.sched ≠ none ∨ off.natAbs ≤ 1000000 → t.time.now = s.time.now) ∧
        t.time.slew = if t.time.holdUntil = none ∧ t.time.now = s.time.now then -off else 0) ∧
    (s.rst.phase = .run → exec .syncMessagesStop s = .next { s with time := { s.time with holdover := true } }) ∧
    (s.time.holdover = true → exec .holdoverTimeout s = .next { s with time := { s.time with insync := false } }) ∧
    (∀ lane : Fin 8, lane.val / 4 = p.val → s.rst.phase = .run → s.fab.ports[p].good.getLsbD (lane.val % 4) = true →
      ∃ t, exec (.laneFailure lane) s = .next t ∧ t.fab.ports[p].link = false ∧ t.fab.ports[p].good.getLsbD (lane.val % 4) = false ∧
        t.fab.ports[p + 1] = s.fab.ports[p + 1] ∧ logged t 0x07 (p.val * 256 + lane.val) ∧
        (s.fab.ports[p].good = 0xF → t.fab.ports[p].training = true) ∧
        (goodLanes s.fab.ports[p] ≤ 3 → t.fab.ports[p].training = false ∧ logged t 0x08 (p.val * 256))) ∧
    (∀ i ∈ [Instr.degradedTrainingTimeout p, .portDown p], (i = .degradedTrainingTimeout p → s.fab.ports[p].training = true) →
      (i = .portDown p → s.fab.ports[p].link = true) →
      ∃ t, exec i s = .next t ∧ t.fab.ports[p].link = false ∧ t.fab.ports[p].training = false ∧ t.fab.ports[p].lanes = 0 ∧
        t.fab.ports[p + 1] = s.fab.ports[p + 1] ∧ logged t 0x08 (p.val * 256)) ∧
    (s.fab.set = true → s.rst.trimv = true → s.rst.phase = .run → s.host.ps ≠ 4 →
      (∃ t, exec (.linkUp p 4) s = .next t ∧ t.fab.ports[p].link = true ∧ t.fab.ports[p].lanes = 4 ∧ t.fab.ports[p].degr = false ∧
        t.fab.ports[p + 1] = s.fab.ports[p + 1]) ∧
      (∃ t, exec (.linkUp p 3) s = .next t ∧ t.fab.ports[p].link = true ∧ t.fab.ports[p].lanes = 3 ∧ t.fab.ports[p].degr = true ∧
        t.fab.ports[p + 1] = s.fab.ports[p + 1])) ∧
    (s.fab.set = false ∨ s.rst.trimv = false → ∀ n, exec (.linkUp p n) s = .next s)

/-- No instruction of a program writes a t-register or anything that belongs to the drive. Whatever command issues an
instruction, on whatever context and in whatever state: where it answers a next state, it went on, blocked, ended
its step or faulted, every context's t-registers hold what they held (R44), every context keeps its slot, partition,
submission queue and working areas, and the program slots, the partitions and their descriptors, the fuses, the boot
store, the firmware, the calibration, the telemetry, the pins, the reset registers, the primacy latch and the queue
of commands are as they were; and while no flash block or page is lost, so that no swap frame is read as poisoned
(R369), the drive event log too. No program reaches what only the host, the management port or a supervisor may set. -/
def Obligations.InstructionsLeaveTheDrive : Prop :=
  ∀ (i : Instr) (c : CtxId) (o : BitVec 8) (w : Insn) (s t : State), colordParts i = some (c, o, w) → exec i s = .next t →
    (∀ d, (t.ctx d).treg = (s.ctx d).treg ∧ (t.ctx d).slot = (s.ctx d).slot ∧ (t.ctx d).part = (s.ctx d).part ∧
      (t.ctx d).sq = (s.ctx d).sq ∧ (t.ctx d).stat = (s.ctx d).stat ∧ (t.ctx d).wnBase = (s.ctx d).wnBase ∧
      (t.ctx d).wnSize = (s.ctx d).wnSize ∧ (t.ctx d).wfBase = (s.ctx d).wfBase ∧ (t.ctx d).wfSize = (s.ctx d).wfSize) ∧
    (∀ p, (t.part p).defined = (s.part p).defined ∧ (t.part p).desc = (s.part p).desc) ∧
    t.slots = s.slots ∧ t.otp = s.otp ∧ t.bst = s.bst ∧ t.fw = s.fw ∧ t.cal = s.cal ∧ t.tel = s.tel ∧ t.pins = s.pins ∧
    t.rst = s.rst ∧ t.sup = s.sup ∧ t.pending = s.pending ∧ (s.media.lostBlk = [] → s.media.lostPg = [] → t.log = s.log)

/-- Every step keeps the event log a ring, every memory in canonical form and the fuses as they are. From every state in
which the drive event log holds at most 1,024 entries with NEXT below 1,024 (R492) and the device memory, the boot
store and the memories of every array are in canonical form, a step that answers a next state, whatever command it
runs, one from the queue, one that was held or the passing of time, leads to such a state again. No step changes a
fuse or an OTP record: the identity, the array map, the factory calibration and the clock ceilings stay what
manufacture made them. -/
def Obligations.StepsKeepTheDriveSound : Prop :=
  ∀ s t : State, step s = .next t → (logOk s → logOk t) ∧ (memOk s → memOk t) ∧ t.otp = s.otp

/-- The state right after power-on, and that the invariant of every step holds in it. Right after power-on the log is
empty, the memories are in canonical form, every context is Free with s-registers and t-registers of zero and p0 all
ones, no slot is loaded, no partition defined and no index formed; the drive has no hive and no node ID, its
election priority is 0x80, both fabric links are down; RST_CAUSE, TRIMV, CRCF, EPOCH and VALID are zero and TMO 100;
user calibration is neutral, the power limit 1,920, PS0 the power state, scrub laps 14,400 s, 86,400 s and 3,600 s;
the time counter and the queue of commands are empty. Where the spec gives no value, as for PERST# still asserted,
the value is the model's choice (log entries 4 to 7). -/
def Obligations.ResetState : Prop :=
  let s := State.reset
  logOk s ∧ memOk s ∧ s.log.ents = [] ∧
  (∀ c, (s.ctx c).st = .free ∧ (∀ i, sget (s.ctx c) i = 0) ∧ (∀ i, tget (s.ctx c) i = 0) ∧ pget (s.ctx c) 0 = BitVec.allOnes 64) ∧
  (∀ k, (s.slot k).loaded = false ∧ (s.slot k).active = false) ∧ (∀ p, (s.part p).defined = false) ∧ (∀ i, (s.index i).live = false) ∧
  s.fab.hive = 0 ∧ s.fab.set = false ∧ s.fab.prio = 0x80 ∧ (∀ p : Fin 2, s.fab.ports[p].link = false) ∧ s.fab.sched = none ∧
  s.rst.phase = .held ∧ s.rst.cause = 0 ∧ s.rst.trimv = false ∧ s.rst.crcf = 0 ∧ s.rst.tmo = 100 ∧ s.rst.wdog = 100 ∧
  s.sup.epoch = 0 ∧ s.sup.valid = false ∧ s.cal.userw = false ∧ (∀ i : Fin 96, s.cal.off[i] = 0 ∧ s.cal.mult[i] = 0x4000) ∧
  s.tel.limit = 1920 ∧ s.host.ps = 0 ∧ s.host.ccEn = false ∧ s.tiers.scrubN.lap = 14400 ∧ s.tiers.scrubF.lap = 86400 ∧
  s.tiers.scrubS.lap = 3600 ∧ s.time.now = 0 ∧ s.pending = [] ∧ s.ready = [] ∧ s.parked = []
end

