-- ==== Sys2Proof/Laws/Decode.lean ====
section
/-! SUPPORT. The bit fields of a Colord instruction word: what the word of an opcode and fields reads back as, and the word
that its own fields make up. -/

namespace Sys2Proof

/-- The fields of the word of an opcode and fields are those fields (R85). -/
theorem insnOf_insnWord (o : BitVec 8) (w : Insn) : insnOf (insnWord o w) = w := by
  cases w
  simp only [insnOf, insnWord, Insn.mk.injEq]
  refine ⟨?_, ?_, ?_, ?_, ?_⟩
  all_goals first | (apply BitVec.eq_of_getLsbD_eq; intro i hi) | skip
  all_goals simp only [BitVec.getLsbD_append, BitVec.getLsbD_extractLsb', BitVec.getLsbD_ofBool]
  all_goals simp_all
  all_goals grind

/-- The opcode of the word of an opcode and fields is that opcode (R85). -/
theorem opcode_insnWord (o : BitVec 8) (w : Insn) : (insnWord o w).extractLsb' 120 8 = o := by
  apply BitVec.eq_of_getLsbD_eq
  intro i hi
  simp only [insnWord, BitVec.getLsbD_append, BitVec.getLsbD_extractLsb']
  grind

/-- A word is made up of its opcode and its fields (R85). -/
theorem insnWord_insnOf (v : BitVec 128) : insnWord (v.extractLsb' 120 8) (insnOf v) = v := by
  apply BitVec.eq_of_getLsbD_eq
  intro i hi
  simp only [insnWord, insnOf, BitVec.getLsbD_append, BitVec.getLsbD_extractLsb', BitVec.getLsbD_ofBool]
  by_cases h112 : i = 112
  · simp [h112]
  · grind

/-- An opcode is the numeral of its value. -/
theorem opcode_eq {o : BitVec 8} {n : Nat} (h : o.toNat = n) : o = BitVec.ofNat 8 n := by
  rw [← h, BitVec.ofNat_toNat, BitVec.setWidth_eq]

end Sys2Proof
end

