-- ==== Sys2Proof/Laws/Memory.lean ====
section
/-! SUPPORT. The laws of byte memory: what a read gives after each write, and that every operation keeps the canonical
form (INVENTORY.md, Memory and ordering). -/

namespace Sys2Proof.Machine

/-! ## The canonical form -/

/-- The canonical form as a statement about the entries and their order. -/
theorem memAbove_iff (m : Mem) : ∀ lo, memAbove lo m = true ↔
    (∀ c ∈ m, lo ≤ c.1 ∧ c.2 ≠ 0) ∧ m.Pairwise (fun c d => c.1 < d.1) := by
  induction m with
  | nil => simp [memAbove]
  | cons c t ih =>
    intro lo
    simp only [memAbove, Bool.and_eq_true, decide_eq_true_eq, bne_iff_ne, ih, List.mem_cons, List.pairwise_cons]
    constructor
    · rintro ⟨⟨h1, h2⟩, h3, h4⟩
      refine ⟨?_, ?_, h4⟩
      · rintro d (rfl | hd)
        · exact ⟨h1, h2⟩
        · exact ⟨by have := (h3 d hd).1; omega, (h3 d hd).2⟩
      · intro d hd
        have := (h3 d hd).1
        omega
    · rintro ⟨h1, h2, h3⟩
      exact ⟨h1 c (.inl rfl), fun d hd => ⟨h2 d hd, (h1 d (.inr hd)).2⟩, h3⟩

theorem wf_iff (m : Mem) : Memory.wf m = true ↔ (∀ c ∈ m, c.2 ≠ 0) ∧ m.Pairwise (fun c d => c.1 < d.1) := by
  simp [Memory.wf, memAbove_iff]

@[simp] theorem wf_nil : Memory.wf [] = true := rfl

theorem filter_wf {m : Mem} (p : Host.Cell → Bool) (h : Memory.wf m = true) : Memory.wf (m.filter p) = true := by
  rw [wf_iff] at *
  exact ⟨fun c hc => h.1 c (List.mem_of_mem_filter hc), h.2.filter p⟩

/-- A write keeps every entry at or above a bound that the written address respects. -/
theorem memPut_above (m : Mem) (x : Nat) (v : Byte) :
    ∀ lo, memAbove lo m = true → lo ≤ x → memAbove lo (memPut m x v) = true := by
  induction m with
  | nil =>
    intro lo _ hx
    by_cases hv : v = 0
    · simp only [memPut, if_pos hv, memAbove]
    · simp only [memPut, if_neg hv, memAbove, Bool.and_true, Bool.and_eq_true, decide_eq_true_eq, bne_iff_ne]
      exact ⟨hx, hv⟩
  | cons c t ih =>
    obtain ⟨a, b⟩ := c
    intro lo h hx
    simp only [memAbove, Bool.and_eq_true, decide_eq_true_eq, bne_iff_ne] at h
    obtain ⟨⟨h1, h2⟩, h3⟩ := h
    have low : ∀ k, k ≤ a + 1 → memAbove k t = true := by
      intro k hk
      rw [memAbove_iff] at *
      exact ⟨fun c hc => ⟨by have := (h3.1 c hc).1; omega, (h3.1 c hc).2⟩, h3.2⟩
    unfold memPut
    split
    · split
      · simp only [memAbove, Bool.and_eq_true, decide_eq_true_eq, bne_iff_ne]
        exact ⟨⟨h1, h2⟩, h3⟩
      · next hxa hv => simp only [memAbove, Bool.and_eq_true, decide_eq_true_eq, bne_iff_ne]; exact ⟨⟨hx, hv⟩, ⟨by omega, h2⟩, h3⟩
    · split
      · split
        · exact low lo (by omega)
        · next hxa hv =>
          simp only [memAbove, Bool.and_eq_true, decide_eq_true_eq, bne_iff_ne]
          exact ⟨⟨hx, hv⟩, low _ (by omega)⟩
      · next hxa hne =>
        simp only [memAbove, Bool.and_eq_true, decide_eq_true_eq, bne_iff_ne]
        exact ⟨⟨h1, h2⟩, ih (a + 1) h3 (by omega)⟩

theorem memPut_wf {m : Mem} (x : Nat) (v : Byte) (h : Memory.wf m = true) : Memory.wf (memPut m x v) = true :=
  memPut_above m x v 0 h (Nat.zero_le _)

theorem memPuts_wf (l : Bytes) : ∀ {m : Mem} (a : Nat), Memory.wf m = true → Memory.wf (memPuts m a l) = true := by
  induction l with
  | nil => intro m a h; exact h
  | cons b t ih => intro m a h; exact ih (a + 1) (memPut_wf a b h)

theorem memPutCells_wf (l : Mem) : ∀ {m : Mem} (base : Nat), Memory.wf m = true → Memory.wf (memPutCells m base l) = true := by
  induction l with
  | nil => intro m base h; exact h
  | cons c t ih => intro m base h; exact ih base (memPut_wf _ _ h)

theorem memZero_wf {m : Mem} (lo hi : Nat) (h : Memory.wf m = true) : Memory.wf (memZero m lo hi) = true := filter_wf _ h

theorem memSlice_wf {m : Mem} (lo hi : Nat) (h : Memory.wf m = true) : Memory.wf (memSlice m lo hi) = true := filter_wf _ h

/-- The cells of a run of bytes lie in the run, in rising order, and none is zero. -/
theorem cellsOf_above (l : Bytes) : ∀ a, (∀ c ∈ cellsOf a l, a ≤ c.1 ∧ c.1 < a + l.length ∧ c.2 ≠ 0) ∧
    (cellsOf a l).Pairwise (fun c d => c.1 < d.1) := by
  induction l with
  | nil => simp [cellsOf]
  | cons b t ih =>
    intro a
    have h := ih (a + 1)
    unfold cellsOf
    split
    · refine ⟨fun c hc => ?_, h.2⟩
      have := h.1 c hc
      simp only [List.length_cons]
      exact ⟨by omega, by omega, this.2.2⟩
    · next hb =>
      simp only [List.mem_cons, List.pairwise_cons, List.length_cons]
      refine ⟨?_, fun c hc => ?_, h.2⟩
      · rintro c (rfl | hc)
        · exact ⟨Nat.le_refl _, by simp, hb⟩
        · have := h.1 c hc
          exact ⟨by omega, by omega, this.2.2⟩
      · have := (h.1 c hc).1
        omega

theorem memOver_wf {m : Mem} (a : Nat) (l : Bytes) (h : Memory.wf m = true) : Memory.wf (memOver m a l) = true := by
  rw [wf_iff] at *
  obtain ⟨h1, h2⟩ := h
  have hc := cellsOf_above l a
  unfold memOver
  constructor
  · intro c hm
    simp only [List.mem_append, List.mem_filter] at hm
    rcases hm with (hm | hm) | hm
    · exact h1 c hm.1
    · exact (hc.1 c hm).2.2
    · exact h1 c hm.1
  · simp only [List.pairwise_append, List.mem_append, List.mem_filter, decide_eq_true_eq]
    refine ⟨⟨h2.filter _, hc.2, ?_⟩, h2.filter _, ?_⟩
    · rintro c ⟨_, hca⟩ d hd
      have := (hc.1 d hd).1
      omega
    · rintro c (⟨_, hca⟩ | hd) d ⟨_, hda⟩
      · omega
      · have := (hc.1 c hd).2.1
        omega

theorem memCut_wf {m : Mem} (lo hi : Nat) (h : Memory.wf m = true) : Memory.wf (memCut m lo hi) = true := by
  have hs := (wf_iff _).1 (memSlice_wf lo hi h)
  rw [wf_iff]
  unfold memCut
  refine ⟨fun c hc => ?_, ?_⟩
  · obtain ⟨d, hd, rfl⟩ := List.mem_map.1 hc
    exact hs.1 d hd
  · rw [List.pairwise_map]
    refine hs.2.imp_of_mem fun {c d} hc hd hlt => ?_
    have h1 : lo ≤ c.1 := by have := (List.mem_filter.1 hc).2; simp at this; exact this.1
    simp only
    omega

/-! ## Reads after writes -/

/-- A read of an address below every entry. -/
theorem memGet_above (m : Mem) : ∀ lo x, memAbove lo m = true → x < lo → memGet m x = 0 := by
  induction m with
  | nil => intros; rfl
  | cons c t ih =>
    obtain ⟨a, b⟩ := c
    intro lo x h hx
    simp only [memAbove, Bool.and_eq_true, decide_eq_true_eq] at h
    unfold memGet
    rw [if_neg (by omega)]
    exact ih (a + 1) x h.2 (by omega)

theorem memGet_memPut_above (m : Mem) : ∀ lo x y v, memAbove lo m = true →
    memGet (memPut m x v) y = if y = x then v else memGet m y := by
  induction m with
  | nil =>
    intro lo x y v _
    by_cases hv : v = 0 <;> by_cases hy : y = x
    · simp [memPut, memGet, hv, hy]
    · simp [memPut, memGet, hv, hy]
    · simp only [memPut, if_neg hv, memGet, hy, if_true]
    · simp only [memPut, if_neg hv, memGet, hy, Ne.symm hy, if_false]
  | cons c t ih =>
    obtain ⟨a, b⟩ := c
    intro lo x y v h
    simp only [memAbove, Bool.and_eq_true, decide_eq_true_eq, bne_iff_ne] at h
    unfold memPut
    by_cases hxa : x < a
    · rw [if_pos hxa]
      by_cases hv : v = 0
      · rw [if_pos hv]
        by_cases hy : y = x
        · subst hy
          rw [if_pos rfl, hv]
          refine memGet_above ((a, b) :: t) a y ?_ hxa
          simp only [memAbove, Bool.and_eq_true, decide_eq_true_eq, bne_iff_ne]
          exact ⟨⟨Nat.le_refl _, h.1.2⟩, h.2⟩
        · rw [if_neg hy]
      · rw [if_neg hv]
        by_cases hy : y = x
        · subst hy; simp [memGet]
        · rw [if_neg hy]; simp only [memGet]; rw [if_neg (fun e => hy e.symm)]
    · rw [if_neg hxa]
      by_cases hxe : x = a
      · rw [if_pos hxe]
        subst hxe
        by_cases hv : v = 0
        · rw [if_pos hv]
          by_cases hy : y = x
          · subst hy
            rw [if_pos rfl, hv]
            exact memGet_above t (y + 1) y h.2 (by omega)
          · rw [if_neg hy]; simp only [memGet]; rw [if_neg (fun e => hy e.symm)]
        · rw [if_neg hv]
          by_cases hy : y = x
          · subst hy; simp [memGet]
          · rw [if_neg hy]; simp only [memGet]; rw [if_neg (fun e => hy e.symm), if_neg (fun e => hy e.symm)]
      · rw [if_neg hxe]
        simp only [memGet]
        by_cases hya : a = y
        · rw [if_pos hya, if_neg (by omega), if_pos hya]
        · rw [if_neg hya, if_neg hya]
          exact ih (a + 1) x y v h.2

/-- A byte reads as the last value written to its address, and a write leaves every other address alone. -/
theorem memGet_memPut {m : Mem} (x y : Nat) (v : Byte) (h : Memory.wf m = true) :
    memGet (memPut m x v) y = if y = x then v else memGet m y := memGet_memPut_above m 0 x y v h

theorem memGet_memPuts (l : Bytes) : ∀ {m : Mem} (a y : Nat), Memory.wf m = true →
    memGet (memPuts m a l) y = if a ≤ y ∧ y < a + l.length then l.getD (y - a) 0 else memGet m y := by
  induction l with
  | nil =>
    intro m a y _
    rw [if_neg (by simp only [List.length_nil]; omega)]
    rfl
  | cons b t ih =>
    intro m a y h
    simp only [memPuts]
    rw [ih (a + 1) y (memPut_wf a b h), memGet_memPut a y b h]
    by_cases h1 : y = a
    · subst h1
      rw [if_neg (by omega), if_pos rfl, if_pos (by simp)]
      simp
    · by_cases h2 : a ≤ y ∧ y < a + (b :: t).length
      · have h3 : a + 1 ≤ y ∧ y < a + 1 + t.length := by simp only [List.length_cons] at h2; omega
        rw [if_pos h3, if_pos h2]
        have : y - a = (y - (a + 1)) + 1 := by omega
        rw [this]
        simp
      · have h3 : ¬(a + 1 ≤ y ∧ y < a + 1 + t.length) := by simp only [List.length_cons] at h2; omega
        rw [if_neg h3, if_neg h1, if_neg h2]

/-- A read of a filtered memory, where the filter looks at addresses alone. -/
theorem memGet_filter (q : Nat → Bool) (m : Mem) (x : Nat) :
    memGet (m.filter fun c => q c.1) x = if q x then memGet m x else 0 := by
  induction m with
  | nil => simp [memGet]
  | cons c t ih =>
    obtain ⟨a, b⟩ := c
    simp only [List.filter_cons]
    by_cases ha : q a = true
    · rw [if_pos ha]
      simp only [memGet]
      by_cases hx : a = x
      · subst hx; rw [if_pos rfl, if_pos ha, if_pos rfl]
      · rw [if_neg hx, if_neg hx, ih]
    · rw [if_neg ha, ih]
      by_cases hx : a = x
      · subst hx; rw [if_neg ha, if_neg ha]
      · simp only [memGet]; rw [if_neg hx]

theorem memGet_append (m n : Mem) (x : Nat) :
    memGet (m ++ n) x = if m.any (fun c => c.1 == x) then memGet m x else memGet n x := by
  induction m with
  | nil => simp
  | cons c t ih =>
    obtain ⟨a, b⟩ := c
    simp only [List.cons_append, memGet, List.any_cons]
    by_cases hx : a = x
    · subst hx; simp
    · have : (a == x) = false := by simpa using hx
      simp only [hx, this, if_false, Bool.false_or, ih]

theorem memGet_none {m : Mem} {x : Nat} (h : m.any (fun c => c.1 == x) = false) : memGet m x = 0 := by
  induction m with
  | nil => rfl
  | cons c t ih =>
    obtain ⟨a, b⟩ := c
    simp only [List.any_cons, Bool.or_eq_false_iff, beq_eq_false_iff_ne] at h
    simp only [memGet]
    rw [if_neg h.1, ih h.2]

theorem memGet_cellsOf (l : Bytes) : ∀ a x,
    memGet (cellsOf a l) x = if a ≤ x ∧ x < a + l.length then l.getD (x - a) 0 else 0 := by
  induction l with
  | nil => intro a x; simp [cellsOf, memGet]
  | cons b t ih =>
    intro a x
    have key : memGet (cellsOf a (b :: t)) x = if a = x then b else memGet (cellsOf (a + 1) t) x := by
      simp only [cellsOf]
      split
      · next hb =>
        by_cases hx : a = x
        · rw [if_pos hx, ih, if_neg (by omega), hb]
        · rw [if_neg hx]
      · simp only [memGet]
    rw [key, ih]
    by_cases hx : a = x
    · subst hx; simp
    · rw [if_neg hx]
      by_cases h2 : a ≤ x ∧ x < a + (b :: t).length
      · have h3 : a + 1 ≤ x ∧ x < a + 1 + t.length := by simp only [List.length_cons] at h2; omega
        rw [if_pos h3, if_pos h2]
        have : x - a = (x - (a + 1)) + 1 := by omega
        rw [this]
        simp
      · have h3 : ¬(a + 1 ≤ x ∧ x < a + 1 + t.length) := by simp only [List.length_cons] at h2; omega
        rw [if_neg h3, if_neg h2]

/-- A run of bytes laid over a memory reads back, and every other address is as it was. -/
theorem memGet_memOver (m : Mem) (a : Nat) (l : Bytes) (x : Nat) :
    memGet (memOver m a l) x = if a ≤ x ∧ x < a + List.length l then l.getD (x - a) 0 else memGet m x := by
  have hlow : memGet (m.filter fun c => decide (c.1 < a)) x = if x < a then memGet m x else 0 := by
    rw [memGet_filter (fun k => decide (k < a))]; simp
  have hhigh : memGet (m.filter fun c => decide (a + List.length l ≤ c.1)) x = if a + List.length l ≤ x then memGet m x else 0 := by
    rw [memGet_filter (fun k => decide (a + List.length l ≤ k))]; simp
  have hc := memGet_cellsOf l a x
  have keyLow : (m.filter fun c => decide (c.1 < a)).any (fun c => c.1 == x) = true → x < a := by
    intro h
    simp only [List.any_filter, List.any_eq_true, Bool.and_eq_true, decide_eq_true_eq, beq_iff_eq] at h
    obtain ⟨c, _, h1, h2⟩ := h
    omega
  have keyCell : (cellsOf a l).any (fun c => c.1 == x) = true → a ≤ x ∧ x < a + List.length l := by
    intro h
    simp only [List.any_eq_true, beq_iff_eq] at h
    obtain ⟨c, hm, he⟩ := h
    have := (cellsOf_above l a).1 c hm
    omega
  unfold memOver
  rw [memGet_append, memGet_append, List.any_append]
  cases h1 : (m.filter fun c => decide (c.1 < a)).any (fun c => c.1 == x) with
  | true =>
    have hx := keyLow h1
    simp only [Bool.true_or, if_true]
    rw [hlow, if_pos hx, if_neg (by omega)]
  | false =>
    have n1 := memGet_none h1
    rw [hlow] at n1
    cases h2 : (cellsOf a l).any (fun c => c.1 == x) with
    | true =>
      have hx := keyCell h2
      simp only [Bool.false_or, if_true, Bool.false_eq_true, if_false]
      rw [hc, if_pos hx, if_pos hx]
    | false =>
      have n2 := memGet_none h2
      rw [hc] at n2
      simp only [Bool.false_or, Bool.false_eq_true, if_false]
      rw [hhigh]
      by_cases hx : x < a
      · rw [if_pos hx] at n1
        rw [if_neg (by omega), if_neg (by omega), n1]
      · by_cases hy : x < a + List.length l
        · rw [if_pos ⟨by omega, hy⟩] at n2
          rw [if_neg (by omega), if_pos ⟨by omega, hy⟩, n2]
        · rw [if_pos (by omega), if_neg (by omega)]

theorem memGet_memZero (m : Mem) (lo hi x : Nat) :
    memGet (memZero m lo hi) x = if lo ≤ x ∧ x < hi then 0 else memGet m x := by
  unfold memZero
  rw [memGet_filter (fun k => decide (k < lo) || decide (hi ≤ k))]
  by_cases h : lo ≤ x ∧ x < hi
  · rw [if_pos h, if_neg (by simp; omega)]
  · rw [if_neg h, if_pos (by simp; omega)]

/-- The bytes read from a memory. -/
theorem memGets_length (m : Mem) (a n : Nat) : (memGets m a n).length = n := by simp [memGets]

theorem memGets_getD (m : Mem) (a n i : Nat) (h : i < n) : (memGets m a n).getD i 0 = memGet m (a + i) := by
  simp [memGets, h]

/-- Bytes written as a run are the bytes that a read of the run gives. -/
theorem memGets_memOver (m : Mem) (a : Nat) (l : Bytes) : memGets (memOver m a l) a l.length = l := by
  apply List.ext_getElem
  · simp [memGets]
  · intro i h1 h2
    have hi : i < l.length := h2
    simp only [memGets, List.getElem_map, List.getElem_range]
    rw [memGet_memOver, if_pos ⟨by omega, by omega⟩]
    have : a + i - a = i := by omega
    rw [this, List.getD_eq_getElem?_getD, List.getElem?_eq_getElem hi]
    rfl

end Sys2Proof.Machine
end

