-- ==== Sys2Proof/Laws/State.lean ====
section
/-! SUPPORT. The small lemmas of the state's accessors: what each update leaves alone, and what it writes. -/

namespace Sys2Proof.Machine

/-! ## `State.setCtx` -/

@[simp] theorem State.setCtx_pending (s : State) (c : CtxId) (x : Ctx) : (s.setCtx c x).pending = s.pending := rfl
@[simp] theorem State.setCtx_ready (s : State) (c : CtxId) (x : Ctx) : (s.setCtx c x).ready = s.ready := rfl
@[simp] theorem State.setCtx_parked (s : State) (c : CtxId) (x : Ctx) : (s.setCtx c x).parked = s.parked := rfl
@[simp] theorem State.setCtx_replay (s : State) (c : CtxId) (x : Ctx) : (s.setCtx c x).replay = s.replay := rfl
@[simp] theorem State.setCtx_free (s : State) (c : CtxId) (x : Ctx) : (s.setCtx c x).free = s.free := rfl
@[simp] theorem State.setCtx_otp (s : State) (c : CtxId) (x : Ctx) : (s.setCtx c x).otp = s.otp := rfl
@[simp] theorem State.setCtx_pins (s : State) (c : CtxId) (x : Ctx) : (s.setCtx c x).pins = s.pins := rfl
@[simp] theorem State.setCtx_rst (s : State) (c : CtxId) (x : Ctx) : (s.setCtx c x).rst = s.rst := rfl
@[simp] theorem State.setCtx_sup (s : State) (c : CtxId) (x : Ctx) : (s.setCtx c x).sup = s.sup := rfl
@[simp] theorem State.setCtx_bst (s : State) (c : CtxId) (x : Ctx) : (s.setCtx c x).bst = s.bst := rfl
@[simp] theorem State.setCtx_fw (s : State) (c : CtxId) (x : Ctx) : (s.setCtx c x).fw = s.fw := rfl
@[simp] theorem State.setCtx_time (s : State) (c : CtxId) (x : Ctx) : (s.setCtx c x).time = s.time := rfl
@[simp] theorem State.setCtx_tel (s : State) (c : CtxId) (x : Ctx) : (s.setCtx c x).tel = s.tel := rfl
@[simp] theorem State.setCtx_cal (s : State) (c : CtxId) (x : Ctx) : (s.setCtx c x).cal = s.cal := rfl
@[simp] theorem State.setCtx_host (s : State) (c : CtxId) (x : Ctx) : (s.setCtx c x).host = s.host := rfl
@[simp] theorem State.setCtx_nvm (s : State) (c : CtxId) (x : Ctx) : (s.setCtx c x).nvm = s.nvm := rfl
@[simp] theorem State.setCtx_media (s : State) (c : CtxId) (x : Ctx) : (s.setCtx c x).media = s.media := rfl
@[simp] theorem State.setCtx_tiers (s : State) (c : CtxId) (x : Ctx) : (s.setCtx c x).tiers = s.tiers := rfl
@[simp] theorem State.setCtx_arrs (s : State) (c : CtxId) (x : Ctx) : (s.setCtx c x).arrs = s.arrs := rfl
@[simp] theorem State.setCtx_badPhys (s : State) (c : CtxId) (x : Ctx) : (s.setCtx c x).badPhys = s.badPhys := rfl
@[simp] theorem State.setCtx_fgrs (s : State) (c : CtxId) (x : Ctx) : (s.setCtx c x).fgrs = s.fgrs := rfl
@[simp] theorem State.setCtx_slots (s : State) (c : CtxId) (x : Ctx) : (s.setCtx c x).slots = s.slots := rfl
@[simp] theorem State.setCtx_parts (s : State) (c : CtxId) (x : Ctx) : (s.setCtx c x).parts = s.parts := rfl
@[simp] theorem State.setCtx_idxs (s : State) (c : CtxId) (x : Ctx) : (s.setCtx c x).idxs = s.idxs := rfl
@[simp] theorem State.setCtx_mergeQ (s : State) (c : CtxId) (x : Ctx) : (s.setCtx c x).mergeQ = s.mergeQ := rfl
@[simp] theorem State.setCtx_merge (s : State) (c : CtxId) (x : Ctx) : (s.setCtx c x).merge = s.merge := rfl
@[simp] theorem State.setCtx_fab (s : State) (c : CtxId) (x : Ctx) : (s.setCtx c x).fab = s.fab := rfl
@[simp] theorem State.setCtx_log (s : State) (c : CtxId) (x : Ctx) : (s.setCtx c x).log = s.log := rfl
@[simp] theorem State.setCtx_out (s : State) (c : CtxId) (x : Ctx) : (s.setCtx c x).out = s.out := rfl
@[simp] theorem State.setCtx_part (s : State) (c : CtxId) (x : Ctx) (q : PartId) : (s.setCtx c x).part q = s.part q := rfl
@[simp] theorem State.setCtx_index (s : State) (c : CtxId) (x : Ctx) (j : IdxId) : (s.setCtx c x).index j = s.index j := rfl
@[simp] theorem State.setCtx_slot (s : State) (c : CtxId) (x : Ctx) (l : SlotId) : (s.setCtx c x).slot l = s.slot l := rfl
@[simp] theorem State.setCtx_arr (s : State) (c : CtxId) (x : Ctx) (b : ArrId) : (s.setCtx c x).arr b = s.arr b := rfl
@[simp] theorem State.setCtx_fgr (s : State) (c : CtxId) (x : Ctx) (m : ChanId) : (s.setCtx c x).fgr m = s.fgr m := rfl

/-! ## `State.setPart` -/

@[simp] theorem State.setPart_pending (s : State) (p : PartId) (x : Part) : (s.setPart p x).pending = s.pending := rfl
@[simp] theorem State.setPart_ready (s : State) (p : PartId) (x : Part) : (s.setPart p x).ready = s.ready := rfl
@[simp] theorem State.setPart_parked (s : State) (p : PartId) (x : Part) : (s.setPart p x).parked = s.parked := rfl
@[simp] theorem State.setPart_replay (s : State) (p : PartId) (x : Part) : (s.setPart p x).replay = s.replay := rfl
@[simp] theorem State.setPart_free (s : State) (p : PartId) (x : Part) : (s.setPart p x).free = s.free := rfl
@[simp] theorem State.setPart_otp (s : State) (p : PartId) (x : Part) : (s.setPart p x).otp = s.otp := rfl
@[simp] theorem State.setPart_pins (s : State) (p : PartId) (x : Part) : (s.setPart p x).pins = s.pins := rfl
@[simp] theorem State.setPart_rst (s : State) (p : PartId) (x : Part) : (s.setPart p x).rst = s.rst := rfl
@[simp] theorem State.setPart_sup (s : State) (p : PartId) (x : Part) : (s.setPart p x).sup = s.sup := rfl
@[simp] theorem State.setPart_bst (s : State) (p : PartId) (x : Part) : (s.setPart p x).bst = s.bst := rfl
@[simp] theorem State.setPart_fw (s : State) (p : PartId) (x : Part) : (s.setPart p x).fw = s.fw := rfl
@[simp] theorem State.setPart_time (s : State) (p : PartId) (x : Part) : (s.setPart p x).time = s.time := rfl
@[simp] theorem State.setPart_tel (s : State) (p : PartId) (x : Part) : (s.setPart p x).tel = s.tel := rfl
@[simp] theorem State.setPart_cal (s : State) (p : PartId) (x : Part) : (s.setPart p x).cal = s.cal := rfl
@[simp] theorem State.setPart_host (s : State) (p : PartId) (x : Part) : (s.setPart p x).host = s.host := rfl
@[simp] theorem State.setPart_nvm (s : State) (p : PartId) (x : Part) : (s.setPart p x).nvm = s.nvm := rfl
@[simp] theorem State.setPart_media (s : State) (p : PartId) (x : Part) : (s.setPart p x).media = s.media := rfl
@[simp] theorem State.setPart_tiers (s : State) (p : PartId) (x : Part) : (s.setPart p x).tiers = s.tiers := rfl
@[simp] theorem State.setPart_arrs (s : State) (p : PartId) (x : Part) : (s.setPart p x).arrs = s.arrs := rfl
@[simp] theorem State.setPart_badPhys (s : State) (p : PartId) (x : Part) : (s.setPart p x).badPhys = s.badPhys := rfl
@[simp] theorem State.setPart_fgrs (s : State) (p : PartId) (x : Part) : (s.setPart p x).fgrs = s.fgrs := rfl
@[simp] theorem State.setPart_slots (s : State) (p : PartId) (x : Part) : (s.setPart p x).slots = s.slots := rfl
@[simp] theorem State.setPart_ctxs (s : State) (p : PartId) (x : Part) : (s.setPart p x).ctxs = s.ctxs := rfl
@[simp] theorem State.setPart_idxs (s : State) (p : PartId) (x : Part) : (s.setPart p x).idxs = s.idxs := rfl
@[simp] theorem State.setPart_mergeQ (s : State) (p : PartId) (x : Part) : (s.setPart p x).mergeQ = s.mergeQ := rfl
@[simp] theorem State.setPart_merge (s : State) (p : PartId) (x : Part) : (s.setPart p x).merge = s.merge := rfl
@[simp] theorem State.setPart_fab (s : State) (p : PartId) (x : Part) : (s.setPart p x).fab = s.fab := rfl
@[simp] theorem State.setPart_log (s : State) (p : PartId) (x : Part) : (s.setPart p x).log = s.log := rfl
@[simp] theorem State.setPart_out (s : State) (p : PartId) (x : Part) : (s.setPart p x).out = s.out := rfl
@[simp] theorem State.setPart_ctx (s : State) (p : PartId) (x : Part) (d : CtxId) : (s.setPart p x).ctx d = s.ctx d := rfl
@[simp] theorem State.setPart_index (s : State) (p : PartId) (x : Part) (j : IdxId) : (s.setPart p x).index j = s.index j := rfl
@[simp] theorem State.setPart_slot (s : State) (p : PartId) (x : Part) (l : SlotId) : (s.setPart p x).slot l = s.slot l := rfl
@[simp] theorem State.setPart_arr (s : State) (p : PartId) (x : Part) (b : ArrId) : (s.setPart p x).arr b = s.arr b := rfl
@[simp] theorem State.setPart_fgr (s : State) (p : PartId) (x : Part) (m : ChanId) : (s.setPart p x).fgr m = s.fgr m := rfl

/-! ## `State.setIndex` -/

@[simp] theorem State.setIndex_pending (s : State) (i : IdxId) (x : Idx) : (s.setIndex i x).pending = s.pending := rfl
@[simp] theorem State.setIndex_ready (s : State) (i : IdxId) (x : Idx) : (s.setIndex i x).ready = s.ready := rfl
@[simp] theorem State.setIndex_parked (s : State) (i : IdxId) (x : Idx) : (s.setIndex i x).parked = s.parked := rfl
@[simp] theorem State.setIndex_replay (s : State) (i : IdxId) (x : Idx) : (s.setIndex i x).replay = s.replay := rfl
@[simp] theorem State.setIndex_free (s : State) (i : IdxId) (x : Idx) : (s.setIndex i x).free = s.free := rfl
@[simp] theorem State.setIndex_otp (s : State) (i : IdxId) (x : Idx) : (s.setIndex i x).otp = s.otp := rfl
@[simp] theorem State.setIndex_pins (s : State) (i : IdxId) (x : Idx) : (s.setIndex i x).pins = s.pins := rfl
@[simp] theorem State.setIndex_rst (s : State) (i : IdxId) (x : Idx) : (s.setIndex i x).rst = s.rst := rfl
@[simp] theorem State.setIndex_sup (s : State) (i : IdxId) (x : Idx) : (s.setIndex i x).sup = s.sup := rfl
@[simp] theorem State.setIndex_bst (s : State) (i : IdxId) (x : Idx) : (s.setIndex i x).bst = s.bst := rfl
@[simp] theorem State.setIndex_fw (s : State) (i : IdxId) (x : Idx) : (s.setIndex i x).fw = s.fw := rfl
@[simp] theorem State.setIndex_time (s : State) (i : IdxId) (x : Idx) : (s.setIndex i x).time = s.time := rfl
@[simp] theorem State.setIndex_tel (s : State) (i : IdxId) (x : Idx) : (s.setIndex i x).tel = s.tel := rfl
@[simp] theorem State.setIndex_cal (s : State) (i : IdxId) (x : Idx) : (s.setIndex i x).cal = s.cal := rfl
@[simp] theorem State.setIndex_host (s : State) (i : IdxId) (x : Idx) : (s.setIndex i x).host = s.host := rfl
@[simp] theorem State.setIndex_nvm (s : State) (i : IdxId) (x : Idx) : (s.setIndex i x).nvm = s.nvm := rfl
@[simp] theorem State.setIndex_media (s : State) (i : IdxId) (x : Idx) : (s.setIndex i x).media = s.media := rfl
@[simp] theorem State.setIndex_tiers (s : State) (i : IdxId) (x : Idx) : (s.setIndex i x).tiers = s.tiers := rfl
@[simp] theorem State.setIndex_arrs (s : State) (i : IdxId) (x : Idx) : (s.setIndex i x).arrs = s.arrs := rfl
@[simp] theorem State.setIndex_badPhys (s : State) (i : IdxId) (x : Idx) : (s.setIndex i x).badPhys = s.badPhys := rfl
@[simp] theorem State.setIndex_fgrs (s : State) (i : IdxId) (x : Idx) : (s.setIndex i x).fgrs = s.fgrs := rfl
@[simp] theorem State.setIndex_slots (s : State) (i : IdxId) (x : Idx) : (s.setIndex i x).slots = s.slots := rfl
@[simp] theorem State.setIndex_ctxs (s : State) (i : IdxId) (x : Idx) : (s.setIndex i x).ctxs = s.ctxs := rfl
@[simp] theorem State.setIndex_parts (s : State) (i : IdxId) (x : Idx) : (s.setIndex i x).parts = s.parts := rfl
@[simp] theorem State.setIndex_mergeQ (s : State) (i : IdxId) (x : Idx) : (s.setIndex i x).mergeQ = s.mergeQ := rfl
@[simp] theorem State.setIndex_merge (s : State) (i : IdxId) (x : Idx) : (s.setIndex i x).merge = s.merge := rfl
@[simp] theorem State.setIndex_fab (s : State) (i : IdxId) (x : Idx) : (s.setIndex i x).fab = s.fab := rfl
@[simp] theorem State.setIndex_log (s : State) (i : IdxId) (x : Idx) : (s.setIndex i x).log = s.log := rfl
@[simp] theorem State.setIndex_out (s : State) (i : IdxId) (x : Idx) : (s.setIndex i x).out = s.out := rfl
@[simp] theorem State.setIndex_ctx (s : State) (i : IdxId) (x : Idx) (d : CtxId) : (s.setIndex i x).ctx d = s.ctx d := rfl
@[simp] theorem State.setIndex_part (s : State) (i : IdxId) (x : Idx) (q : PartId) : (s.setIndex i x).part q = s.part q := rfl
@[simp] theorem State.setIndex_slot (s : State) (i : IdxId) (x : Idx) (l : SlotId) : (s.setIndex i x).slot l = s.slot l := rfl
@[simp] theorem State.setIndex_arr (s : State) (i : IdxId) (x : Idx) (b : ArrId) : (s.setIndex i x).arr b = s.arr b := rfl
@[simp] theorem State.setIndex_fgr (s : State) (i : IdxId) (x : Idx) (m : ChanId) : (s.setIndex i x).fgr m = s.fgr m := rfl

/-! ## `State.setSlot` -/

@[simp] theorem State.setSlot_pending (s : State) (k : SlotId) (x : Slot) : (s.setSlot k x).pending = s.pending := rfl
@[simp] theorem State.setSlot_ready (s : State) (k : SlotId) (x : Slot) : (s.setSlot k x).ready = s.ready := rfl
@[simp] theorem State.setSlot_parked (s : State) (k : SlotId) (x : Slot) : (s.setSlot k x).parked = s.parked := rfl
@[simp] theorem State.setSlot_replay (s : State) (k : SlotId) (x : Slot) : (s.setSlot k x).replay = s.replay := rfl
@[simp] theorem State.setSlot_free (s : State) (k : SlotId) (x : Slot) : (s.setSlot k x).free = s.free := rfl
@[simp] theorem State.setSlot_otp (s : State) (k : SlotId) (x : Slot) : (s.setSlot k x).otp = s.otp := rfl
@[simp] theorem State.setSlot_pins (s : State) (k : SlotId) (x : Slot) : (s.setSlot k x).pins = s.pins := rfl
@[simp] theorem State.setSlot_rst (s : State) (k : SlotId) (x : Slot) : (s.setSlot k x).rst = s.rst := rfl
@[simp] theorem State.setSlot_sup (s : State) (k : SlotId) (x : Slot) : (s.setSlot k x).sup = s.sup := rfl
@[simp] theorem State.setSlot_bst (s : State) (k : SlotId) (x : Slot) : (s.setSlot k x).bst = s.bst := rfl
@[simp] theorem State.setSlot_fw (s : State) (k : SlotId) (x : Slot) : (s.setSlot k x).fw = s.fw := rfl
@[simp] theorem State.setSlot_time (s : State) (k : SlotId) (x : Slot) : (s.setSlot k x).time = s.time := rfl
@[simp] theorem State.setSlot_tel (s : State) (k : SlotId) (x : Slot) : (s.setSlot k x).tel = s.tel := rfl
@[simp] theorem State.setSlot_cal (s : State) (k : SlotId) (x : Slot) : (s.setSlot k x).cal = s.cal := rfl
@[simp] theorem State.setSlot_host (s : State) (k : SlotId) (x : Slot) : (s.setSlot k x).host = s.host := rfl
@[simp] theorem State.setSlot_nvm (s : State) (k : SlotId) (x : Slot) : (s.setSlot k x).nvm = s.nvm := rfl
@[simp] theorem State.setSlot_media (s : State) (k : SlotId) (x : Slot) : (s.setSlot k x).media = s.media := rfl
@[simp] theorem State.setSlot_tiers (s : State) (k : SlotId) (x : Slot) : (s.setSlot k x).tiers = s.tiers := rfl
@[simp] theorem State.setSlot_arrs (s : State) (k : SlotId) (x : Slot) : (s.setSlot k x).arrs = s.arrs := rfl
@[simp] theorem State.setSlot_badPhys (s : State) (k : SlotId) (x : Slot) : (s.setSlot k x).badPhys = s.badPhys := rfl
@[simp] theorem State.setSlot_fgrs (s : State) (k : SlotId) (x : Slot) : (s.setSlot k x).fgrs = s.fgrs := rfl
@[simp] theorem State.setSlot_ctxs (s : State) (k : SlotId) (x : Slot) : (s.setSlot k x).ctxs = s.ctxs := rfl
@[simp] theorem State.setSlot_parts (s : State) (k : SlotId) (x : Slot) : (s.setSlot k x).parts = s.parts := rfl
@[simp] theorem State.setSlot_idxs (s : State) (k : SlotId) (x : Slot) : (s.setSlot k x).idxs = s.idxs := rfl
@[simp] theorem State.setSlot_mergeQ (s : State) (k : SlotId) (x : Slot) : (s.setSlot k x).mergeQ = s.mergeQ := rfl
@[simp] theorem State.setSlot_merge (s : State) (k : SlotId) (x : Slot) : (s.setSlot k x).merge = s.merge := rfl
@[simp] theorem State.setSlot_fab (s : State) (k : SlotId) (x : Slot) : (s.setSlot k x).fab = s.fab := rfl
@[simp] theorem State.setSlot_log (s : State) (k : SlotId) (x : Slot) : (s.setSlot k x).log = s.log := rfl
@[simp] theorem State.setSlot_out (s : State) (k : SlotId) (x : Slot) : (s.setSlot k x).out = s.out := rfl
@[simp] theorem State.setSlot_ctx (s : State) (k : SlotId) (x : Slot) (d : CtxId) : (s.setSlot k x).ctx d = s.ctx d := rfl
@[simp] theorem State.setSlot_part (s : State) (k : SlotId) (x : Slot) (q : PartId) : (s.setSlot k x).part q = s.part q := rfl
@[simp] theorem State.setSlot_index (s : State) (k : SlotId) (x : Slot) (j : IdxId) : (s.setSlot k x).index j = s.index j := rfl
@[simp] theorem State.setSlot_arr (s : State) (k : SlotId) (x : Slot) (b : ArrId) : (s.setSlot k x).arr b = s.arr b := rfl
@[simp] theorem State.setSlot_fgr (s : State) (k : SlotId) (x : Slot) (m : ChanId) : (s.setSlot k x).fgr m = s.fgr m := rfl

/-! ## `State.setArr` -/

@[simp] theorem State.setArr_pending (s : State) (a : ArrId) (x : ArrSt) : (s.setArr a x).pending = s.pending := rfl
@[simp] theorem State.setArr_ready (s : State) (a : ArrId) (x : ArrSt) : (s.setArr a x).ready = s.ready := rfl
@[simp] theorem State.setArr_parked (s : State) (a : ArrId) (x : ArrSt) : (s.setArr a x).parked = s.parked := rfl
@[simp] theorem State.setArr_replay (s : State) (a : ArrId) (x : ArrSt) : (s.setArr a x).replay = s.replay := rfl
@[simp] theorem State.setArr_free (s : State) (a : ArrId) (x : ArrSt) : (s.setArr a x).free = s.free := rfl
@[simp] theorem State.setArr_otp (s : State) (a : ArrId) (x : ArrSt) : (s.setArr a x).otp = s.otp := rfl
@[simp] theorem State.setArr_pins (s : State) (a : ArrId) (x : ArrSt) : (s.setArr a x).pins = s.pins := rfl
@[simp] theorem State.setArr_rst (s : State) (a : ArrId) (x : ArrSt) : (s.setArr a x).rst = s.rst := rfl
@[simp] theorem State.setArr_sup (s : State) (a : ArrId) (x : ArrSt) : (s.setArr a x).sup = s.sup := rfl
@[simp] theorem State.setArr_bst (s : State) (a : ArrId) (x : ArrSt) : (s.setArr a x).bst = s.bst := rfl
@[simp] theorem State.setArr_fw (s : State) (a : ArrId) (x : ArrSt) : (s.setArr a x).fw = s.fw := rfl
@[simp] theorem State.setArr_time (s : State) (a : ArrId) (x : ArrSt) : (s.setArr a x).time = s.time := rfl
@[simp] theorem State.setArr_tel (s : State) (a : ArrId) (x : ArrSt) : (s.setArr a x).tel = s.tel := rfl
@[simp] theorem State.setArr_cal (s : State) (a : ArrId) (x : ArrSt) : (s.setArr a x).cal = s.cal := rfl
@[simp] theorem State.setArr_host (s : State) (a : ArrId) (x : ArrSt) : (s.setArr a x).host = s.host := rfl
@[simp] theorem State.setArr_nvm (s : State) (a : ArrId) (x : ArrSt) : (s.setArr a x).nvm = s.nvm := rfl
@[simp] theorem State.setArr_media (s : State) (a : ArrId) (x : ArrSt) : (s.setArr a x).media = s.media := rfl
@[simp] theorem State.setArr_tiers (s : State) (a : ArrId) (x : ArrSt) : (s.setArr a x).tiers = s.tiers := rfl
@[simp] theorem State.setArr_badPhys (s : State) (a : ArrId) (x : ArrSt) : (s.setArr a x).badPhys = s.badPhys := rfl
@[simp] theorem State.setArr_fgrs (s : State) (a : ArrId) (x : ArrSt) : (s.setArr a x).fgrs = s.fgrs := rfl
@[simp] theorem State.setArr_slots (s : State) (a : ArrId) (x : ArrSt) : (s.setArr a x).slots = s.slots := rfl
@[simp] theorem State.setArr_ctxs (s : State) (a : ArrId) (x : ArrSt) : (s.setArr a x).ctxs = s.ctxs := rfl
@[simp] theorem State.setArr_parts (s : State) (a : ArrId) (x : ArrSt) : (s.setArr a x).parts = s.parts := rfl
@[simp] theorem State.setArr_idxs (s : State) (a : ArrId) (x : ArrSt) : (s.setArr a x).idxs = s.idxs := rfl
@[simp] theorem State.setArr_mergeQ (s : State) (a : ArrId) (x : ArrSt) : (s.setArr a x).mergeQ = s.mergeQ := rfl
@[simp] theorem State.setArr_merge (s : State) (a : ArrId) (x : ArrSt) : (s.setArr a x).merge = s.merge := rfl
@[simp] theorem State.setArr_fab (s : State) (a : ArrId) (x : ArrSt) : (s.setArr a x).fab = s.fab := rfl
@[simp] theorem State.setArr_log (s : State) (a : ArrId) (x : ArrSt) : (s.setArr a x).log = s.log := rfl
@[simp] theorem State.setArr_out (s : State) (a : ArrId) (x : ArrSt) : (s.setArr a x).out = s.out := rfl
@[simp] theorem State.setArr_ctx (s : State) (a : ArrId) (x : ArrSt) (d : CtxId) : (s.setArr a x).ctx d = s.ctx d := rfl
@[simp] theorem State.setArr_part (s : State) (a : ArrId) (x : ArrSt) (q : PartId) : (s.setArr a x).part q = s.part q := rfl
@[simp] theorem State.setArr_index (s : State) (a : ArrId) (x : ArrSt) (j : IdxId) : (s.setArr a x).index j = s.index j := rfl
@[simp] theorem State.setArr_slot (s : State) (a : ArrId) (x : ArrSt) (l : SlotId) : (s.setArr a x).slot l = s.slot l := rfl
@[simp] theorem State.setArr_fgr (s : State) (a : ArrId) (x : ArrSt) (m : ChanId) : (s.setArr a x).fgr m = s.fgr m := rfl

/-! ## `State.setFgr` -/

@[simp] theorem State.setFgr_pending (s : State) (n : ChanId) (x : Fgr) : (s.setFgr n x).pending = s.pending := rfl
@[simp] theorem State.setFgr_ready (s : State) (n : ChanId) (x : Fgr) : (s.setFgr n x).ready = s.ready := rfl
@[simp] theorem State.setFgr_parked (s : State) (n : ChanId) (x : Fgr) : (s.setFgr n x).parked = s.parked := rfl
@[simp] theorem State.setFgr_replay (s : State) (n : ChanId) (x : Fgr) : (s.setFgr n x).replay = s.replay := rfl
@[simp] theorem State.setFgr_free (s : State) (n : ChanId) (x : Fgr) : (s.setFgr n x).free = s.free := rfl
@[simp] theorem State.setFgr_otp (s : State) (n : ChanId) (x : Fgr) : (s.setFgr n x).otp = s.otp := rfl
@[simp] theorem State.setFgr_pins (s : State) (n : ChanId) (x : Fgr) : (s.setFgr n x).pins = s.pins := rfl
@[simp] theorem State.setFgr_rst (s : State) (n : ChanId) (x : Fgr) : (s.setFgr n x).rst = s.rst := rfl
@[simp] theorem State.setFgr_sup (s : State) (n : ChanId) (x : Fgr) : (s.setFgr n x).sup = s.sup := rfl
@[simp] theorem State.setFgr_bst (s : State) (n : ChanId) (x : Fgr) : (s.setFgr n x).bst = s.bst := rfl
@[simp] theorem State.setFgr_fw (s : State) (n : ChanId) (x : Fgr) : (s.setFgr n x).fw = s.fw := rfl
@[simp] theorem State.setFgr_time (s : State) (n : ChanId) (x : Fgr) : (s.setFgr n x).time = s.time := rfl
@[simp] theorem State.setFgr_tel (s : State) (n : ChanId) (x : Fgr) : (s.setFgr n x).tel = s.tel := rfl
@[simp] theorem State.setFgr_cal (s : State) (n : ChanId) (x : Fgr) : (s.setFgr n x).cal = s.cal := rfl
@[simp] theorem State.setFgr_host (s : State) (n : ChanId) (x : Fgr) : (s.setFgr n x).host = s.host := rfl
@[simp] theorem State.setFgr_nvm (s : State) (n : ChanId) (x : Fgr) : (s.setFgr n x).nvm = s.nvm := rfl
@[simp] theorem State.setFgr_media (s : State) (n : ChanId) (x : Fgr) : (s.setFgr n x).media = s.media := rfl
@[simp] theorem State.setFgr_tiers (s : State) (n : ChanId) (x : Fgr) : (s.setFgr n x).tiers = s.tiers := rfl
@[simp] theorem State.setFgr_arrs (s : State) (n : ChanId) (x : Fgr) : (s.setFgr n x).arrs = s.arrs := rfl
@[simp] theorem State.setFgr_badPhys (s : State) (n : ChanId) (x : Fgr) : (s.setFgr n x).badPhys = s.badPhys := rfl
@[simp] theorem State.setFgr_slots (s : State) (n : ChanId) (x : Fgr) : (s.setFgr n x).slots = s.slots := rfl
@[simp] theorem State.setFgr_ctxs (s : State) (n : ChanId) (x : Fgr) : (s.setFgr n x).ctxs = s.ctxs := rfl
@[simp] theorem State.setFgr_parts (s : State) (n : ChanId) (x : Fgr) : (s.setFgr n x).parts = s.parts := rfl
@[simp] theorem State.setFgr_idxs (s : State) (n : ChanId) (x : Fgr) : (s.setFgr n x).idxs = s.idxs := rfl
@[simp] theorem State.setFgr_mergeQ (s : State) (n : ChanId) (x : Fgr) : (s.setFgr n x).mergeQ = s.mergeQ := rfl
@[simp] theorem State.setFgr_merge (s : State) (n : ChanId) (x : Fgr) : (s.setFgr n x).merge = s.merge := rfl
@[simp] theorem State.setFgr_fab (s : State) (n : ChanId) (x : Fgr) : (s.setFgr n x).fab = s.fab := rfl
@[simp] theorem State.setFgr_log (s : State) (n : ChanId) (x : Fgr) : (s.setFgr n x).log = s.log := rfl
@[simp] theorem State.setFgr_out (s : State) (n : ChanId) (x : Fgr) : (s.setFgr n x).out = s.out := rfl
@[simp] theorem State.setFgr_ctx (s : State) (n : ChanId) (x : Fgr) (d : CtxId) : (s.setFgr n x).ctx d = s.ctx d := rfl
@[simp] theorem State.setFgr_part (s : State) (n : ChanId) (x : Fgr) (q : PartId) : (s.setFgr n x).part q = s.part q := rfl
@[simp] theorem State.setFgr_index (s : State) (n : ChanId) (x : Fgr) (j : IdxId) : (s.setFgr n x).index j = s.index j := rfl
@[simp] theorem State.setFgr_slot (s : State) (n : ChanId) (x : Fgr) (l : SlotId) : (s.setFgr n x).slot l = s.slot l := rfl
@[simp] theorem State.setFgr_arr (s : State) (n : ChanId) (x : Fgr) (b : ArrId) : (s.setFgr n x).arr b = s.arr b := rfl

/-! ## `State.draw` -/

@[simp] theorem State.draw_pending (s : State) (n : Nat) : (s.draw n).pending = s.pending := rfl
@[simp] theorem State.draw_ready (s : State) (n : Nat) : (s.draw n).ready = s.ready := rfl
@[simp] theorem State.draw_parked (s : State) (n : Nat) : (s.draw n).parked = s.parked := rfl
@[simp] theorem State.draw_replay (s : State) (n : Nat) : (s.draw n).replay = s.replay := rfl
@[simp] theorem State.draw_otp (s : State) (n : Nat) : (s.draw n).otp = s.otp := rfl
@[simp] theorem State.draw_pins (s : State) (n : Nat) : (s.draw n).pins = s.pins := rfl
@[simp] theorem State.draw_rst (s : State) (n : Nat) : (s.draw n).rst = s.rst := rfl
@[simp] theorem State.draw_sup (s : State) (n : Nat) : (s.draw n).sup = s.sup := rfl
@[simp] theorem State.draw_bst (s : State) (n : Nat) : (s.draw n).bst = s.bst := rfl
@[simp] theorem State.draw_fw (s : State) (n : Nat) : (s.draw n).fw = s.fw := rfl
@[simp] theorem State.draw_time (s : State) (n : Nat) : (s.draw n).time = s.time := rfl
@[simp] theorem State.draw_tel (s : State) (n : Nat) : (s.draw n).tel = s.tel := rfl
@[simp] theorem State.draw_cal (s : State) (n : Nat) : (s.draw n).cal = s.cal := rfl
@[simp] theorem State.draw_host (s : State) (n : Nat) : (s.draw n).host = s.host := rfl
@[simp] theorem State.draw_nvm (s : State) (n : Nat) : (s.draw n).nvm = s.nvm := rfl
@[simp] theorem State.draw_media (s : State) (n : Nat) : (s.draw n).media = s.media := rfl
@[simp] theorem State.draw_tiers (s : State) (n : Nat) : (s.draw n).tiers = s.tiers := rfl
@[simp] theorem State.draw_arrs (s : State) (n : Nat) : (s.draw n).arrs = s.arrs := rfl
@[simp] theorem State.draw_badPhys (s : State) (n : Nat) : (s.draw n).badPhys = s.badPhys := rfl
@[simp] theorem State.draw_fgrs (s : State) (n : Nat) : (s.draw n).fgrs = s.fgrs := rfl
@[simp] theorem State.draw_slots (s : State) (n : Nat) : (s.draw n).slots = s.slots := rfl
@[simp] theorem State.draw_ctxs (s : State) (n : Nat) : (s.draw n).ctxs = s.ctxs := rfl
@[simp] theorem State.draw_parts (s : State) (n : Nat) : (s.draw n).parts = s.parts := rfl
@[simp] theorem State.draw_idxs (s : State) (n : Nat) : (s.draw n).idxs = s.idxs := rfl
@[simp] theorem State.draw_mergeQ (s : State) (n : Nat) : (s.draw n).mergeQ = s.mergeQ := rfl
@[simp] theorem State.draw_merge (s : State) (n : Nat) : (s.draw n).merge = s.merge := rfl
@[simp] theorem State.draw_fab (s : State) (n : Nat) : (s.draw n).fab = s.fab := rfl
@[simp] theorem State.draw_log (s : State) (n : Nat) : (s.draw n).log = s.log := rfl
@[simp] theorem State.draw_out (s : State) (n : Nat) : (s.draw n).out = s.out := rfl
@[simp] theorem State.draw_ctx (s : State) (n : Nat) (d : CtxId) : (s.draw n).ctx d = s.ctx d := rfl
@[simp] theorem State.draw_part (s : State) (n : Nat) (q : PartId) : (s.draw n).part q = s.part q := rfl
@[simp] theorem State.draw_index (s : State) (n : Nat) (j : IdxId) : (s.draw n).index j = s.index j := rfl
@[simp] theorem State.draw_slot (s : State) (n : Nat) (l : SlotId) : (s.draw n).slot l = s.slot l := rfl
@[simp] theorem State.draw_arr (s : State) (n : Nat) (b : ArrId) : (s.draw n).arr b = s.arr b := rfl
@[simp] theorem State.draw_fgr (s : State) (n : Nat) (m : ChanId) : (s.draw n).fgr m = s.fgr m := rfl

/-! ## `State.tickSeq` -/

@[simp] theorem State.tickSeq_pending (s : State) : (s.tickSeq).pending = s.pending := rfl
@[simp] theorem State.tickSeq_ready (s : State) : (s.tickSeq).ready = s.ready := rfl
@[simp] theorem State.tickSeq_parked (s : State) : (s.tickSeq).parked = s.parked := rfl
@[simp] theorem State.tickSeq_replay (s : State) : (s.tickSeq).replay = s.replay := rfl
@[simp] theorem State.tickSeq_free (s : State) : (s.tickSeq).free = s.free := rfl
@[simp] theorem State.tickSeq_otp (s : State) : (s.tickSeq).otp = s.otp := rfl
@[simp] theorem State.tickSeq_pins (s : State) : (s.tickSeq).pins = s.pins := rfl
@[simp] theorem State.tickSeq_rst (s : State) : (s.tickSeq).rst = s.rst := rfl
@[simp] theorem State.tickSeq_sup (s : State) : (s.tickSeq).sup = s.sup := rfl
@[simp] theorem State.tickSeq_bst (s : State) : (s.tickSeq).bst = s.bst := rfl
@[simp] theorem State.tickSeq_fw (s : State) : (s.tickSeq).fw = s.fw := rfl
@[simp] theorem State.tickSeq_tel (s : State) : (s.tickSeq).tel = s.tel := rfl
@[simp] theorem State.tickSeq_cal (s : State) : (s.tickSeq).cal = s.cal := rfl
@[simp] theorem State.tickSeq_host (s : State) : (s.tickSeq).host = s.host := rfl
@[simp] theorem State.tickSeq_nvm (s : State) : (s.tickSeq).nvm = s.nvm := rfl
@[simp] theorem State.tickSeq_media (s : State) : (s.tickSeq).media = s.media := rfl
@[simp] theorem State.tickSeq_tiers (s : State) : (s.tickSeq).tiers = s.tiers := rfl
@[simp] theorem State.tickSeq_arrs (s : State) : (s.tickSeq).arrs = s.arrs := rfl
@[simp] theorem State.tickSeq_badPhys (s : State) : (s.tickSeq).badPhys = s.badPhys := rfl
@[simp] theorem State.tickSeq_fgrs (s : State) : (s.tickSeq).fgrs = s.fgrs := rfl
@[simp] theorem State.tickSeq_slots (s : State) : (s.tickSeq).slots = s.slots := rfl
@[simp] theorem State.tickSeq_ctxs (s : State) : (s.tickSeq).ctxs = s.ctxs := rfl
@[simp] theorem State.tickSeq_parts (s : State) : (s.tickSeq).parts = s.parts := rfl
@[simp] theorem State.tickSeq_idxs (s : State) : (s.tickSeq).idxs = s.idxs := rfl
@[simp] theorem State.tickSeq_mergeQ (s : State) : (s.tickSeq).mergeQ = s.mergeQ := rfl
@[simp] theorem State.tickSeq_merge (s : State) : (s.tickSeq).merge = s.merge := rfl
@[simp] theorem State.tickSeq_fab (s : State) : (s.tickSeq).fab = s.fab := rfl
@[simp] theorem State.tickSeq_log (s : State) : (s.tickSeq).log = s.log := rfl
@[simp] theorem State.tickSeq_out (s : State) : (s.tickSeq).out = s.out := rfl
@[simp] theorem State.tickSeq_ctx (s : State) (d : CtxId) : (s.tickSeq).ctx d = s.ctx d := rfl
@[simp] theorem State.tickSeq_part (s : State) (q : PartId) : (s.tickSeq).part q = s.part q := rfl
@[simp] theorem State.tickSeq_index (s : State) (j : IdxId) : (s.tickSeq).index j = s.index j := rfl
@[simp] theorem State.tickSeq_slot (s : State) (l : SlotId) : (s.tickSeq).slot l = s.slot l := rfl
@[simp] theorem State.tickSeq_arr (s : State) (b : ArrId) : (s.tickSeq).arr b = s.arr b := rfl
@[simp] theorem State.tickSeq_fgr (s : State) (m : ChanId) : (s.tickSeq).fgr m = s.fgr m := rfl

/-! ## Read after write -/

@[simp] theorem State.ctx_setCtx_same (s : State) (c : CtxId) (x : Ctx) : (s.setCtx c x).ctx c = x := by simp [State.setCtx, State.ctx]
theorem State.ctx_setCtx_other (s : State) (c : CtxId) (x : Ctx) (d : CtxId) (h : d ≠ c) : (s.setCtx c x).ctx d = s.ctx d := by
  have h' : c.val ≠ d.val := fun e => h (Fin.ext e.symm)
  simp [State.setCtx, State.ctx, h']
@[simp] theorem State.setCtx_setCtx (s : State) (c : CtxId) (x : Ctx) (y : Ctx) : (s.setCtx c x).setCtx c y = s.setCtx c y := by simp [State.setCtx]
@[simp] theorem State.setCtx_self (s : State) (c : CtxId) : s.setCtx c (s.ctx c) = s := by simp [State.setCtx, State.ctx]

@[simp] theorem State.part_setPart_same (s : State) (p : PartId) (x : Part) : (s.setPart p x).part p = x := by simp [State.setPart, State.part]
theorem State.part_setPart_other (s : State) (p : PartId) (x : Part) (q : PartId) (h : q ≠ p) : (s.setPart p x).part q = s.part q := by
  have h' : p.val ≠ q.val := fun e => h (Fin.ext e.symm)
  simp [State.setPart, State.part, h']
@[simp] theorem State.setPart_setPart (s : State) (p : PartId) (x : Part) (y : Part) : (s.setPart p x).setPart p y = s.setPart p y := by simp [State.setPart]
@[simp] theorem State.setPart_self (s : State) (p : PartId) : s.setPart p (s.part p) = s := by simp [State.setPart, State.part]

@[simp] theorem State.index_setIndex_same (s : State) (i : IdxId) (x : Idx) : (s.setIndex i x).index i = x := by simp [State.setIndex, State.index]
theorem State.index_setIndex_other (s : State) (i : IdxId) (x : Idx) (j : IdxId) (h : j ≠ i) : (s.setIndex i x).index j = s.index j := by
  have h' : i.val ≠ j.val := fun e => h (Fin.ext e.symm)
  simp [State.setIndex, State.index, h']
@[simp] theorem State.setIndex_setIndex (s : State) (i : IdxId) (x : Idx) (y : Idx) : (s.setIndex i x).setIndex i y = s.setIndex i y := by simp [State.setIndex]
@[simp] theorem State.setIndex_self (s : State) (i : IdxId) : s.setIndex i (s.index i) = s := by simp [State.setIndex, State.index]

@[simp] theorem State.slot_setSlot_same (s : State) (k : SlotId) (x : Slot) : (s.setSlot k x).slot k = x := by simp [State.setSlot, State.slot]
theorem State.slot_setSlot_other (s : State) (k : SlotId) (x : Slot) (l : SlotId) (h : l ≠ k) : (s.setSlot k x).slot l = s.slot l := by
  have h' : k.val ≠ l.val := fun e => h (Fin.ext e.symm)
  simp [State.setSlot, State.slot, h']
@[simp] theorem State.setSlot_setSlot (s : State) (k : SlotId) (x : Slot) (y : Slot) : (s.setSlot k x).setSlot k y = s.setSlot k y := by simp [State.setSlot]
@[simp] theorem State.setSlot_self (s : State) (k : SlotId) : s.setSlot k (s.slot k) = s := by simp [State.setSlot, State.slot]

@[simp] theorem State.arr_setArr_same (s : State) (a : ArrId) (x : ArrSt) : (s.setArr a x).arr a = x := by simp [State.setArr, State.arr]
theorem State.arr_setArr_other (s : State) (a : ArrId) (x : ArrSt) (b : ArrId) (h : b ≠ a) : (s.setArr a x).arr b = s.arr b := by
  have h' : a.val ≠ b.val := fun e => h (Fin.ext e.symm)
  simp [State.setArr, State.arr, h']
@[simp] theorem State.setArr_setArr (s : State) (a : ArrId) (x : ArrSt) (y : ArrSt) : (s.setArr a x).setArr a y = s.setArr a y := by simp [State.setArr]
@[simp] theorem State.setArr_self (s : State) (a : ArrId) : s.setArr a (s.arr a) = s := by simp [State.setArr, State.arr]

@[simp] theorem State.fgr_setFgr_same (s : State) (n : ChanId) (x : Fgr) : (s.setFgr n x).fgr n = x := by simp [State.setFgr, State.fgr]
theorem State.fgr_setFgr_other (s : State) (n : ChanId) (x : Fgr) (m : ChanId) (h : m ≠ n) : (s.setFgr n x).fgr m = s.fgr m := by
  have h' : n.val ≠ m.val := fun e => h (Fin.ext e.symm)
  simp [State.setFgr, State.fgr, h']
@[simp] theorem State.setFgr_setFgr (s : State) (n : ChanId) (x : Fgr) (y : Fgr) : (s.setFgr n x).setFgr n y = s.setFgr n y := by simp [State.setFgr]
@[simp] theorem State.setFgr_self (s : State) (n : ChanId) : s.setFgr n (s.fgr n) = s := by simp [State.setFgr, State.fgr]

end Sys2Proof.Machine
end

