-- ==== Sys2Proof/Laws/Ops.lean ====
section
/-! SUPPORT. What the shared operations do, said once: completions and notifications, the event log, the gate of host
commands, the issue and the end of an instruction, and its accesses. -/

namespace Sys2Proof.Machine

/-! ## Completions and notifications -/

@[simp] theorem lastStatus_complete (s : State) (h : Hdr) (st : Status) (a b : BitVec 32) (d : Bytes) :
    lastStatus (complete s h st a b d) = some (h.sq, h.cid, st) := rfl

@[simp] theorem lastStatus_completeSt (s : State) (h : Hdr) (st : Status) :
    lastStatus (completeSt s h st) = some (h.sq, h.cid, st) := rfl

/-- A completion changes nothing but the list of completions. -/
theorem complete_eq (s : State) (h : Hdr) (st : Status) (a b : BitVec 32) (d : Bytes) :
    complete s h st a b d = { s with out := { s.out with cpls :=
      { sq := h.sq, cid := h.cid, port := h.port, st := st, dw0 := a, dw1 := b, data := d } :: s.out.cpls } } := rfl

/-- A posted notification changes nothing but the host's lists of notifications and requests and the list of completions. -/
theorem postNote_cases (s : State) (w : BitVec 32) :
    ∃ n m q o, postNote s w = { s with host := { s.host with notes := n, masked := m, aers := q }, out := { s.out with cpls := o } } := by
  unfold postNote
  split
  · exact ⟨_, _, _, _, rfl⟩
  · split <;> exact ⟨_, _, _, _, rfl⟩

/-- A notification changes no more than a posted one. -/
theorem notify_cases (s : State) (w : BitVec 32) :
    ∃ n m q o, notify s w = { s with host := { s.host with notes := n, masked := m, aers := q }, out := { s.out with cpls := o } } := by
  unfold notify
  split
  · exact ⟨s.host.notes, s.host.masked, s.host.aers, s.out.cpls, rfl⟩
  · exact postNote_cases s w

/-- Logging keeps the log a ring of 1,024 entries (R492). -/
theorem logFault_logOk (s : State) (a b : BitVec 8) (u : BitVec 16) (o : BitVec 8) (d e : BitVec 64) (h : logOk s) :
    logOk (logFault s a b u o d e) := by
  obtain ⟨n, m, q, p, hn⟩ := notify_cases
    { (s.tickSeq) with log :=
      { ents := (if decide (1024 ≤ s.log.ents.length) then s.log.ents.drop 1 else s.log.ents) ++
          [{ stamp := stampOf s, seq := s.time.seq, cls := a, scope := b, unit := u, outcome := o,
             sup := BitVec.ofNat 8 s.sup.holder.val, epoch := s.sup.epoch, d0 := d, d1 := e }]
        ovf := if decide (1024 ≤ s.log.ents.length) then satInc s.log.ovf else s.log.ovf
        next := BitVec.ofNat 16 ((s.log.next.toNat + 1) % 1024) } } (vendorNote 0xC2)
  have hl : logFault s a b u o d e = _ := hn
  rw [hl]
  obtain ⟨h1, h2⟩ := h
  refine ⟨?_, ?_⟩
  · by_cases hf : 1024 ≤ s.log.ents.length <;> simp [hf] <;> omega
  · simp only [BitVec.toNat_ofNat]
    omega

/-! ## Host commands -/

/-- A command that is taken up runs on the state in which its fetch has been noted, where the range-lock table has room for it or
it needs no entry (R329, R420). -/
theorem hostCmd_locked {s : State} {h : Hdr} {k : Cls} (i : Instr) (f : State → State) (ha : accepts s h k = true)
    (hl : lockNeed i = none ∨ hasEntry s h = true ∨ locksUsed s < 1024) : hostCmd s h k i f = .next (f (fetchPair s h i)) := by
  simp only [accepts, Bool.and_eq_true, Bool.not_eq_true', beq_iff_eq] at ha
  obtain ⟨⟨⟨⟨⟨⟨⟨⟨h1, h2⟩, h3⟩, h4⟩, h8⟩, h5⟩, h6⟩, h7⟩, h9⟩ := ha
  have h2' : (!s.replay && !s.ready.isEmpty) = false := by
    cases hr : s.replay <;> cases he : s.ready.isEmpty <;> simp_all
  have hu : unfetched s h i = false := by
    have hx : ((lockNeed i).isSome && !hasEntry s h && decide (1024 ≤ locksUsed s)) = false := by
      rcases hl with hl | hl | hl
      · simp [hl]
      · simp [hl]
      · simp [Nat.not_le.mpr hl]
    unfold unfetched
    rw [hx, Bool.or_false]
    exact h9
  simp [hostCmd, h1, h2', h3, h4, h5, h6, h7, h8, hu]

/-- The same for a command that needs no entry: its number has been issued at its fetch (R329). -/
theorem hostCmd_accepts {s : State} {h : Hdr} {k : Cls} (i : Instr) (f : State → State) (ha : accepts s h k = true)
    (hn : lockNeed i = none) : hostCmd s h k i f = .next (f (s.fetchSeq h)) := by
  rw [hostCmd_locked i f ha (.inl hn)]
  simp [fetchPair, hn]

/-- Stages of R403 none of which fails. -/
theorem stages_pass {s : State} {h : Hdr} {l : List (Bool × Status)} (f : State → State)
    (hl : l.all (fun p => !p.1) = true) : stages s h l f = f s := by
  have : l.find? (fun p => p.1) = none := by
    rw [List.find?_eq_none]
    intro p hp
    have := List.all_eq_true.1 hl p hp
    simpa using this
  simp [stages, this]

/-! ## Issue and end of an instruction -/

/-- An instruction that executes runs its body. -/
theorem issue_runs {s : State} {c : CtxId} {w : Insn} {lanes : Bool} {chk : List Iss} (body : State → State)
    (h : issues s c w lanes chk = true) : issue s c w lanes chk body = body s := by
  simp only [issues, Bool.and_eq_true, beq_iff_eq, Option.isNone_iff_eq_none] at h
  obtain ⟨⟨⟨h1, h2⟩, h3⟩, h4⟩ := h
  have h4' : (!lanes && !executes (s.ctx c) w) = false := by
    cases lanes <;> simp_all
  simp [issue, h1, h2, h3, h4']

/-- An instruction without flags ends by moving on, and changes nothing but its context (R87, R102). -/
theorem finishInsn_calm {s : State} {c : CtxId} (h : calm (s.ctx c) = true) :
    finishInsn s c 0 = s.setCtx c (advance (s.ctx c)) := by
  simp only [calm, Bool.and_eq_true, Bool.not_eq_true'] at h
  obtain ⟨⟨h2, h3⟩, h4⟩ := h
  have hn : newEvents (s.ctx c) 0 = [] := by simp [newEvents]
  have hr : recordFlags s c 0 = s := by
    have h0 : (s.ctx c).flags ||| (0 : BitVec 6) = (s.ctx c).flags := BitVec.or_zero
    have hx : s.setCtx c { s.ctx c with flags := (s.ctx c).flags ||| (0 : BitVec 6) } = s := by
      rw [h0]
      exact State.setCtx_self s c
    unfold recordFlags
    simp only [hn, List.foldl_nil]
    exact hx
  unfold finishInsn
  simp only [hr]
  have ht : trapping (s.ctx c) 0 = 0 := by simp [trapping]
  have hd : { s.ctx c with degTrap := false, degNow := false, numTrap := false } = s.ctx c := by
    generalize s.ctx c = x at *
    cases x
    simp only at h2 h3 h4
    subst h2 h3 h4
    rfl
  rw [ht, if_neg (by simp [h4]), hd]
  simp [h2]

/-! ## Accesses -/

theorem gatePrefs_clear (c : CtxId) (l : List Range) (s : State) :
    ∀ ps : List (Nat × Pref), (ps.any fun p => prefStands l p.2) = false → gatePrefs c l ps s = .go s := by
  intro ps
  induction ps with
  | nil => intro _; rfl
  | cons p t ih =>
    intro h
    simp only [List.any_cons, Bool.or_eq_false_iff] at h
    obtain ⟨i, q⟩ := p
    simp only [gatePrefs]
    rw [if_pos (by simpa using h.1)]
    exact ih h.2

theorem numbered_any (l : List Pref) (f : Pref → Bool) : (numbered l).any (fun p => f p.2) = l.any f := by
  have : (numbered l).map Prod.snd = l := by
    unfold numbered
    rw [List.map_snd_zip]
    simp
  conv_rhs => rw [← this]
  rw [List.any_map]
  rfl

/-- Where nothing stands in the way, an access runs its body. -/
theorem access_opened {s s0 : State} {c : CtxId} {rd wr : List Seg} (body : State → State)
    (h : opened s c rd wr = some s0) : access s c rd wr body = body s0 := by
  unfold opened at h
  simp only at h
  split at h
  · cases h
  · next hc =>
    simp only [Bool.or_eq_true, not_or, Bool.not_eq_true, Option.isSome_eq_false_iff, Option.isNone_iff_eq_none] at hc
    obtain ⟨⟨hb, hp⟩, hq⟩ := hc
    unfold access accessAs
    simp only [hb]
    have hg : gatePrefs c (devRanges s (s.ctx c) (rd ++ wr)) (numbered (s.ctx c).prefs) s = .go s :=
      gatePrefs_clear _ _ _ _ ((numbered_any _ _).trans hp)
    rw [hg]
    have hf : rd.find? (segPoison s (s.ctx c)) = none := by
      rw [List.find?_eq_none]
      intro g hg
      have := List.any_eq_false.1 hq g hg
      simpa using this
    simp only [hf]
    cases ht : touchRanges s (devRanges s (s.ctx c) (rd ++ wr)) with
    | none => rw [ht] at h; cases h
    | some s2 =>
      rw [ht] at h
      simp only at h ⊢
      split at h
      · cases h
      · next h2 =>
        split at h
        · cases h
        · next hd =>
          cases h
          have hf2 : rd.find? (segPoison s2 (s2.ctx c)) = none := by
            rw [List.find?_eq_none]
            intro g hg
            simpa using List.any_eq_false.1 (by simpa using h2) g hg
          simp only [Bool.or_eq_true, not_or, Bool.not_eq_true, Bool.not_eq_false'] at hd
          obtain ⟨⟨⟨hd1, hd0⟩, hd2⟩, hd3⟩ := hd
          simp only [hf2]
          rw [if_neg (by simp [hd0, hd2]), if_neg (by simp [hd1]), if_neg (by simp [hd3])]

/-! ## Frames -/

/-- A free Tier N frame is found only in a stack of the mask that has one (R318). -/
theorem freeStack_mask {s : State} {mask : BitVec 4} {k : Fin 4} (h : freeStack s mask = some k) :
    mask.getLsbD k.val = true ∧ 0 < s.tiers.freeN[k] := by
  have key : k ∈ ((List.finRange 4).filter fun k => mask.getLsbD k.val && decide (0 < s.tiers.freeN[k])) → _ :=
    fun hk => by simpa using (List.mem_filter.mp hk).2
  unfold freeStack at h
  split at h
  · cases h
  · next a e => exact key (by rw [e]; cases h; exact List.mem_singleton.mpr rfl)
  · next a l _ e =>
    refine key ?_
    rw [e]; cases h
    rw [List.getD_eq_getElem _ _ (by simpa using Nat.mod_lt _ (Nat.succ_pos _))]
    exact List.getElem_mem _

end Sys2Proof.Machine
end

