-- ==== Sys2Proof/Laws/PerInstr.lean ====
section
/-! SUPPORT. One lemma for each command: which opcode the command issues, and what the fields of its word read back as. -/

namespace Sys2Proof.Laws.Opcode

/-- Whether a command is the row of the reserved opcodes (R96). -/
def isReserved : Instr → Bool
  | .reservedOpcode _ _ _ => true
  | _ => false

/-- The opcode that a well-formed command issues is reserved exactly when the command is the row of the reserved opcodes,
and the word it issues holds that opcode (R85, R96). A command that issues no instruction has no word. -/
def Statement (i : Instr) : Prop :=
  i.wf = true →
    match colordParts i with
    | some (_, o, w) => opcReserved o = isReserved i ∧ encodeColord i = some (insnWord o w)
    | none => encodeColord i = none

theorem loop (c : CtxId) (w : Insn) : Statement (.loop c w) :=
  fun _ => ⟨rfl, rfl⟩

theorem br (c : CtxId) (w : Insn) : Statement (.br c w) :=
  fun _ => ⟨rfl, rfl⟩

theorem call (c : CtxId) (w : Insn) : Statement (.call c w) :=
  fun _ => ⟨rfl, rfl⟩

theorem ret (c : CtxId) (w : Insn) : Statement (.ret c w) :=
  fun _ => ⟨rfl, rfl⟩

theorem waitt (c : CtxId) (w : Insn) : Statement (.waitt c w) :=
  fun _ => ⟨rfl, rfl⟩

theorem waittExpiry (c : CtxId) : Statement (.waittExpiry c) :=
  fun _ => rfl

theorem bar (c : CtxId) (w : Insn) : Statement (.bar c w) :=
  fun _ => ⟨rfl, rfl⟩

theorem barRelease (c : CtxId) : Statement (.barRelease c) :=
  fun _ => rfl

theorem fence (c : CtxId) (w : Insn) : Statement (.fence c w) :=
  fun _ => ⟨rfl, rfl⟩

theorem add (c : CtxId) (w : Insn) : Statement (.add c w) :=
  fun _ => ⟨rfl, rfl⟩

theorem sub (c : CtxId) (w : Insn) : Statement (.sub c w) :=
  fun _ => ⟨rfl, rfl⟩

theorem mul (c : CtxId) (w : Insn) : Statement (.mul c w) :=
  fun _ => ⟨rfl, rfl⟩

theorem and (c : CtxId) (w : Insn) : Statement (.and c w) :=
  fun _ => ⟨rfl, rfl⟩

theorem or (c : CtxId) (w : Insn) : Statement (.or c w) :=
  fun _ => ⟨rfl, rfl⟩

theorem xor (c : CtxId) (w : Insn) : Statement (.xor c w) :=
  fun _ => ⟨rfl, rfl⟩

theorem shl (c : CtxId) (w : Insn) : Statement (.shl c w) :=
  fun _ => ⟨rfl, rfl⟩

theorem shr (c : CtxId) (w : Insn) : Statement (.shr c w) :=
  fun _ => ⟨rfl, rfl⟩

theorem sra (c : CtxId) (w : Insn) : Statement (.sra c w) :=
  fun _ => ⟨rfl, rfl⟩

theorem minu (c : CtxId) (w : Insn) : Statement (.minu c w) :=
  fun _ => ⟨rfl, rfl⟩

theorem maxu (c : CtxId) (w : Insn) : Statement (.maxu c w) :=
  fun _ => ⟨rfl, rfl⟩

theorem cmp (c : CtxId) (w : Insn) : Statement (.cmp c w) :=
  fun _ => ⟨rfl, rfl⟩

theorem ldi (c : CtxId) (w : Insn) : Statement (.ldi c w) :=
  fun _ => ⟨rfl, rfl⟩

theorem pmov (c : CtxId) (w : Insn) : Statement (.pmov c w) :=
  fun _ => ⟨rfl, rfl⟩

theorem lds (c : CtxId) (w : Insn) : Statement (.lds c w) :=
  fun _ => ⟨rfl, rfl⟩

theorem sts (c : CtxId) (w : Insn) : Statement (.sts c w) :=
  fun _ => ⟨rfl, rfl⟩

theorem mma (c : CtxId) (w : Insn) : Statement (.mma c w) :=
  fun _ => ⟨rfl, rfl⟩

theorem dist (c : CtxId) (w : Insn) : Statement (.dist c w) :=
  fun _ => ⟨rfl, rfl⟩

theorem cmpk (c : CtxId) (w : Insn) : Statement (.cmpk c w) :=
  fun _ => ⟨rfl, rfl⟩

theorem topk (c : CtxId) (w : Insn) : Statement (.topk c w) :=
  fun _ => ⟨rfl, rfl⟩

theorem req (c : CtxId) (w : Insn) : Statement (.req c w) :=
  fun _ => ⟨rfl, rfl⟩

theorem srnd (c : CtxId) (w : Insn) : Statement (.srnd c w) :=
  fun _ => ⟨rfl, rfl⟩

theorem updw (c : CtxId) (w : Insn) : Statement (.updw c w) :=
  fun _ => ⟨rfl, rfl⟩

theorem ldt (c : CtxId) (w : Insn) : Statement (.ldt c w) :=
  fun _ => ⟨rfl, rfl⟩

theorem stt (c : CtxId) (w : Insn) : Statement (.stt c w) :=
  fun _ => ⟨rfl, rfl⟩

theorem gath (c : CtxId) (w : Insn) : Statement (.gath c w) :=
  fun _ => ⟨rfl, rfl⟩

theorem pref (c : CtxId) (w : Insn) : Statement (.pref c w) :=
  fun _ => ⟨rfl, rfl⟩

theorem prefMoveComplete (c : CtxId) (i : Nat) : Statement (.prefMoveComplete c i) :=
  fun _ => rfl

theorem prefFallback (c : CtxId) : Statement (.prefFallback c) :=
  fun _ => rfl

theorem scan (c : CtxId) (w : Insn) : Statement (.scan c w) :=
  fun _ => ⟨rfl, rfl⟩

theorem foragerReturn (c : CtxId) : Statement (.foragerReturn c) :=
  fun _ => rfl

theorem pgrdLba (c : CtxId) (w : Insn) : Statement (.pgrdLba c w) :=
  fun _ => ⟨rfl, rfl⟩

theorem pgrdVectors (c : CtxId) (w : Insn) : Statement (.pgrdVectors c w) :=
  fun _ => ⟨rfl, rfl⟩

theorem pgrdBrood (c : CtxId) (w : Insn) : Statement (.pgrdBrood c w) :=
  fun _ => ⟨rfl, rfl⟩

theorem apnd (c : CtxId) (w : Insn) : Statement (.apnd c w) :=
  fun _ => ⟨rfl, rfl⟩

theorem apndResume (c : CtxId) : Statement (.apndResume c) :=
  fun _ => rfl

theorem send (c : CtxId) (w : Insn) : Statement (.send c w) :=
  fun _ => ⟨rfl, rfl⟩

theorem recv (c : CtxId) (w : Insn) : Statement (.recv c w) :=
  fun _ => ⟨rfl, rfl⟩

theorem lease (c : CtxId) (w : Insn) : Statement (.lease c w) :=
  fun _ => ⟨rfl, rfl⟩

theorem leaseRelease (c : CtxId) (w : Insn) : Statement (.leaseRelease c w) :=
  fun _ => ⟨rfl, rfl⟩

theorem setpTrapMask (c : CtxId) (w : Insn) : Statement (.setpTrapMask c w) :=
  fun _ => ⟨rfl, rfl⟩

theorem setpRatioBand (c : CtxId) (w : Insn) : Statement (.setpRatioBand c w) :=
  fun _ => ⟨rfl, rfl⟩

theorem setpRatioBandRemoval (c : CtxId) (w : Insn) : Statement (.setpRatioBandRemoval c w) :=
  fun _ => ⟨rfl, rfl⟩

theorem setpDefaultDeadline (c : CtxId) (w : Insn) : Statement (.setpDefaultDeadline c w) :=
  fun _ => ⟨rfl, rfl⟩

theorem evt (c : CtxId) (w : Insn) : Statement (.evt c w) :=
  fun _ => ⟨rfl, rfl⟩

theorem reservedOpcode (c : CtxId) (opc : BitVec 8) (w : Insn) : Statement (.reservedOpcode c opc w) :=
  fun h => ⟨by simpa [Instr.wf, formWf, dataWf, rowWf, isReserved] using h, rfl⟩

theorem stepLimit (c : CtxId) : Statement (.stepLimit c) :=
  fun _ => rfl

theorem sliceEnd (p : PartId) : Statement (.sliceEnd p) :=
  fun _ => rfl

theorem arrayClearComplete (p : PartId) : Statement (.arrayClearComplete p) :=
  fun _ => rfl

theorem saveComplete (p : PartId) : Statement (.saveComplete p) :=
  fun _ => rfl

theorem restoreComplete (p : PartId) : Statement (.restoreComplete p) :=
  fun _ => rfl

theorem evictionComplete (c : CtxId) : Statement (.evictionComplete c) :=
  fun _ => rfl

theorem starvationTimeout (c : CtxId) : Statement (.starvationTimeout c) :=
  fun _ => rfl

theorem loadProgram (h : Hdr) (ptype : BitVec 8) (slot : SlotId) (off total : BitVec 32) (piece : Bytes) : Statement (.loadProgram h ptype slot off total piece) :=
  fun _ => rfl

theorem programActivate (h : Hdr) (slot : SlotId) : Statement (.programActivate h slot) :=
  fun _ => rfl

theorem programDeactivate (h : Hdr) (slot : SlotId) : Statement (.programDeactivate h slot) :=
  fun _ => rfl

theorem executeProgram (h : Hdr) (d : Dw) (input : Bytes) : Statement (.executeProgram h d input) :=
  fun _ => rfl

theorem contextCreate (h : Hdr) (d : Dw) : Statement (.contextCreate h d) :=
  fun _ => rfl

theorem contextDelete (h : Hdr) (d : Dw) : Statement (.contextDelete h d) :=
  fun _ => rfl

theorem partitionDefine (h : Hdr) (d : Dw) (desc : Bytes) : Statement (.partitionDefine h d desc) :=
  fun _ => rfl

theorem partitionChange (h : Hdr) (d : Dw) (desc : Bytes) : Statement (.partitionChange h d desc) :=
  fun _ => rfl

theorem partitionDelete (h : Hdr) (d : Dw) (desc : Bytes) : Statement (.partitionDelete h d desc) :=
  fun _ => rfl

theorem partitionReset (h : Hdr) (d : Dw) (desc : Bytes) : Statement (.partitionReset h d desc) :=
  fun _ => rfl

theorem indexCreate (h : Hdr) (d : Dw) (desc : Bytes) : Statement (.indexCreate h d desc) :=
  fun _ => rfl

theorem indexDelete (h : Hdr) (d : Dw) (desc : Bytes) : Statement (.indexDelete h d desc) :=
  fun _ => rfl

theorem indexStageCentroids (h : Hdr) (d : Dw) (desc : Bytes) : Statement (.indexStageCentroids h d desc) :=
  fun _ => rfl

theorem indexStageAttributes (h : Hdr) (d : Dw) (desc : Bytes) : Statement (.indexStageAttributes h d desc) :=
  fun _ => rfl

theorem indexMerge (h : Hdr) (d : Dw) (desc : Bytes) : Statement (.indexMerge h d desc) :=
  fun _ => rfl

theorem indexSetShare (h : Hdr) (d : Dw) (desc : Bytes) : Statement (.indexSetShare h d desc) :=
  fun _ => rfl

theorem broodMergeStart : Statement .broodMergeStart :=
  fun _ => rfl

theorem generationChange : Statement .generationChange :=
  fun _ => rfl

theorem broodMirrorDurable (i : IdxId) (upto : BitVec 64) : Statement (.broodMirrorDurable i upto) :=
  fun _ => rfl

theorem setNodeId (h : Hdr) (d : Dw) : Statement (.setNodeId h d) :=
  fun _ => rfl

theorem fabNodeWrite (p : Port) (v : BitVec 64) (be : BitVec 8) : Statement (.fabNodeWrite p v be) :=
  fun _ => rfl

theorem joinHive (h : Hdr) (d : Dw) : Statement (.joinHive h d) :=
  fun _ => rfl

theorem leaveHive (h : Hdr) (d : Dw) : Statement (.leaveHive h d) :=
  fun _ => rfl

theorem schedulePiece (h : Hdr) (d : Dw) (data : Bytes) : Statement (.schedulePiece h d data) :=
  fun _ => rfl

theorem routeEntry (h : Hdr) (d : Dw) (data : Bytes) : Statement (.routeEntry h d data) :=
  fun _ => rfl

theorem fabricSettings (h : Hdr) (d : Dw) : Statement (.fabricSettings h d) :=
  fun _ => rfl

theorem read (h : Hdr) (nsid : BitVec 32) (lba : BitVec 64) (nlb : BitVec 16) (o : NvmOpt) : Statement (.read h nsid lba nlb o) :=
  fun _ => rfl

theorem write (h : Hdr) (nsid : BitVec 32) (lba : BitVec 64) (nlb : BitVec 16) (o : NvmOpt) (data : Bytes) : Statement (.write h nsid lba nlb o data) :=
  fun _ => rfl

theorem writeZeroes (h : Hdr) (nsid : BitVec 32) (lba : BitVec 64) (nlb : BitVec 16) (o : NvmOpt) : Statement (.writeZeroes h nsid lba nlb o) :=
  fun _ => rfl

theorem writeUncorrectable (h : Hdr) (nsid : BitVec 32) (lba : BitVec 64) (nlb : BitVec 16) (o : NvmOpt) : Statement (.writeUncorrectable h nsid lba nlb o) :=
  fun _ => rfl

theorem compare (h : Hdr) (nsid : BitVec 32) (lba : BitVec 64) (nlb : BitVec 16) (o : NvmOpt) (data : Bytes) : Statement (.compare h nsid lba nlb o data) :=
  fun _ => rfl

theorem datasetManagement (h : Hdr) (nsid : BitVec 32) (d : Dw) (ranges : List (BitVec 64 × BitVec 32)) : Statement (.datasetManagement h nsid d ranges) :=
  fun _ => rfl

theorem flush (h : Hdr) (nsid : BitVec 32) (d : Dw) : Statement (.flush h nsid d) :=
  fun _ => rfl

theorem writeCacheProgramComplete (dseq : BitVec 64) : Statement (.writeCacheProgramComplete dseq) :=
  fun _ => rfl

theorem rangeLockRelease : Statement .rangeLockRelease :=
  fun _ => rfl

theorem identify (h : Hdr) (nsid : BitVec 32) (cns : BitVec 8) : Statement (.identify h nsid cns) :=
  fun _ => rfl

theorem getLogPage (h : Hdr) (lid : BitVec 8) (lsi : BitVec 16) (rae : Bool) (off : BitVec 64) (len : BitVec 32) : Statement (.getLogPage h lid lsi rae off len) :=
  fun _ => rfl

theorem getFeatures (h : Hdr) (d : Dw) : Statement (.getFeatures h d) :=
  fun _ => rfl

theorem setFeaturesPowerManagement (h : Hdr) (d : Dw) : Statement (.setFeaturesPowerManagement h d) :=
  fun _ => rfl

theorem setFeaturesPowerLimit (h : Hdr) (d : Dw) : Statement (.setFeaturesPowerLimit h d) :=
  fun _ => rfl

theorem setFeaturesIdleFallback (h : Hdr) (d : Dw) : Statement (.setFeaturesIdleFallback h d) :=
  fun _ => rfl

theorem setFeaturesAutonomousPst (h : Hdr) (d : Dw) (table : Bytes) : Statement (.setFeaturesAutonomousPst h d table) :=
  fun _ => rfl

theorem setFeaturesVolatileWriteCache (h : Hdr) (d : Dw) : Statement (.setFeaturesVolatileWriteCache h d) :=
  fun _ => rfl

theorem setFeaturesTemperatureThreshold (h : Hdr) (d : Dw) : Statement (.setFeaturesTemperatureThreshold h d) :=
  fun _ => rfl

theorem namespaceManagement (h : Hdr) (nsid : BitVec 32) (d : Dw) (data : Bytes) : Statement (.namespaceManagement h nsid d data) :=
  fun _ => rfl

theorem namespaceAttachment (h : Hdr) (nsid : BitVec 32) (d : Dw) : Statement (.namespaceAttachment h nsid d) :=
  fun _ => rfl

theorem formatNvm (h : Hdr) (nsid : BitVec 32) (d : Dw) : Statement (.formatNvm h nsid d) :=
  fun _ => rfl

theorem firmwareImageDownload (h : Hdr) (d : Dw) (data : Bytes) : Statement (.firmwareImageDownload h d data) :=
  fun _ => rfl

theorem firmwareCommit (h : Hdr) (d : Dw) : Statement (.firmwareCommit h d) :=
  fun _ => rfl

theorem firmwareCommitActivate (h : Hdr) (d : Dw) : Statement (.firmwareCommitActivate h d) :=
  fun _ => rfl

theorem abort (h : Hdr) (d : Dw) : Statement (.abort h d) :=
  fun _ => rfl

theorem asynchronousEventRequest (h : Hdr) : Statement (.asynchronousEventRequest h) :=
  fun _ => rfl

theorem createIoSubmissionQueue (h : Hdr) (d : Dw) : Statement (.createIoSubmissionQueue h d) :=
  fun _ => rfl

theorem deleteIoSubmissionQueue (h : Hdr) (d : Dw) : Statement (.deleteIoSubmissionQueue h d) :=
  fun _ => rfl

theorem createIoCompletionQueue (h : Hdr) (d : Dw) : Statement (.createIoCompletionQueue h d) :=
  fun _ => rfl

theorem deleteIoCompletionQueue (h : Hdr) (d : Dw) : Statement (.deleteIoCompletionQueue h d) :=
  fun _ => rfl

theorem nvmeMiSend (h : Hdr) (d : Dw) (data : Bytes) : Statement (.nvmeMiSend h d data) :=
  fun _ => rfl

theorem nvmeMiReceive (h : Hdr) (d : Dw) : Statement (.nvmeMiReceive h d) :=
  fun _ => rfl

theorem unsupportedOpcode (h : Hdr) (opc : BitVec 8) : Statement (.unsupportedOpcode h opc) :=
  fun _ => rfl

theorem memoryRangeSetManagement (h : Hdr) (d : Dw) (ranges : List MemRange) : Statement (.memoryRangeSetManagement h d ranges) :=
  fun _ => rfl

theorem memoryRead (h : Hdr) (nsid : BitVec 32) (addr : BitVec 64) (len : BitVec 32) : Statement (.memoryRead h nsid addr len) :=
  fun _ => rfl

theorem memoryWrite (h : Hdr) (nsid : BitVec 32) (addr : BitVec 64) (data : Bytes) : Statement (.memoryWrite h nsid addr data) :=
  fun _ => rfl

theorem readNvmeMiDataStructure (tag : BitVec 16) (dtyp : BitVec 8) : Statement (.readNvmeMiDataStructure tag dtyp) :=
  fun _ => rfl

theorem subsystemHealthStatusPoll (tag : BitVec 16) : Statement (.subsystemHealthStatusPoll tag) :=
  fun _ => rfl

theorem controllerHealthStatusPoll (tag : BitVec 16) : Statement (.controllerHealthStatusPoll tag) :=
  fun _ => rfl

theorem configurationGet (tag : BitVec 16) (cfg : BitVec 8) : Statement (.configurationGet tag cfg) :=
  fun _ => rfl

theorem configurationSet (tag : BitVec 16) (cfg : BitVec 8) (v : BitVec 32) : Statement (.configurationSet tag cfg v) :=
  fun _ => rfl

theorem vpdRead (tag : BitVec 16) (off len : BitVec 16) : Statement (.vpdRead tag off len) :=
  fun _ => rfl

theorem managementReset (tag : BitVec 16) (k : Survivors) : Statement (.managementReset tag k) :=
  fun _ => rfl

theorem tunnelledAdminCommand (tag : BitVec 16) (opc : BitVec 8) (nsid : BitVec 32) (d : Dw) (data : Bytes) : Statement (.tunnelledAdminCommand tag opc nsid d data) :=
  fun _ => rfl

theorem registerRead (tag : BitVec 16) (off : BitVec 32) : Statement (.registerRead tag off) :=
  fun _ => rfl

theorem registerWrite (tag : BitVec 16) (off : BitVec 32) (v : BitVec 64) : Statement (.registerWrite tag off v) :=
  fun _ => rfl

theorem bar2RegisterWrite (p : Port) (off : BitVec 32) (v : BitVec 64) (be : BitVec 8) : Statement (.bar2RegisterWrite p off v be) :=
  fun _ => rfl

theorem rcRegisterRead (p : Port) (off : BitVec 32) (n : BitVec 4) : Statement (.rcRegisterRead p off n) :=
  fun _ => rfl

theorem telLimitWrite (p : Port) (v : BitVec 64) (be : BitVec 8) : Statement (.telLimitWrite p v be) :=
  fun _ => rfl

theorem supClaim (n : Fin 2) (v : BitVec 64) (be : BitVec 8) : Statement (.supClaim n v be) :=
  fun _ => rfl

theorem rstBlkGo (p : Port) (blk : BitVec 8) : Statement (.rstBlkGo p blk) :=
  fun _ => rfl

theorem blockIdle : Statement .blockIdle :=
  fun _ => rfl

theorem blockResetTimeout : Statement .blockResetTimeout :=
  fun _ => rfl

theorem blockResetDone : Statement .blockResetDone :=
  fun _ => rfl

theorem bstRead (p : Port) : Statement (.bstRead p) :=
  fun _ => rfl

theorem bstProgram (p : Port) : Statement (.bstProgram p) :=
  fun _ => rfl

theorem bstErase (p : Port) : Statement (.bstErase p) :=
  fun _ => rfl

theorem bstSuspend (p : Port) : Statement (.bstSuspend p) :=
  fun _ => rfl

theorem bstResume (p : Port) : Statement (.bstResume p) :=
  fun _ => rfl

theorem bstProtect (p : Port) : Statement (.bstProtect p) :=
  fun _ => rfl

theorem bstClearProtection (p : Port) : Statement (.bstClearProtection p) :=
  fun _ => rfl

theorem bstStorePassword (p : Port) : Statement (.bstStorePassword p) :=
  fun _ => rfl

theorem bstLock (p : Port) : Statement (.bstLock p) :=
  fun _ => rfl

theorem bstUnlock (p : Port) : Statement (.bstUnlock p) :=
  fun _ => rfl

theorem bstReservedOp (p : Port) (op : BitVec 4) : Statement (.bstReservedOp p op) :=
  fun _ => rfl

theorem bstOperationComplete (ok : Bool) : Statement (.bstOperationComplete ok) :=
  fun _ => rfl

theorem nvmeControllerReset : Statement .nvmeControllerReset :=
  fun _ => rfl

theorem normalShutdown : Statement .normalShutdown :=
  fun _ => rfl

theorem nvmSubsystemReset (k : Survivors) : Statement (.nvmSubsystemReset k) :=
  fun _ => rfl

theorem powerOn : Statement .powerOn :=
  fun _ => rfl

theorem perstAssert (k : Survivors) : Statement (.perstAssert k) :=
  fun _ => rfl

theorem perstDeassert : Statement .perstDeassert :=
  fun _ => rfl

theorem pcieHotReset (k : Survivors) : Statement (.pcieHotReset k) :=
  fun _ => rfl

theorem watchdogExpiry (k : Survivors) : Statement (.watchdogExpiry k) :=
  fun _ => rfl

theorem trimLoadPass (ok : Bool) : Statement (.trimLoadPass ok) :=
  fun _ => rfl

theorem bootImageLoaded : Statement .bootImageLoaded :=
  fun _ => rfl

theorem primacyClaimTimeout (n : Fin 2) : Statement (.primacyClaimTimeout n) :=
  fun _ => rfl

theorem mapReplay : Statement .mapReplay :=
  fun _ => rfl

theorem supervisorHeartbeat (n : Fin 2) : Statement (.supervisorHeartbeat n) :=
  fun _ => rfl

theorem heartbeatTimeout (n : Fin 2) : Statement (.heartbeatTimeout n) :=
  fun _ => rfl

theorem takeoverComplete : Statement .takeoverComplete :=
  fun _ => rfl

theorem supervisorReturnTimeout (n : Fin 2) : Statement (.supervisorReturnTimeout n) :=
  fun _ => rfl

theorem samplePeriod (raw : List Int) : Statement (.samplePeriod raw) :=
  fun _ => rfl

theorem excursionLimit : Statement .excursionLimit :=
  fun _ => rfl

theorem guardExpiry : Statement .guardExpiry :=
  fun _ => rfl

theorem overpowerComparator : Statement .overpowerComparator :=
  fun _ => rfl

theorem thermalThrottleStep (g : Fin 6) (i : Fin 32) : Statement (.thermalThrottleStep g i) :=
  fun _ => rfl

theorem sensorFailure (i : Fin 96) : Statement (.sensorFailure i) :=
  fun _ => rfl

theorem deratingUpdate : Statement .deratingUpdate :=
  fun _ => rfl

theorem temphistUpdate : Statement .temphistUpdate :=
  fun _ => rfl

theorem readLevelTracking (die : Fin 1536) (best : List Int) : Statement (.readLevelTracking die best) :=
  fun _ => rfl

theorem powerFail (k : Survivors) : Statement (.powerFail k) :=
  fun _ => rfl

theorem powerReturn : Statement .powerReturn :=
  fun _ => rfl

theorem holdupTest (pass : Bool) : Statement (.holdupTest pass) :=
  fun _ => rfl

theorem holdupCharged (pass : Bool) : Statement (.holdupCharged pass) :=
  fun _ => rfl

theorem cageModulePresent (p : Fin 2) (present : Bool) : Statement (.cageModulePresent p present) :=
  fun _ => rfl

theorem flashProgramFail (b : FlashBlk) : Statement (.flashProgramFail b) :=
  fun _ => rfl

theorem flashEraseFail (b : FlashBlk) : Statement (.flashEraseFail b) :=
  fun _ => rfl

theorem dieFailure (die : Fin 1536) : Statement (.dieFailure die) :=
  fun _ => rfl

theorem dieRebuildComplete (die : Fin 1536) : Statement (.dieRebuildComplete die) :=
  fun _ => rfl

theorem eraseSuspend (die : Fin 1536) : Statement (.eraseSuspend die) :=
  fun _ => rfl

theorem eraseResume (die : Fin 1536) : Statement (.eraseResume die) :=
  fun _ => rfl

theorem patrolRead (b : FlashBlk) (level : Fin 5) : Statement (.patrolRead b level) :=
  fun _ => rfl

theorem relocation (b : FlashBlk) : Statement (.relocation b) :=
  fun _ => rfl

theorem racking : Statement .racking :=
  fun _ => rfl

theorem hostWriteIdle : Statement .hostWriteIdle :=
  fun _ => rfl

theorem garbageCollection : Statement .garbageCollection :=
  fun _ => rfl

theorem checkpoint : Statement .checkpoint :=
  fun _ => rfl

theorem scrubPage (pl : EccPlace) (r : EccResult) : Statement (.scrubPage pl r) :=
  fun _ => rfl

theorem sramRowRepair (pl : EccPlace) : Statement (.sramRowRepair pl) :=
  fun _ => rfl

theorem dramRowRepair (frames : List Nat) (site : BitVec 8) (spare : Bool) : Statement (.dramRowRepair frames site spare) :=
  fun _ => rfl

theorem demotionResume : Statement .demotionResume :=
  fun _ => rfl

theorem tierFPackageFailure (p : Fin 14) (lost : List Nat) : Statement (.tierFPackageFailure p lost) :=
  fun _ => rfl

theorem tierNStackFailure (st : Fin 4) : Statement (.tierNStackFailure st) :=
  fun _ => rfl

theorem arrayFailure (phys : Fin 200) : Statement (.arrayFailure phys) :=
  fun _ => rfl

theorem foragerFailure (n : ChanId) : Statement (.foragerFailure n) :=
  fun _ => rfl

theorem announce (p : Fin 2) (f : FrameHdr) (pl : Bytes) : Statement (.announce p f pl) :=
  fun _ => rfl

theorem schedule (p : Fin 2) (f : FrameHdr) (pl : Bytes) : Statement (.schedule p f pl) :=
  fun _ => rfl

theorem query (p : Fin 2) (f : FrameHdr) (pl : Bytes) : Statement (.query p f pl) :=
  fun _ => rfl

theorem answer (p : Fin 2) (f : FrameHdr) (pl : Bytes) : Statement (.answer p f pl) :=
  fun _ => rfl

theorem absent (p : Fin 2) (f : FrameHdr) (pl : Bytes) : Statement (.absent p f pl) :=
  fun _ => rfl

theorem final (p : Fin 2) (f : FrameHdr) (pl : Bytes) : Statement (.final p f pl) :=
  fun _ => rfl

theorem resync (p : Fin 2) (f : FrameHdr) (pl : Bytes) : Statement (.resync p f pl) :=
  fun _ => rfl

theorem resyncAck (p : Fin 2) (f : FrameHdr) (pl : Bytes) : Statement (.resyncAck p f pl) :=
  fun _ => rfl

theorem leaseReq (p : Fin 2) (f : FrameHdr) (pl : Bytes) : Statement (.leaseReq p f pl) :=
  fun _ => rfl

theorem leaseGrant (p : Fin 2) (f : FrameHdr) (pl : Bytes) : Statement (.leaseGrant p f pl) :=
  fun _ => rfl

theorem leaseRel (p : Fin 2) (f : FrameHdr) (pl : Bytes) : Statement (.leaseRel p f pl) :=
  fun _ => rfl

theorem xacc (p : Fin 2) (f : FrameHdr) (pl : Bytes) : Statement (.xacc p f pl) :=
  fun _ => rfl

theorem xdata (p : Fin 2) (f : FrameHdr) (pl : Bytes) : Statement (.xdata p f pl) :=
  fun _ => rfl

theorem power (p : Fin 2) (f : FrameHdr) (pl : Bytes) : Statement (.power p f pl) :=
  fun _ => rfl

theorem budget (p : Fin 2) (f : FrameHdr) (pl : Bytes) : Statement (.budget p f pl) :=
  fun _ => rfl

theorem reservedFrame (p : Fin 2) (typ : BitVec 8) (f : FrameHdr) (pl : Bytes) : Statement (.reservedFrame p typ f pl) :=
  fun _ => rfl

theorem messageTimeout : Statement .messageTimeout :=
  fun _ => rfl

theorem routeEntryExpiry (node : BitVec 12) (p : Fin 2) : Statement (.routeEntryExpiry node p) :=
  fun _ => rfl

theorem announceTimer : Statement .announceTimer :=
  fun _ => rfl

theorem scheduleResend : Statement .scheduleResend :=
  fun _ => rfl

theorem electionTimeout : Statement .electionTimeout :=
  fun _ => rfl

theorem roundStart : Statement .roundStart :=
  fun _ => rfl

theorem intakeWindow : Statement .intakeWindow :=
  fun _ => rfl

theorem computeWindowEnd : Statement .computeWindowEnd :=
  fun _ => rfl

theorem slotStart : Statement .slotStart :=
  fun _ => rfl

theorem acceptanceLimit (child : Fin 512) : Statement (.acceptanceLimit child) :=
  fun _ => rfl

theorem bulkWindow : Statement .bulkWindow :=
  fun _ => rfl

theorem hiveAnswerTimeout : Statement .hiveAnswerTimeout :=
  fun _ => rfl

theorem leaseReplyTimeout (req : BitVec 32) : Statement (.leaseReplyTimeout req) :=
  fun _ => rfl

theorem leaseLossTimeout (lender : BitVec 12) : Statement (.leaseLossTimeout lender) :=
  fun _ => rfl

theorem gptpSync (gm : BitVec 64) : Statement (.gptpSync gm) :=
  fun _ => rfl

theorem holdoverTimeout : Statement .holdoverTimeout :=
  fun _ => rfl

theorem laneFailure (lane : Fin 8) : Statement (.laneFailure lane) :=
  fun _ => rfl

theorem degradedTrainingTimeout (p : Fin 2) : Statement (.degradedTrainingTimeout p) :=
  fun _ => rfl

theorem portDown (p : Fin 2) : Statement (.portDown p) :=
  fun _ => rfl

theorem psEntryComplete : Statement .psEntryComplete :=
  fun _ => rfl

theorem psExitComplete : Statement .psExitComplete :=
  fun _ => rfl

theorem idleFallbackTimer : Statement .idleFallbackTimer :=
  fun _ => rfl

theorem controllerEnable : Statement .controllerEnable :=
  fun _ => rfl

theorem linkUp (p : Fin 2) (lanes : Fin 5) : Statement (.linkUp p lanes) :=
  fun _ => rfl

theorem syncMessagesStop : Statement .syncMessagesStop :=
  fun _ => rfl

theorem eraseComplete (die : Fin 1536) : Statement (.eraseComplete die) :=
  fun _ => rfl

theorem mctpControlMessage (tag : BitVec 16) (code : BitVec 8) : Statement (.mctpControlMessage tag code) :=
  fun _ => rfl

end Sys2Proof.Laws.Opcode
end

