-- ==== Sys2Proof/Tests/Slice0.lean ====
section
/-! SUPPORT. The model's own tests: what each check of well-formedness refuses, words and values worked out from the spec, and
for every statement a state and operands that meet its hypotheses. -/

namespace Sys2Proof.Tests

open Sys2Proof Sys2Proof.Machine

set_option Elab.async false

/-! ## Small states -/

/-- An image of 16 instructions that may use the fabric and append. -/
def img : Bytes :=
  List.replicate 10 0 ++ toLe 2 0xFFFE ++ List.replicate 8 0 ++ toLe 4 0x100 ++ List.replicate 104 0

/-- A running drive with one queue pair. -/
def live : State :=
  { State.reset with
    rst := { Rst.powerOn with phase := .run, trimv := true }, pins := { Pins.inactive with perst := false }
    host := { HostSt.cold false with ccEn := true, rdy := true, sqs := [⟨1, 64, 1⟩], cqs := [⟨1, 64, false, 0⟩] }
    media := { Media.new with replayed := true } }

/-- A partition of the first cluster and every forager. -/
def part0 : Part :=
  { Part.undef with defined := true, desc := { PartDesc.zero with clusters := 1, foragers := 0xFFFFFFFF, slice := 100 } }

/-- A tensor descriptor: space, format, elements of a row, rows, stride in units of 16 bytes. -/
def desc (sp fmt e0 e1 st : Nat) : BitVec 256 :=
  BitVec.ofNat 256 (sp * 2 ^ 48 + fmt * 2 ^ 52 + 2 ^ 56 + (e0 - 1) * 2 ^ 128 + (e1 - 1) * 2 ^ 144 + st * 2 ^ 208)

/-- A context with a working area of 2 MiB and the given s-registers and t-registers. -/
def ctxOf (s : List (Fin 64 × BitVec 64)) (t : List (Fin 32 × BitVec 256)) : Ctx :=
  { Ctx.free with
    st := .running, wnBase := 0x10000000, wnSize := 0x200000, seqr := some 0, sq := 1, count := 4, inStep := true
    cur := some { src := .host 1 7, count := 4, params := [], hin := [], outLen := 64 }
    sreg := s.foldl (fun v p => v.set p.1 p.2) (Vector.replicate 64 0)
    treg := t.foldl (fun v p => v.set p.1 p.2) (Vector.replicate 32 0) }

/-- The drive with that context as context 1. -/
def rig (x : Ctx) : State :=
  (((live.setSlot 0 { Slot.empty with img := img, loaded := true, active := true }).setPart 0 { part0 with holder := some 1 }).setCtx 1 x)

/-- An instruction word of a class, its modifiers and operand fields by their lowest bit. -/
def insn (cls mod : Nat) (l : List (Nat × Nat)) : Insn :=
  { cls := BitVec.ofNat 4 cls, pred := 0, pinv := false, mod := BitVec.ofNat 16 mod
    opr := BitVec.ofNat 96 (l.foldl (fun a p => a + p.2 * 2 ^ p.1) 0) }

/-- A command header of a port. -/
def hdr (p : Port) (q : Nat) : Hdr := { port := p, sq := BitVec.ofNat 16 q, cid := 9, psdt := 0, rsv := false }

/-- Command dwords 10 and 11, the others zero. -/
def dw (a b : Nat) : Dw := { d10 := BitVec.ofNat 32 a, d11 := BitVec.ofNat 32 b, d12 := 0, d13 := 0, d14 := 0, d15 := 0 }

/-! ## Witnesses for the statements -/

theorem test_met_StepRunsFrontCommand : ({ live with pending := [.announceTimer] } : State).pending = .announceTimer :: [] := rfl

theorem test_met_EmptyQueueStep :
    live.pending = [] ∧ live.ready = [] ∧ clocked live = true ∧ live.time.holdUntil = none ∧
    ((rig (ctxOf [] [])).part 0).defined = true ∧ clocked (rig (ctxOf [] [])) = true ∧
    ({ live with ready := [.demotionResume] } : State).ready = .demotionResume :: [] ∧
    live.time.slew = 0 ∧ (let l : State := { live with time := { live.time with slew := 5, slewCnt := 9999 } }
     l.time.slew ≠ 0 ∧ 10000 ≤ l.time.slewCnt + 1) ∧
    ∃ t, exec .demotionResume { live with ready := [], replay := true } = .next t :=
  ⟨rfl, rfl, rfl, rfl, by decide +kernel, by decide +kernel, rfl, rfl, by decide, _, rfl⟩

theorem test_met_ColordRoundTrip :
    colordParts (.lease 63 (insn 5 0 [(50, 63)])) = some (63, 0x52, insn 5 0 [(50, 63)]) ∧ Instr.wf (.lease 63 (insn 5 0 [(50, 63)])) = true := by
  decide

/-- A word of two s-registers and an immediate. -/
def alu : Insn := insn 1 0 [(0, 1), (6, 2), (23, 1), (32, 5)]

theorem test_met_ScalarResults :
    issues (rig (ctxOf [] [])) 1 alu false (layoutIss alu 1 (maskBits 11 0 + mX alu) 0) = true ∧ calm ((rig (ctxOf [] [])).ctx 1) = true := by
  decide +kernel

theorem test_met_ScalarResults_cmp : ∀ q : Fin 6,
    let w := insn 1 q.val [(0, 0), (6, 2), (23, 1), (32, 5)]
    modF w 99 96 = q.val ∧
      issues (rig (ctxOf [] [])) 1 w false (layoutIss w 1 (maskBits 2 0 + maskBits 11 6 + mX w) 0xF) = true := by
  decide +kernel

theorem test_met_ScalarResults_moves :
    (let w := insn 1 0 [(0, 63), (32, 2 ^ 64 - 1)]
     issues (rig (ctxOf [] [])) 1 w false (layoutIss w 1 (maskBits 5 0 + maskBits 95 32) 0) = true) ∧
    (let w := insn 1 0 [(0, 7), (6, 63)]
     bitOf w.mod 0 = false ∧ issues (rig (ctxOf [] [])) 1 w false (layoutIss w 1 (maskBits 2 0 + maskBits 11 6) 1) = true) ∧
    (let w := insn 1 1 [(0, 63), (6, 0)]
     bitOf w.mod 0 = true ∧ issues (rig (ctxOf [] [])) 1 w false (layoutIss w 1 (maskBits 5 0 + maskBits 8 6) 1) = true) := by
  decide +kernel

/-- A context whose t0 is a tensor of 64 rows of 64 bytes in its working area. -/
def ctxT (s : List (Fin 64 × BitVec 64)) : Ctx := ctxOf s [(0, desc 6 3 64 64 4)]

theorem test_met_LdsStsResults :
    let s := rig (ctxT [(2, 8)])
    let w := insn 1 0 [(0, 1), (6, 2), (23, 1), (32, 4080)]
    let g : Seg := { t := 0, sp := .workn, arr := arr0 s (s.ctx 1), off := 4088, len := 8 }
    calm (s.ctx 1) = true ∧
    ((descOf (tget (s.ctx 1) (treg w 18))).any fun d => d.space == .workn && d.base == 0) = true ∧
    (sget (s.ctx 1) (sreg w 6) + w.opr.extractLsb' 32 64).toNat = 4088 ∧
    issues s 1 w false (lsIss s 1 w false) = true ∧ (opened s 1 [g] []).isSome = true ∧
    issues s 1 w false (lsIss s 1 w true) = true ∧ (opened s 1 [] [g]).isSome = true ∧
    posOf s (s.ctx 1) .workn g.arr 4088 = .dev 0x10000FF8 := by
  decide +kernel

theorem test_met_LdsStsResults_waits :
    let y : Part := { part0 with holder := some 1, desc := { part0.desc with regN := ⟨1, 64⟩ } }
    let s := (rig (ctxT [(2, 8)])).setPart 0 y
    let w := insn 1 0 [(0, 1), (6, 2), (23, 1), (32, 4080)]
    let g : Seg := { t := 0, sp := .workn, arr := arr0 s (s.ctx 1), off := 4088, len := 8 }
    let l := devRanges s (s.ctx 1) [g]
    issues s 1 w false (lsIss s 1 w false) = true ∧ boundFault s 1 [g] [] = none ∧ segPoison s (s.ctx 1) g = false ∧
    (s.ctx 1).prefs.any (prefStands l) = false ∧
    ((touchRanges s l).any fun s2 => !segPoison s2 (s2.ctx 1) g && inDebt (s.part (s.ctx 1).part) (dues s s2 l)) = true := by
  decide +kernel

/-- The pseudocode of R316 with the bytes of R317: an access of 8 bytes of Tier N leaves 8 bytes less. -/
theorem test_charge :
    let y : Part := { part0 with desc := { part0.desc with regN := ⟨1000, 64⟩ }, tokens := Vector.replicate 4 1000 }
    let s := charge ((rig (ctxT [])).setPart 0 y) 0 [8, 8, 0, 0]
    (s.part 0).tokens.toList = [-7000, 1000, 1000, 1000] ∧ inDebt (s.part 0) [1, 0, 0, 0] = true ∧
    (tickPart (s.part 0)).tokens.toList.head? = some (-6000) := by
  decide +kernel

theorem test_met_memOk : memOk live ∧ memOk (rig (ctxT [])) :=
  ⟨⟨by decide +kernel, by decide +kernel, by decide +kernel⟩, by decide +kernel, by decide +kernel, by decide +kernel⟩

/-- A loop of two instructions, its count 0 in s0 or the immediate. -/
def loopW (imm idx n : Nat) : Insn := insn 0 (imm + 2 * idx) (if imm = 1 then [(6, 5 * idx), (32, 2), (64, n)] else [(0, 0), (6, 5 * idx), (32, 2)])

/-- Eight call frames. -/
def deep (x : Ctx) : Ctx := { x with stack := List.replicate 8 (.call 3) }

theorem test_met_ControlResults_loop :
    let s := rig (ctxOf [] [])
    issues s 1 (loopW 0 0 0) false (loopIss (loopW 0 0 0)) = true ∧ sget (s.ctx 1) (sreg (loopW 0 0 0) 0) = 0 ∧
    issues s 1 (loopW 1 0 1) false (loopIss (loopW 1 0 1)) = true ∧ bitOf (loopW 1 0 1).mod 1 = false ∧ (s.ctx 1).stack.length < 8 ∧
    issues s 1 (loopW 1 1 4) false (loopIss (loopW 1 1 4)) = true ∧ bitOf (loopW 1 1 4).mod 1 = true ∧
    issues (rig (deep (ctxOf [] []))) 1 (loopW 1 0 1) false (loopIss (loopW 1 0 1)) = true ∧
    8 ≤ ((rig (deep (ctxOf [] []))).ctx 1).stack.length := by
  decide +kernel

theorem test_met_ControlResults_br : ∀ q : Fin 3,
    let s := rig (ctxOf [] [])
    let go := insn 0 q.val [(32, 3)]
    let iss1 (w : Insn) : Bool := issues s 1 w true (layoutIss w 0 (maskBits 63 32) 0x3 ++ failIf (modF w 97 96 == 3) (iss .rsvdField))
    iss1 go = true ∧ iss1 { go with pinv := true } = true ∧ modF go 97 96 = q.val ∧ calm (s.ctx 1) = true ∧
    predVal (s.ctx 1) go &&& 15 = 15 ∧ predVal (s.ctx 1) { go with pinv := true } &&& 15 = 0 := by
  decide +kernel

theorem test_met_ControlResults_call :
    let w := insn 0 0 [(32, 3)]
    let r := insn 0 0 []
    let one (f : Frame) : State := rig { ctxOf [] [] with stack := [f] }
    issues (rig (ctxOf [] [])) 1 w false (layoutIss w 0 (maskBits 63 32) 0) = true ∧
    issues (rig (deep (ctxOf [] []))) 1 w false (layoutIss w 0 (maskBits 63 32) 0) = true ∧
    issues (one (.call 3)) 1 r false (layoutIss r 0 0 0) = true ∧
    issues (one (.loop 0 2 1 none)) 1 r false (layoutIss r 0 0 0) = true := by
  decide +kernel

theorem test_met_ControlResults_ends :
    let x := { ctxOf [] [] with pc := 4, stack := [.loop 3 2 2 (some 5), .call 9] }
    x.stack = .loop 3 2 2 (some 5) :: [.call 9] ∧ x.pc = 3 + 2 - 1 ∧ (2 : BitVec 64) ≠ 1 ∧
    ({ x with pc := 3 } : Ctx).pc ≠ (3 + 2 - 1 : BitVec 32) ∧ (ctxOf [] []).stack = [] := by
  decide +kernel

/-- A context with an append of the step that is not durable. -/
def pend (x : Ctx) : Ctx := { x with durs := [(0, 5)] }

theorem test_met_EndOfStep :
    let w := insn 0 0 []
    let ok (x : Ctx) : Bool := issues (rig x) 1 w false (layoutIss w 0 0 0) && ((rig x).ctx 1).stack.isEmpty && ((rig x).ctx 1).queue.isEmpty
    ok (ctxOf [] []) = true ∧ allDurable (rig (ctxOf [] [])) (ctxOf [] []) = true ∧
    ok (pend (ctxOf [] [])) = true ∧ allDurable (rig (pend (ctxOf [] []))) (pend (ctxOf [] [])) = false ∧
    ((ctxOf [] []).cur.map fun r => r.src) = some (.host 1 7) := by
  decide +kernel

/-- A blocked context. -/
def waits (w : Wait) : Ctx := { ctxOf [] [] with st := .blocked, wait := w }

/-- A schedule of 1 ms rounds: member 0 the root, member 1 its child, both the drive and another. -/
def sched : Sched :=
  { hive := 1, sgen := 1, period := 1000, depth := 1, patterns := 1, t0 := 0, start := 0, latMax := 16, bulkOff := 8000, bulkLen := 4000
    power := 0, lanes := 4, members := [⟨0, 5, true, 1000⟩, ⟨7, 9, false, 1000⟩]
    slots := [⟨0, 1000, 1000, 2000, 4000, 100, 0xFFFF, 0⟩, ⟨0, 0, 1000, 2000, 3000, 100, 0, 0⟩], raw := [] }

/-- A drive in a hive: node 5 of hive 1, in sync, both links up, its schedule loaded. -/
def inHive1 (s : State) : State :=
  { s with
    time := { s.time with insync := true }
    fab := { s.fab with node := 5, set := true, hive := 1, st := .member, knode := 9, epoch := 3, sched := some sched, member := 0
                        ports := Vector.replicate 2 { PortSt.down with link := true, lanes := 4 }
                        routes := [⟨9, true, 0x22, true, 0x23, false⟩] } }

theorem test_met_WaitsAndBarriers :
    let s := rig (ctxOf [(0, 100)] [])
    let wt (i : Nat) : Insn := insn 0 0 [(0, 0), (64, i)]
    let lay (w : Insn) : List Iss := layoutIss w 0 (maskBits 5 0 + maskBits 95 64) 0
    let b (m : Nat) : Insn := insn 0 m []
    calm (s.ctx 1) = true ∧ issues s 1 (wt 0) false (lay (wt 0)) = true ∧
    issues s 1 (wt (2 ^ 32 - 100)) false (lay (wt (2 ^ 32 - 100))) = true ∧
    (sget (s.ctx 1) 0).toNat + ((wt (2 ^ 32 - 100)).opr.extractLsb' 64 32).toInt ≤ (s.time.now.toNat : Int) ∧
    (s.time.now.toNat : Int) < (sget (s.ctx 1) 0).toNat + ((wt 0).opr.extractLsb' 64 32).toInt ∧
    issues s 1 (b 0) false (layoutIss (b 0) 0 0 1) = true ∧ issues s 1 (b 1) false (layoutIss (b 1) 0 0 1) = true ∧
    s.fab.sched = none ∧ s.fab.pend = none ∧ issues (inHive1 s) 1 (b 1) false (layoutIss (b 1) 0 0 1) = true ∧
    (inHive1 s).fab.sched ≠ none ∧ issues s 1 (b 0) false (layoutIss (b 0) 0 0 3) = true ∧
    issues (rig (pend (ctxOf [] []))) 1 (b 1) false (layoutIss (b 1) 0 0 3) = true ∧
    ((rig (waits (.time 0))).ctx 1).wait = .time 0 ∧ (0 : Int) ≤ (s.time.now.toNat : Int) := by
  decide +kernel

theorem test_met_WaitsAndBarriers_release :
    let s : State := { rig (waits (.bar 3)) with fab := { Fab.cold with round := 4 } }
    (s.ctx 1).st = .blocked ∧ (s.ctx 1).wait = .bar 3 ∧ (3 : BitVec 64).toNat < s.fab.round.toNat := by
  decide +kernel

/-- A context that asks for a lease of one GiB. -/
def ctxF0 : Ctx := ctxOf [(4, 0x40000000)] []

theorem test_met_IssueStops :
    let s := rig (ctxOf [] [])
    let far := rig { ctxOf [] [] with pc := 16 }
    (live.ctx 1).st ≠ .running ∧ (far.ctx 1).st = .running ∧ pcInCode far (far.ctx 1) = false ∧
    pcInCode s (s.ctx 1) = true ∧ (s.ctx 1).inStep = true ∧ (s.ctx 1).cur ≠ none ∧
    s.time.now.toNat ≤ (s.ctx 1).stepAt.toNat + (s.ctx 1).limit.toNat * 1000000 ∧
    (let l : State := { s with time := { s.time with now := 1 } }
     (l.ctx 1).stepAt.toNat + (l.ctx 1).limit.toNat * 1000000 < l.time.now.toNat) := by
  decide +kernel

/-- Instructions under p1, which holds no lane, and instructions that an image may not have. -/
theorem test_met_IssueStops_checks :
    let off (w : Insn) : Insn := { w with pred := 1 }
    let s := rig (ctxOf [] [])
    let a := off alu
    let w := insn 5 0 [(32, 4), (50, 5)]
    let u := (inHive1 (rig (ctxF0))).setSlot 0 { Slot.empty with img := List.replicate 20 0 ++ toLe 4 0x100 ++ List.replicate 104 0, loaded := true, active := true }
    executes (s.ctx 1) a = false ∧ calm (s.ctx 1) = true ∧ (s.ctx 1).st = .running ∧ pcInCode s (s.ctx 1) = true ∧
    layoutIss a 1 (maskBits 11 0 + mX a) 0 = [] ∧ leaseIss (rig ctxF0) 1 (off w) = [] ∧ executes ((rig ctxF0).ctx 1) (off w) = false ∧
    (u.ctx 1).st = .running ∧ pcInCode u (u.ctx 1) = true ∧ imgFlag u (u.ctx 1) 1 = false ∧ imgFlag u (u.ctx 1) 2 = false ∧
    (leaseIss u 1 w).map (fun f => f.cause) = [.undeclared] := by
  decide +kernel

/-- A context for a product of 4 rows by 4 rows of 32 integers. -/
def ctxM : Ctx := ctxOf [(1, 4), (2, 4), (3, 32)] [(0, desc 6 2 32 4 2), (1, desc 6 2 32 4 2), (2, desc 6 2 4 4 1)]

/-- A tensor instruction on t0, t1 and t2. -/
def tensW (mod : Nat) : Insn := insn 2 mod [(0, 2), (5, 0), (10, 1), (20, 1), (26, 2), (32, 3)]

theorem test_met_TensorResults :
    let s := rig ctxM
    let ok (w : Insn) (op : TOp) : Bool := (tensOf s 1 w op).any fun t =>
      issues s 1 w (op != .mma) (tensIss s 1 w op) && (opened s 1 (t.aSegs ++ t.bSegs ++ t.cSegs) t.dSegs).isSome
    ok (tensW 0) .mma = true ∧ ok (tensW 0) (.dist 0) = true ∧ ok (tensW 0x200) (.dist 2) = true ∧
    ok (tensW 0xE000) (.cmpk 0 0) = true ∧ ok (tensW 0xF600) (.cmpk 5 2) = true ∧ calm (s.ctx 1) = true ∧ (s.ctx 1).trapMask = 0 := by
  decide +kernel

theorem test_met_SlicesAndRoundings :
    (sliceList 512 32 8).length = 8 ∧ (sliceList 512 32 8)[7]? = some (448, 512) ∧ (sliceList 32 32 8)[1]? = some (32, 32) ∧
    2 * (3 % 2) = 2 ∧ rneInt false 3 2 = 2 ∧ rneInt true 5 2 = -2 ∧ rnda true 3 2 = -2 ∧ (satTo (-8) 7 8).1 = 7 := by
  decide +kernel

/-- A context for element instructions: distances, IDs, BF16 and INT8 tensors of 4 rows. -/
def ctxE : Ctx :=
  ctxOf [(1, 4), (2, 2), (3, 8)]
    [(0, desc 6 9 8 4 2), (1, desc 6 10 8 4 4), (2, desc 6 9 2 4 1), (3, desc 6 10 2 4 1), (4, desc 6 7 8 4 1), (5, desc 6 2 8 4 1), (6, desc 6 7 8 4 1)]

theorem test_met_ElementResults :
    let s := rig ctxE
    let a := arr0 s ctxE
    let tk := insn 2 0 [(0, 2), (5, 0), (10, 1), (20, 1), (26, 2), (32, 3)]
    let rq := insn 2 0 [(0, 5), (5, 4), (20, 1), (32, 3)]
    let up := insn 2 0 [(0, 6), (5, 4), (10, 5), (20, 1), (32, 3)]
    ((topkOps ctxE tk).any fun o => issues s 1 tk true (topkIss s 1 tk) &&
      (opened s 1 (topkRd ctxE tk o a) (pairWr ctxE tk o.dd o.dn a 4 2 0 false)).isSome) = true ∧
    ((topkOps { ctxE with sreg := ctxE.sreg.set 1 0 } tk).any fun _ =>
      issues (rig { ctxE with sreg := ctxE.sreg.set 1 0 }) 1 tk true (topkIss (rig { ctxE with sreg := ctxE.sreg.set 1 0 }) 1 tk)) = true ∧
    ([true, false].all fun q => (reqOps ctxE rq q).any fun o => issues s 1 rq false (reqIss s 1 rq q) &&
      (opened s 1 (reqRd ctxE rq q o a) (reqWr ctxE rq q o a)).isSome) = true ∧
    ((updOps ctxE up).any fun o => issues s 1 up false (updIss s 1 up) &&
      (opened s 1 (rowsSegs (fTA up) o.da a 0 4 8 ++ updWr ctxE up o a) (updWr ctxE up o a)).isSome) = true := by
  decide +kernel

/-- A context for copies: two tensors of 4 rows and indexes. -/
def ctxC (v : Nat) : Ctx :=
  ctxOf [(1, BitVec.ofNat 64 v), (3, 8)] [(0, desc 6 3 8 4 1), (1, desc 6 3 8 4 1), (2, desc 6 10 4 1 4)]

theorem test_met_CopyResults :
    let w := insn 3 0 [(0, 1), (5, 0), (20, 1), (32, 3)]
    let g := insn 3 0 [(0, 1), (5, 0), (10, 2), (20, 1), (32, 3)]
    let s := rig (ctxC 4)
    let rows : List (Option Nat) := (List.range 4).map some
    ([MOp.ldt, .stt].all fun op => (moveOps (ctxC 4) w op).any fun o => issues s 1 w false (moveIss s 1 w op) &&
      (opened s 1 (moveRd s (ctxC 4) w o rows) (moveWr s (ctxC 4) w o)).isSome) = true ∧
    ((moveOps (ctxC 4) g .gath).any fun o => issues s 1 g false (moveIss s 1 g .gath) && o.db.any fun db =>
      (opened s 1 (idxSegs (fTB g) db 0 0 4) []).any fun s1 =>
        ((List.range 4).all fun i => decide (idxElem s1 (ctxC 4) db 0 0 i < o.da.rows)) &&
        (opened s1 1 (moveRd s1 (ctxC 4) g o rows) (moveWr s1 (ctxC 4) g o)).isSome) = true := by
  decide +kernel

theorem test_met_CopyResults_range :
    let g := insn 3 0 [(0, 1), (5, 0), (10, 2), (20, 1), (32, 3)]
    let s0 := rig (ctxC 4)
    let s : State := { s0 with tiers := { s0.tiers with mem := [(0x10000000, 4)] } }
    ((moveOps (ctxC 4) g .gath).any fun o => issues s 1 g false (moveIss s 1 g .gath) && o.db.any fun db =>
      (opened s 1 (idxSegs (fTB g) db 0 0 4) []).any fun s1 => decide (o.da.rows ≤ idxElem s1 (ctxC 4) db 0 0 0)) = true := by
  decide +kernel

theorem test_met_SetpAndEvtResults :
    let s := rig (ctxOf [(1, 0x1F)] [])
    let z := rig (ctxOf [(1, 0x500000000)] [])
    let w (m : Nat) : Insn := insn 6 m [(44, 1)]
    let ok (s : State) (m : Nat) : Bool := issues s 1 (w m) false (layoutIss (w m) 6 mSP1 0xFFFF)
    ok s 0 = true ∧ bitsOf (sget (s.ctx 1) (fSP1 (w 0))) 15 5 = 0 ∧ ok s 1 = true ∧ ok z 2 = true ∧
    bitsOf (sget (z.ctx 1) (fSP1 (w 2))) 31 0 = 0 ∧ ok s 3 = true ∧ 4 ≤ (w 4).mod.toNat ∧ ok s 0x100 = true ∧
    issues s 1 (w 0x100) false (layoutIss (w 0x100) 6 mSP1 0xFFFF ++ failIf (decide ((w 0x100).mod.toNat < 0x100)) (iss .evtCode)) = true ∧
    (w 0xFF).mod.toNat < 0x100 ∧ (w 0xFF).cls = 6 ∧ oprWithin (w 0xFF) mSP1 = true ∧ pcInCode s (s.ctx 1) = true := by
  decide +kernel

theorem test_met_ReservedTrapBits :
    let s := rig (ctxOf [(1, 0x20)] [])
    (s.ctx 1).st = .running ∧ pcInCode s (s.ctx 1) = true ∧ bitsOf (sget (s.ctx 1) (fSP1 (insn 6 0 [(44, 1)]))) 15 5 ≠ 0 ∧ calm (s.ctx 1) = true := by
  decide +kernel

/-- A prefetch of one page. -/
def pref1 (dl fb : Nat) : Pref :=
  { rows := [(0x10000000, 0x10000100)], target := 0, deadline := BitVec.ofNat 64 dl, fallback := BitVec.ofNat 2 fb, done := false
    failed := false, fired := false, aDesc := 0, aOff := 0, m := 1, cDesc := 0, cOff := 0, ct := 0 }

/-- A drive whose page of the working area lies in a tier. -/
def paged (l : Loc) (s : State) : State :=
  { s with tiers := { s.tiers with pages := [{ no := 128, owner := .workN 1, pinned := false, loc := l, age := 0, stk := 0, xat := none }] } }

theorem test_met_Prefetches_starts :
    let x := ctxOf [(1, 1)] [(0, desc 6 3 64 4 4)]
    let w := insn 3 0 [(5, 0), (20, 1), (44, 2)]
    let ok (s : State) (hit : Bool) : Bool := (prefOps x w).any fun o => issues s 1 w false (prefIss s 1 w) &&
      (boundFault s 1 (prefSegs x w o.1) []).isNone && ((devRanges s x (prefSegs x w o.1)).flatMap pagesOf).all (pageIn s (fTier w)) == hit
    let far (w : BlkRst) : State := { paged .tierF (rig x) with rst := { live.rst with act := w } }
    ok (paged .tierN (rig x)) true = true ∧ ok (far .none) false = true ∧ ok (far (.idling 0x38)) false = true ∧
    ((prefOps x w).any fun o => (devRanges (far .none) x (prefSegs x w o.1)).any (rangeBusy (far .none))) = false ∧
    ((prefOps x w).any fun o => (devRanges (far (.idling 0x38)) x (prefSegs x w o.1)).any (rangeBusy (far (.idling 0x38)))) = true := by
  decide +kernel

theorem test_met_Prefetches_moves :
    let x (dl fb : Nat) : Ctx := { waits (.access 0) with prefs := [pref1 dl fb] }
    let s := paged .tierF (rig (x 0 0))
    (prefFar s (pref1 0 0)).all (farHere s) = true ∧
    ((bringPages 0 ((pref1 0 0).rows ++ movingPages s) ((pref1 0 0).rows.flatMap pagesOf) (takeFar s (prefFar s (pref1 0 0)))).any fun s1 =>
      !inDebt (s.part 0) (moveDues s s1 (pref1 0 0).rows) && !((pref1 0 0).rows.any (rangeDown s)) && !((pref1 0 0).rows.any (rangeDown s1))) = true ∧
    asleep s = false ∧ (s.ctx 1).prefs[0]? = some (pref1 0 0) ∧
    (let l : State := { paged .tierF (rig (x 5 0)) with time := { TimeSt.cold with now := 5 } }
     (l.ctx 1).prefs[0]? = some (pref1 5 0) ∧ (pref1 5 0).deadline.toNat ≤ l.time.now.toNat) ∧
    (let l : State := { paged .tierF (rig (x 5 1)) with
       time := { TimeSt.cold with now := 5 }, tiers := { (paged .tierF live).tiers with source := [131072] } }
     (coarseFar l 1 (pref1 5 1)).all (farHere l) = true ∧ (match runFallback l 1 0 (pref1 5 1) with
      | .goOn _ => true
      | _ => false) = true) ∧
    ((rig (waits .frame)).ctx 1).wait = .frame := by
  decide +kernel

/-- An index of 32 dimensions with a record of generation 1 and `n` entries in its brood list. -/
def ix0 (n : Nat) : Idx :=
  { Idx.none with
    live := true, dim := 32, attrWidth := 16, chanMask := 0xFFFFFFFF, ncentCap := 64, broodCap := 4, nsid := 2, share := 10, head := BitVec.ofNat 64 n
    attrRows := 8, gens := Vector.replicate 2 { Gen.empty with gen := 1, valid := true, ncent := 4 }
    brood := (List.range n).map fun i => { seq := BitVec.ofNat 64 (i + 1), id := BitVec.ofNat 64 i, handle := 0, tomb := false, vec := List.replicate 64 0 } }

/-- A drive with index 0, namespace 1 of 1,000 blocks and the index's namespace 2. -/
def indexed (n : Nat) (s : State) : State :=
  { s.setIndex 0 (ix0 n) with nvm := { s.nvm with nss := [⟨1, 1000, true, none, none⟩, ⟨2, 1000, true, some 0, none⟩] } }

/-- A context for a search of 4 lanes for the 2 nearest with one probe. -/
def ctxS (m : Nat) : Ctx :=
  ctxOf [(1, BitVec.ofNat 64 m), (2, 2), (3, 1)]
    [(0, desc 6 7 32 4 4), (1, desc 6 10 4 4 2), (2, desc 6 3 8 1 1), (3, desc 6 9 2 4 1), (4, desc 6 10 2 4 1)]

/-- A SCAN with those operands. -/
def scanI : Insn := insn 4 0 [(0, 3), (5, 0), (10, 1), (15, 2), (20, 1), (26, 2), (32, 3), (44, 4)]

theorem test_met_ScanAndFilters :
    let ok (m : Nat) (f : State → ScanOps → View → Bool) : Bool :=
      let s := indexed 2 (rig (ctxS m))
      (scanOps (ctxS m) scanI).any fun o => issues s 1 scanI true (scanIss s 1 scanI) && (scanView s (ctxS m) (scanW 0)).any fun v => f s o v
    ok 0 (fun _ _ _ => (scanLanes (ctxS 0) scanI).isEmpty) = true ∧
    ok 4 (fun s o v =>
      let s0 := noteScan (fixView s 1 v) 1 v (scanW 0) 2 1
      let s0 := joinScan s0 1 0
      !(scanLanes (ctxS 4) scanI).isEmpty && !(allChan.any fun n => ownsForager s 0 n && foragerBusy s n) &&
      (opened s0 1 (scanRd s0 (ctxS 4) scanI o 0) (pairWr (ctxS 4) scanI o.dd o.dn 0 4 2 0 false)).any
        fun s1 => !badProbe s1 (ctxS 4) scanI o 0 (viewGen s1 v)) = true ∧
    calm (ctxS 4) = true ∧ sget (ctxS 4) (fSP1 scanI) = 0 := by
  decide +kernel

theorem test_met_ScanAndFilters_return :
    let s0 := indexed 2 (rig (ctxS 4))
    let x : Ctx := { ctxS 4 with st := .blocked, wait := .scan scanI, views := [curView s0 0] }
    let s := (s0.setCtx 1 x).setPart 0 { part0 with scans := [1] }
    let a := arr0 s x
    let q := scanW (sget x (fSP1 scanI))
    (s.part x.part).scans.head? = some 1 ∧ x.trapMask = 0 ∧ (s.ctx 1).st = .blocked ∧ (s.part x.part).parked ≠ some 1 ∧
    ((heldView x q.idx).any fun v => (scanOps x scanI).any fun o =>
      let wr := pairWr x scanI o.dd o.dn a 4 2 0 false
      let reads := ((scanLanes x scanI).flatMap (laneReads s x scanI o a (s.index q.idx) v q.mode)).eraseDups
      let all := reads ++ devRanges s x (scanRd s x scanI o a ++ wr)
      let lists := ((scanLanes x scanI).flatMap (laneLists s x scanI o a (viewGen s v))).eraseDups
      let blks := scanBlks s v q.mode lists
      !scanHeld s q.idx && !(all.any (rangeBusy s)) && (touchRanges s all).any fun s1 =>
        let r1 := readBlks (s1.draw 64) blks
        (scanPoison s1 r1 q.idx blks reads).isNone &&
        !inDebt (s.part x.part) (((accessDues s1 reads).zipWith (· + ·) (moveDues s s1 all)).zipWith (· + ·) (flashDues s1 r1))) = true := by
  decide +kernel

theorem test_met_ScanAndFilters_words :
    fopOf 0 = 0 ∧ 1 ≤ fopOf 0x108 ∧ fopOf 0x108 ≤ 8 ∧ fopOf 0x10 = 0x10 ∧ fopOf 0x11 = 0x11 ∧ fopOf 0x12 = 0x12 ∧ fopOf 0x13 = 0x13 ∧
    fopOf 0x14 = 0x14 := by
  decide

/-- A PGRD of one block, of 1 ID, of the brood entries. -/
def pgI (k : Nat) : Insn :=
  if k = 0 then insn 4 0 [(0, 5), (32, 1), (44, 2), (50, 1)]
  else if k = 1 then insn 4 0x100 [(0, 5), (10, 6), (20, 1), (26, 1), (44, 2)] else insn 4 0x200 [(0, 5), (15, 2), (44, 2), (50, 3)]

/-- A context for them: s1 is 1, s2 is 0; t5 and t6 take vectors and IDs of `n` rows. -/
def ctxP (n : Nat) : Ctx :=
  ctxOf [(1, 1)] [(2, desc 6 3 8 1 1), (5, desc 6 7 32 n 4), (6, desc 6 10 1 n 1)]

/-- A context with 4,096 bytes of room behind t5. -/
def ctxB : Ctx := ctxOf [(1, 1)] [(5, desc 6 3 4096 1 1)]

theorem test_met_PgrdReads_lba :
    let own (l : Lock) : Bool := l.ctx == some 1
    let new : Lock := { nsid := 1, lba := 0, n := 1, wr := false, sq := 0, cid := 0, ctx := some 1, ord := false, done := false }
    let s := indexed 2 (rig ctxB)
    let busy : State := { s with host := { s.host with locks := [{ new with wr := true, ctx := none, sq := 1 }] } }
    ((descOf (tget ctxB (fTD (pgI 0)))).any fun d =>
      (opened (takeLock s own new).1 1 [] (rawSegs 5 d 0 0 4096)).any fun s1 => (findNs s 1).any fun ns =>
        let blks (u : State) := [pgrdBlock u s1.free ns 0 0]
        let places := (blks s1).filterMap fun q => q.place
        let s2 := readCounted (s1.draw 0) places
        !placesBusy s1 places && ((blks s2).all fun q => q.val != .uncorrectable) && ns.index.isNone && !inDebt (s.part 0) (flashDues s1 s2)) = true ∧
    issues s 1 (pgI 0) false (pgrdLbaIss s 1 (pgI 0)) = true ∧ (takeLock s own new).2 = true ∧
    issues busy 1 (pgI 0) false (pgrdLbaIss busy 1 (pgI 0)) = true ∧ (takeLock busy own new).2 = false := by
  decide +kernel

theorem test_met_PgrdReads_vectors :
    let s := indexed 2 (rig (ctxP 4))
    let none := { ctxP 4 with sreg := (ctxP 4).sreg.set 1 0 }
    let z := indexed 2 (rig none)
    let v := viewFor s (ctxP 4) 0
    issues s 1 (pgI 1) false (pgrdVecIss s 1 (pgI 1)) = true ∧
    issues z 1 (pgI 1) false (pgrdVecIss z 1 (pgI 1)) = true ∧ sv none (fSM (pgI 1)) * sv none (fSN (pgI 1)) = 0 ∧
    sv (ctxP 4) (fSM (pgI 1)) * sv (ctxP 4) (fSN (pgI 1)) = 1 ∧
    ((descOf (tget (ctxP 4) 6)).any fun db => (opened (fixView s 1 v) 1 (rowsSegs 6 db 0 0 1 1)
      ((descOf (tget (ctxP 4) 5)).elim [] fun d => rowsSegs 5 d 0 0 1 d.e0)).any fun s1 =>
        let ids := [BitVec.ofNat 64 (rdCode s1 (ctxP 4) db 0 0 0)]
        let blks := (ids.flatMap (idBlks s1 v)).eraseDups
        let s2 := readBlks s1 blks
        let l := (ids.filterMap (broodOf s1 v)).map fun e => broodRange (s1.index v.idx) e.seq
        !blksBusy s1 blks && (lostChan s2 blks).isNone && !(l.any (rangeBusy s2)) && (touchRanges s2 l).any fun s3 => !(l.any (rangePoison s3)) && !inDebt (s.part 0) ((dues s2 s3 l).zipWith (· + ·) (flashDues s1 s2))) = true := by
  decide +kernel

/-- The context of PGRD with t6 of `m` rows and the row offset `f` of t5 in s10. -/
def ctxP2 (n m f : Nat) : Ctx := { ctxP n with treg := (ctxP n).treg.set 6 (desc 6 10 1 m 1), sreg := (ctxP n).sreg.set 10 (BitVec.ofNat 64 f) }

/-- The PGRD of brood entries with its offsets in s8 to s11. -/
def pgO : Insn := insn 4 0x280 [(0, 5), (15, 2), (38, 8), (44, 2), (50, 3)]

/-- Two rows fit; one row in t5 is SHAPE_OVER, one in t6 DESC_RANGE, and so are two in t5 behind an offset of one. -/
theorem test_met_PgrdReads_brood : ∀ k : Fin 4,
    let x := ctxP2 (if k = 1 then 1 else 2) (if k = 2 then 1 else 2) (if k = 3 then 1 else 0)
    let s := indexed 2 (rig x)
    let v := viewFor s x 0
    issues s 1 pgO false (pgrdBroodIss s 1 pgO) = true ∧ x.trapMask = 0 ∧
    ((descOf (tget x 2)).any fun dc => (opened (fixView s 1 v) 1 [filterSeg (fixView s 1 v) x 2 dc 0 0] []).any fun s1 =>
      let g := viewGen s1 v
      let prog := filterWords s1 x dc 0 0
      let all := viewBrood s1 v
      let l := (liveBrood all).filter fun e => filterRun (attrRow g e.handle) [] prog
      let reads := all.map (fun e => broodRange (s1.index v.idx) e.seq) ++
        (if filterLooks prog then (liveBrood all).flatMap fun e => attrRanges (s1.index v.idx) g e.handle else [])
      let f := (offsOf x pgO).d
      l.length == 2 && !(reads.any (rangeBusy s1)) && (touchRanges s1 reads).any fun s2 =>
        let due := (dues s1 s2 reads).zipWith (· + ·) [0, 0, 0, 0]
        !(reads.any (rangePoison s2)) && !inDebt (s.part 0) due && (descOf (tget x 5)).any fun d => (descOf (tget x 6)).any fun dn =>
          let s3 := charge s2 0 due
          let wr := rowsSegs 5 d 0 f 2 d.e0 ++ rowsSegs 6 dn 0 f 2 1
          if k = 1 then decide (d.rows < 2)
          else if k = 3 then decide (2 ≤ d.rows) && decide (d.rows < f + 2)
          else if k = 2 then decide (2 ≤ d.rows) && decide (dn.rows < 2)
          else decide (2 ≤ d.rows) && decide (2 ≤ dn.rows) && (devWriteIss s3 1 wr).isEmpty && (opened s3 1 [] wr).isSome) = true := by
  decide +kernel

/-- An APND of one entry. -/
def apI : Insn := insn 4 0 [(5, 5), (10, 6), (15, 7), (20, 1), (44, 2)]

/-- Its context. -/
def ctxA : Ctx := ctxOf [(1, 1)] [(5, desc 6 7 32 1 4), (6, desc 6 10 1 1 1), (7, desc 6 10 1 1 1)]

theorem test_met_AppendsToBrood : ∀ k : Fin 2,
    let n := if k = 0 then 3 else 4
    let s := indexed n (rig ctxA)
    issues s 1 apI false (apndIss s 1 apI) = true ∧
    ((apndOps ctxA apI).any fun o => (opened s 1 (apndRd ctxA apI o 0) []).any fun s1 =>
      let s2 := unitRaise s1 1 0xE0 Exc.none
      (apndEntry s1 ctxA apI o 0 (s1.index 0) 0).isSome && !entersReadOnly s2 1 &&
        (k != 0 || !broodBusy s2 0 1 && (broodRoom s2 0 1).any fun r => !inDebt (s.part 0) r.2)) = true ∧
    (if k = 0 then (s.index 0).broodCount + 1 ≤ (s.index 0).broodCap.toNat else (s.index 0).broodCap.toNat < (s.index 0).broodCount + 1) := by
  decide +kernel

/-- A medium with no spare left and nowhere to write. -/
def worn (s : State) : State := { s with media := { s.media with slcFree := 0, poolFree := 0, spare := 0 } }

/-- An append of no rows, and one on a worn medium. -/
theorem test_met_AppendsToBrood_stops :
    let none := { ctxA with sreg := ctxA.sreg.set 1 0 }
    let s := indexed 3 (rig none)
    let u := worn (indexed 3 (rig ctxA))
    issues s 1 apI false (apndIss s 1 apI) = true ∧ sv none (fSM apI) = 0 ∧
    ((apndOps none apI).any fun o => (opened s 1 (apndRd none apI o 0) []).isSome) = true ∧ issues u 1 apI false (apndIss u 1 apI) = true ∧
    ((apndOps ctxA apI).any fun o => (opened u 1 (apndRd ctxA apI o 0) []).any fun s1 =>
      (apndEntry s1 ctxA apI o 0 (s1.index 0) 0).isSome && entersReadOnly (unitRaise s1 1 0xE0 Exc.none) 1) = true := by
  decide +kernel

theorem test_met_AppendsToBrood_resume :
    let l : List BroodNew := [{ id := 9, handle := 0, tomb := false, vec := [] }]
    let s := indexed 3 (rig (waits (.apnd 0 l 0)))
    (s.ctx 1).wait = .apnd 0 l 0 ∧ (s.index 0).broodCount + l.length ≤ 4 ∧ s.nvm.readOnly = false ∧ entersReadOnly s 1 = false ∧
    broodBusy s 0 l.length = false ∧ ((broodRoom s 0 l.length).any fun r => !inDebt (s.part 0) r.2) = true ∧ (s.ctx 1).st = .blocked ∧ (s.ctx 1).trapMask = 0 ∧
    ({ s with nvm := { s.nvm with readOnly := true } } : State).nvm.readOnly = true ∧ 4 < ((indexed 4 live).index 0).broodCount + l.length := by
  decide +kernel

/-- The context of the fabric instructions: round 3 in s1, 16 bytes in s3, a lease of one GiB in s4. -/
def ctxF : Ctx :=
  ctxOf [(1, 3), (3, 16), (4, 0x40000000)] [(0, desc 6 3 16 1 1), (1, desc 6 9 2 4 1), (2, desc 6 10 2 4 1), (3, desc 6 3 64 1 4)]

theorem test_met_FabricInstructions_send :
    let w := insn 5 0 [(5, 0), (32, 3), (44, 1)]
    let s := inHive1 (rig ctxF)
    let m : SlotMsg := { round := 3, ctx := 1, body := [], ready := false, intake := none, ord := 0, own := false }
    let s0 := (fillSlot s m).setCtx 1 { ctxF with pinEnd := Machine.later ctxF.pinEnd (slotEnd s 3), sending := some 3 }
    issues s 1 w false (sendIss s 1 w) = true ∧ ctxF.sending ≠ some 3 ∧ slotTakes s 3 80 = true ∧
    ((descOf (tget ctxF 0)).any fun d => (opened s0 1 (rawSegs 0 d (arr0 s ctxF) 0 16) []).isSome) = true ∧
    issues (rig ctxF) 1 w false (sendIss (rig ctxF) 1 w) = true ∧ slotTakes (rig ctxF) 3 80 = false := by
  decide +kernel

theorem test_met_FabricInstructions_recv :
    let w := insn 5 0 [(0, 1), (15, 3), (44, 1)]
    let s := inHive1 (rig ctxF)
    let late : State := { s with time := { s.time with now := 5000000 } }
    let a := arr0 s ctxF
    issues (rig ctxF) 1 w false (recvIss (rig ctxF) 1 w) = true ∧ (ownChildren (rig ctxF) 3).isNone = true ∧
    issues s 1 w false (recvIss s 1 w) = true ∧ ownChildren s 3 = some (sched, [1]) ∧ childrenPassed s sched 3 [1] = false ∧
    issues late 1 w false (recvIss late 1 w) = true ∧ childrenPassed late sched 3 [1] = true ∧
    ((descOf (tget ctxF 1)).any fun d => (descOf (tget ctxF 2)).any fun dn => (descOf (tget ctxF 3)).any fun dc =>
      let k := min d.e0 dn.e0
      (opened (late.setCtx 1 { ctxF with pinned := true }) 1 [] (rowsSegs 1 d a 0 (4 * 1) k ++ rowsSegs 2 dn a 0 (4 * 1) k ++ rawSegs 3 dc a 0 64)).isSome) = true := by
  decide +kernel

/-- A lease that context 1 holds or asked for. -/
def lease1 (k : Nat) (g : Bool) : Lease :=
  { window := k, pages := 512, req := BitVec.ofNat 32 (k + 1), ctx := some 1, lender := 9, lbase := 0, granted := g, lost := false, reads := [] }

/-- The drive with leases. -/
def leased (l : List Lease) (s : State) : State := { s with fab := { s.fab with leases := l } }

theorem test_met_FabricInstructions_lease :
    let w := insn 5 0 [(32, 4), (50, 5)]
    let s := inHive1 (rig ctxF)
    let full := leased ((List.range 48).map fun k => lease1 k true) s
    issues (rig ctxF) 1 w false (leaseIss (rig ctxF) 1 w) = true ∧ newestSched (rig ctxF) = none ∧
    issues s 1 w false (leaseIss s 1 w) = true ∧ newestSched s ≠ none ∧ freeWindow s 0 48 ≠ none ∧ s.fab.st ≠ .keeper ∧
    issues full 1 w false (leaseIss full 1 w) = true ∧ freeWindow full 0 48 = none := by
  decide +kernel

theorem test_met_FabricInstructions_release :
    let w := insn 5 0x100 [(50, 5)]
    let r := rig { ctxF with sreg := ctxF.sreg.set 5 (BitVec.ofNat 64 (windowBase 0)) }
    let s := leased [lease1 0 true] (inHive1 r)
    let u := leased [lease1 0 true] r
    let z := inHive1 (rig ctxF)
    let ok (s : State) : Bool := issues s 1 w false (layoutIss w 5 mSP2 0x100 ++ fabricIss s (s.ctx 1))
    ok s = true ∧ newestSched s ≠ none ∧ (heldLease s 1 (sv (s.ctx 1) (fSP2 w))).isSome = true ∧
    ok u = true ∧ newestSched u = none ∧ (heldLease u 1 (sv (u.ctx 1) (fSP2 w))).isSome = true ∧
    ok z = true ∧ heldLease z 1 (sv (z.ctx 1) (fSP2 w)) = none := by
  decide +kernel

/-! ### Contexts, slots and partitions -/

theorem test_met_ChoicesOfCmpkAndTopk : (63 : Nat) < 64 := by decide

/-- The running context holds the arrays; with `n` µs gone of its slice. -/
def later (n : Nat) (s : State) : State := { s with time := { s.time with now := BitVec.ofNat 64 (n * 1000) } }

/-- Partition 0 with a switch. -/
def switched (w : Switch) (s : State) : State := s.setPart 0 { s.part 0 with sw := w }

theorem test_met_SchedulerEvents :
    let s := rig (ctxOf [] [])
    runningOf s 0 = some 1 ∧ s.time.now.toNat < (s.ctx 1).sliceAt.toNat + (s.part 0).desc.slice.toNat * 1000 ∧
    runningOf (later 100 s) 0 = some 1 ∧ ((later 100 s).ctx 1).sliceAt.toNat + ((later 100 s).part 0).desc.slice.toNat * 1000 ≤ (later 100 s).time.now.toNat ∧
    (let u := switched (.clear 1) (rig { ctxOf [] [] with st := .runnable })
     (u.part 0).sw = .clear 1 ∧ (partArrs u 0).any (fun a => blockDown u (clusterOf a)) = false ∧ (u.ctx 1).st = .runnable ∧ (u.ctx 1).cur ≠ none) ∧
    ((switched (.save 1 2) s).part 0).sw = .save 1 2 ∧ saveDown (switched (.save 1 2) s) 0 = false ∧ saveDown (switched (.restore 1) s) 0 = false ∧
    sliceUsed (s.part 0) 1 = 0 ∧ savePoison (switched (.restore 1) s) 0 = false ∧
    (let u : State := switched (.restore 1) { s with tiers := { s.tiers with poison := [saveAddr s 0 / 2048] } }
     (u.part 0).sw = .restore 1 ∧ savePoison u 0 = true) := by
  decide +kernel

/-- Sixteen Blocked contexts, pinned or not, and one Swapped. -/
def crowd (pin : Bool) : State :=
  ((List.range 16).foldl (fun s i => s.setCtx (Fin.ofNat 64 (i + 2))
    { waits (.time 0) with seqr := some (Fin.ofNat 16 i), pinned := pin, sq := BitVec.ofNat 16 (i + 2) }) (rig Ctx.free)).setCtx 1
    { ctxOf [] [] with st := .swapped, seqr := none, wait := .none, starveAt := some 0 }

theorem test_met_SchedulerEvents_starved :
    let s := crowd false
    (swapOrder s).find? (isStarved s) = some 1 ∧ (s.ctx 2).seqr = some 0 ∧ evictVictim s .blocked = some 2 ∧ holdsArrays s 2 = false ∧
    (let u := later 400 (crowd true)
     starvedNow u 1 = true ∧ (u.ctx 1).starved = false ∧ (u.ctx 1).starveAt = some 0 ∧
     (0 : BitVec 64).toNat + 4 * ((u.part (u.ctx 1).part).desc.slice.toNat * 1000) ≤ u.time.now.toNat) := by
  decide +kernel

theorem test_met_SaveAndRestore :
    let s := live.setArr 0 { live.arr 0 with buf := [(Config.bufBytes - 1, 7)], acc := [(Config.accBytes - 1, 1)] }
    memOk s ∧ ∀ a, (∀ q ∈ (s.arr a).buf, q.1 < Config.bufBytes) ∧ (∀ q ∈ (s.arr a).acc, q.1 < Config.accBytes) :=
  ⟨⟨by decide +kernel, by decide +kernel, by decide +kernel⟩, by decide +kernel⟩

/-- An image of one instruction and `n` bytes of constants, its CRC where asked. -/
def image (n : Nat) (good : Bool) : Bytes :=
  let b := toLe 4 0x44524C43 ++ toLe 2 1 ++ toLe 2 0x80 ++ toLe 2 1 ++ List.replicate 6 0 ++ toLe 4 128 ++ toLe 4 16 ++ toLe 4 192 ++ toLe 4 n ++
    List.replicate 6 0 ++ toLe 2 1 ++ List.replicate 84 0
  let c := if good then crc32 (b ++ List.replicate (4 + 64 + n) 0) else 0
  b ++ toLe 4 c ++ List.replicate (64 + n) 0

theorem test_met_ProgramSlots_load :
    let h := hdr .host 1
    let b := image 0 true
    accepts live h .prog = true ∧ b.length = 192 ∧ imgFault live 3 b = none ∧ (imgFault live 3 (image 0 false)).isSome = true ∧
    (live.slot 3).stg = [] ∧ (b.take 100).length < 192 := by
  decide +kernel

theorem test_met_ProgramSlots_activate :
    let s := live.setSlot 3 { Slot.empty with img := image 0 true, loaded := true }
    let v := live.setSlot 3 { Slot.empty with img := image 0 true, loaded := true, active := true }
    accepts s (hdr .host 1) .prog = true ∧ (s.slot 3).loaded = true ∧ (s.slot 3).active = false ∧ (live.slot 3).loaded = false ∧
    (allocRun s.tickSeq (fieldAt (s.slot 3).img 0x42 1 == 0) (pagesFor (constSize (s.slot 3))) (.consts 3) false).isSome = true ∧
    ((allocRun s.tickSeq (fieldAt (s.slot 3).img 0x42 1 == 0) (pagesFor (constSize (s.slot 3))) (.consts 3) false).any fun r =>
      (touchRanges r.1 [(r.2, r.2 + constSize (s.slot 3))]).isSome) = true ∧
    (let b : State := { live with tiers := { live.tiers with limit := 0 } }.setSlot 3 { Slot.empty with img := image 64 true, loaded := true }
     accepts b (hdr .host 1) .prog = true ∧ (b.slot 3).loaded = true ∧ (b.slot 3).active = false ∧
     allocRun b.tickSeq (fieldAt (b.slot 3).img 0x42 1 == 0) (pagesFor (constSize (b.slot 3))) (.consts 3) false = none) ∧
    (v.slot 3).active = true ∧ slotBound v 3 = false ∧ slotBound (rig (ctxOf [] [])) 0 = true := by
  decide +kernel

/-- A drive with an active slot 3 and partition 0. -/
def readied : State := (live.setSlot 3 { Slot.empty with img := image 0 true, loaded := true, active := true }).setPart 0 part0

/-- A context creation on it for queue 1. -/
def createD : Dw := dw (3 * 4096) 1

theorem test_met_ContextsAndSteps_create :
    let k := readied.slot 3
    accepts readied (hdr .host 0) .prog = true ∧ createFieldsBad readied createD = false ∧ k.active = true ∧ (readied.part 0).defined = true ∧
    ctxOfSq readied 1 = none ∧ freeCtx readied = some 0 ∧ (takeSeq readied.tickSeq).isSome = true ∧
    fieldAt k.img 0x26 1 ≤ popCount (readied.part 0).desc.clusters ∧ fieldAt k.img 0x27 1 ≤ popCount (readied.part 0).desc.foragers ∧
    overCap (readied.part 0).desc.ncap (partPages readied 0 (fun x => x.wnSize) + pagesFor (workN k)) = false ∧
    overCap (readied.part 0).desc.fcap (partPages readied 0 (fun x => x.wfSize) + pagesFor (workF k)) = false ∧
    ((allocRun readied.tickSeq true (pagesFor (workN k)) (.workN 0) false).any fun a =>
      (allocRun a.1 false (pagesFor (workF k)) (.workF 0) false).any fun b => (takeSeq b.1).isSome) = true := by
  decide +kernel

theorem test_met_ContextsAndSteps_steps :
    let h := hdr .host 1
    let x : Ctx := { Ctx.free with st := .ready, sq := 1, seqr := some 0 }
    let s := rig x
    let f := rig { x with st := .faulted }
    let d : Dw := dw (112 + 2 ^ 21) 0
    deleteFieldsBad (dw 0x11 0) = false ∧ (s.ctx (Fin.ofNat 64 (dwB (dw 0x11 0).d10 9 4))).st ≠ .free ∧
    (s.ctx (Fin.ofNat 64 (dwB (dw 0x21 0).d10 9 4))).st = .free ∧ accepts s h .prog = true ∧ execFieldsBad d (List.replicate 112 0) = false ∧
    ctxOfSq live h.sq = none ∧ ctxOfSq f h.sq = some 1 ∧ (f.ctx 1).st = .faulted ∧ ctxOfSq s h.sq = some 1 ∧ (s.ctx 1).st = .ready ∧
    (s.ctx 1).queue = [] ∧ s.fab.hive = 0 ∧ ((rig (ctxOf [] [])).ctx 1).st ≠ .ready ∧ ctxOfSq (rig (ctxOf [] [])) 1 = some 1 := by
  decide +kernel

/-- A partition descriptor of a number and a cluster mask, or with an operation's bytes all zero. -/
def pdesc (n cl : Nat) : Bytes := toLe 2 n ++ toLe 2 cl ++ toLe 4 0 ++ toLe 4 500 ++ List.replicate 52 0

theorem test_met_Partitions :
    let s := rig Ctx.free
    let t := rig (ctxOf [] [])
    let z := toLe 1 0 ++ List.replicate 63 0
    accepts s (hdr .host 0) .prog = true ∧ partHeadBad (dw 0 0) (pdesc 1 2) 0 = false ∧ partFieldsBad (pdesc 1 2) = false ∧
    (s.part 1).defined = false ∧ partClash s 1 (partDescOf (pdesc 1 2)) = false ∧ partClash s 1 (partDescOf (pdesc 1 1)) = true ∧
    partFieldsBad (pdesc 0 1) = false ∧ partHeadBad (dw 1 0) (pdesc 0 1) 1 = false ∧ (s.part 0).defined = true ∧
    partClash s 0 (partDescOf (pdesc 0 1)) = false ∧ partBound s 0 = false ∧ partBound t 0 = true ∧ accepts t (hdr .host 0) .prog = true ∧
    (t.part 0).defined = true ∧ partHeadBad (dw 2 0) z 2 = false ∧ partHeadBad (dw 3 0) z 3 = false ∧ zeroAt z 1 63 = true := by
  decide +kernel

theorem test_met_Partitions_stacks :
    let s := paged .swap ((rig (ctxOf [] [])).setPart 0 { part0 with desc := { part0.desc with stackMask := 4 } })
    let pg : Page := { no := 128, owner := .workN 1, pinned := false, loc := .swap, age := 0, stk := 0, xat := none }
    pg ∈ s.tiers.pages ∧ (s.part (s.ctx 1).part).desc.stackMask ≠ 0 ∧ (movePage s [] pg .tierN).isSome = true := by
  decide +kernel

theorem test_met_StatisticalNeedsPermission :
    let s := readied.setSlot 3 { Slot.empty with img := toLe 10 0 ++ toLe 2 1 ++ List.replicate 116 0, loaded := true, active := true }
    let d : Dw := dw (3 * 4096 + 2 ^ 20) 1
    accepts s (hdr .host 0) .prog = true ∧ dwB d.d10 20 20 = 1 ∧
    (fieldAt (s.slot (Fin.ofNat 32 (dwB d.d10 16 12))).img 0x0A 2).testBit 0 = true ∧
    (s.slot (Fin.ofNat 32 (dwB d.d10 16 12))).active = true ∧ (s.part (Fin.ofNat 8 (dwB d.d10 19 17))).defined = true ∧
    ctxOfSq s (BitVec.ofNat 16 (dwB d.d11 15 0)) = none ∧ (freeCtx s).isSome = true ∧ (takeSeq s.tickSeq).isSome = true := by
  decide +kernel

/-- An index descriptor for an operation on index `n`: numbers as (offset, bytes, value). -/
def ixDesc (l : List (Nat × Nat × Nat)) : Bytes := l.foldl (fun b p => b.take p.1 ++ toLe p.2.1 p.2.2 ++ b.drop (p.1 + p.2.1)) (List.replicate 64 0)

/-- A creation of index `n` on namespace 1 with its source in context 1. -/
def ixCreate (n : Nat) : Bytes :=
  ixDesc [(0, 1, n), (3, 1, 2), (4, 2, 32), (6, 1, 8), (8, 4, 1), (0x0C, 4, 4), (0x10, 4, 4), (0x14, 4, 2), (0x18, 4, 1), (0x1C, 4, 1), (0x20, 1, 1)]

/-- The drive of the index commands, its pools open or not; frames of Tier N are free in one stack. -/
def ixDrive (room : Bool) : State :=
  let s := indexed 2 (rig { ctxOf [] [] with st := .ready, cur := none, inStep := false })
  { s with tiers := { s.tiers with limit := if room then s.tiers.limit else 0, freeN := #v[0, 0, 0, 16256] } }

theorem test_met_IndexCommands_create :
    let s := ixDrive true
    let b := ixCreate 5
    let x := idxOf b
    accepts s (hdr .host 0) .prog = true ∧ ixHeadBad (dw 0 0) b 0 = false ∧ createIxBad s b = false ∧
    partsEnd (ixF b 0x28 8) (srcParts x (ixF b 0x1C 4) 0 (ixF b 0x22 1 == 1) (ixF b 0x34 4)) ≤ (srcArea s b).2 ∧
    (s.index (ixNo b)).live = false ∧ s.nvm.readOnly = false ∧ entersReadOnly s.tickSeq 1 = false ∧ (s.index (ixNo (ixCreate 0))).live = true ∧
    (let stop := partsEnd (ixF b 0x28 8) (srcParts x (ixF b 0x1C 4) 0 (ixF b 0x22 1 == 1) (ixF b 0x34 4))
     let src : Range := ((srcArea s b).1 + ixF b 0x28 8, (srcArea s b).1 + stop)
     ((touchRanges s.tickSeq [src]).any fun s2 => (createIdx s2 b x 5).any fun s3 => (touchRanges s3 (madeRanges s3 5)).isSome) = true ∧
     ((touchRanges (ixDrive false).tickSeq [src]).any fun s2 => (createIdx s2 b x 5).isNone) = true) ∧
    accepts (ixDrive false) (hdr .host 0) .prog = true ∧ srcBusy s.tickSeq b = false ∧ srcBusy (ixDrive false).tickSeq b = false ∧
    (let t := s.setCtx 1 (ctxOf [] [])
     accepts t (hdr .host 0) .prog = true ∧ createIxBad t b = false ∧ srcBusy t.tickSeq b = true) := by
  decide +kernel

theorem test_met_IndexCommands_delete :
    let s := ixDrive true
    let held := s.setCtx 1 { ctxOf [] [] with views := [curView s 0] }
    let b := ixDesc []
    ixHeadBad (dw 1 0) b 1 = false ∧ (s.index (ixNo b)).live = true ∧ idxHeld s 0 = false ∧ idxHeld held 0 = true ∧
    accepts held (hdr .host 0) .prog = true ∧ (s.index (ixNo (ixDesc [(0, 1, 9)]))).live = false ∧
    ixHeadBad (dw 5 0) (ixDesc [(0, 1, 9), (7, 1, 50)]) 5 = false ∧ ixHeadBad (dw 3 0) (ixDesc [(0, 1, 9), (0x20, 1, 1)]) 3 = false ∧
    ixHeadBad (dw 5 0) (ixDesc [(7, 1, 50)]) 5 = false ∧ ixF (ixDesc [(7, 1, 50)]) 0x07 1 ≤ 50 := by
  decide +kernel

theorem test_met_IndexCommands_stage :
    let s := ixDrive true
    let b := ixDesc [(0x1C, 4, 1), (0x20, 1, 1)]
    let a := ixDesc [(0x20, 1, 1), (0x30, 4, 8), (0x34, 4, 8)]
    let x := s.index 0
    let st := readStage s x (srcArea s b).1 (ixF b 0x28 8) 1 (ixF b 0x24 4) false
    srcBusy s.tickSeq b = false ∧ srcBusy s.tickSeq a = false ∧ srcBusy (ixDrive false).tickSeq a = false ∧
    srcBusy (s.setCtx 1 (ctxOf [] [])).tickSeq b = true ∧ srcBusy (s.setCtx 1 (ctxOf [] [])).tickSeq a = true ∧ ixHeadBad (dw 2 0) b 2 = false ∧ srcFieldsBad b = false ∧ ixF b 0x22 1 < 2 ∧ ixF b 0x1C 4 ≠ 0 ∧ x.live = true ∧
    ixF b 0x1C 4 ≤ x.ncentCap.toNat ∧ partsEnd (ixF b 0x28 8) (srcParts x 1 (ixF b 0x24 4) false 0) ≤ (srcArea s b).2 ∧
    retBad 1 st.ret = false ∧ s.nvm.readOnly = false ∧
    (touchRanges s.tickSeq [((srcArea s b).1 + ixF b 0x28 8, (srcArea s b).1 + partsEnd (ixF b 0x28 8) (srcParts x 1 (ixF b 0x24 4) false 0))]).isSome = true ∧ ixHeadBad (dw 3 0) a 3 = false ∧ srcFieldsBad a = false ∧
    ixF a 0x30 4 + ixF a 0x34 4 ≤ 0xFFFFFFFE ∧ ixF a 0x28 8 + ixF a 0x34 4 * x.attrWidth.toNat ≤ (srcArea s a).2 ∧
    ((growAttrs s.tickSeq 0 (max x.attrRows.toNat 16)).any fun s2 =>
      (touchRanges s2 (((srcArea s a).1, (srcArea s a).1 + ixF a 0x34 4 * x.attrWidth.toNat) :: (if (s2.index 0).attrAddr = x.attrAddr then [] else
        [((s2.index 0).attrAddr.toNat, (s2.index 0).attrAddr.toNat + x.attrRows.toNat * x.attrWidth.toNat)]))).isSome) = true ∧ growAttrs (ixDrive false).tickSeq 0 (max x.attrRows.toNat 16) = none ∧
    ixHeadBad (dw 4 0) (ixDesc []) 4 = false := by
  decide +kernel

theorem test_met_MergesAndGenerations :
    let s := indexed 2 live
    let q : State := { s with mergeQ := [0] }
    let m : Merge := { idx := 0, limit := 2, stage := none, attrs := [], drop := 0 }
    let r : State := { s with merge := some m }
    let x := r.index 0
    let held : State := r.setCtx 1 { ctxOf [] [] with views := [{ curView r 0 with rcd := x.cur + 1 }] }
    firmwareOn q = true ∧ firmwareOn State.reset = false ∧ flashDown r = false ∧ flashDown { r with rst := { r.rst with act := .resetting 0x11 } } = true ∧
    q.merge = none ∧ q.mergeQ = [0] ∧ q.nvm.readOnly = false ∧ s.mergeQ = [] ∧ recordHeld r 0 (x.cur + 1) = false ∧
    recordHeld held 0 (x.cur + 1) = true ∧ (mergeDone r m).isSome = true ∧ mergeDone (worn r) m = none ∧ formLive (formRows r x x.gens[x.cur] m.stage) ≠ [] ∧
    (liveBrood (absorbed x m)).length = 2 ∧
    (s.index 0).live = true ∧ (s.index 0).durable.toNat < min 2 (s.index 0).head.toNat ∧
    (let f := rig { waits .fence with durs := [(0, 2)] }
     (f.ctx 1).wait = .fence ∧ allDurable (f.setIndex 0 { ix0 2 with durable := 2 }) (f.ctx 1) = true) := by
  decide +kernel

/-! ### Fabric management -/

/-- A schedule table of one member, node 5 of hive 1, of the generation given: rounds of 1 ms. -/
def table (g : Nat) : Bytes :=
  let b := toLe 4 0x43534B48 ++ toLe 2 1 ++ toLe 2 1 ++ toLe 4 g ++ toLe 2 1000 ++ [1, 1] ++ List.replicate 16 0 ++ toLe 2 1 ++ toLe 2 16 ++ toLe 2 8000 ++
    toLe 2 4000 ++ toLe 4 0 ++ [4] ++ List.replicate 15 0
  let e := List.replicate 8 0 ++ toLe 2 5 ++ toLe 2 1 ++ toLe 4 1000 ++
    toLe 2 0 ++ toLe 2 1000 ++ toLe 2 1000 ++ toLe 2 2000 ++ toLe 2 4000 ++ toLe 2 100 ++ toLe 2 0xFFFF ++ [0, 0]
  b ++ toLe 4 (crc32 (b ++ [0, 0, 0, 0] ++ e)) ++ e

theorem test_met_FabricManagement :
    let h := hdr .management 0
    let s := inHive1 (rig (ctxOf [] []))
    let o : State := { live with fab := { live.fab with set := true } }
    let r := toLe 2 7 ++ [4, 0] ++ List.replicate 12 1
    accepts live h .fabric = true ∧ accepts s h .fabric = true ∧ inHive live = false ∧ inHive s = true ∧ fabHeadBad (dw 0 0x1005) 0 = false ∧
    (dw 0 0x1005).d12 = 0 ∧ dwB (dw 0 0x1005).d11 31 13 = 0 ∧ live.rst.trimv = true ∧ fabHeadBad (dw 1 3) 1 = false ∧
    dwB (dw 1 3).d11 31 16 = 0 ∧ dwB (dw 1 3).d11 15 0 ≠ 0 ∧
    (live.ctx (Fin.ofNat 64 (dwB ({ dw 1 3 with d12 := 1 } : Dw).d12 5 0))).st = .free ∧
    dwB ({ dw 1 3 with d12 := 1 } : Dw).d12 31 6 = 0 ∧ (s.ctx 1).st ≠ .free ∧ ((rig (ctxOf [] [])).ctx 1).st ≠ .free ∧
    inHive o = false ∧ o.fab.set = true ∧ live.fab.set = false ∧ fabHeadBad (dw 2 0) 2 = false ∧ fabHeadBad (dw 4 0) 4 = false ∧
    r.length = 16 ∧ fieldAt r 0 2 < 4096 ∧ fieldAt r 2 1 < 8 ∧ fieldAt r 3 1 = 0 ∧ fabHeadBad (dw 5 0x80020FFF) 5 = false ∧
    dwB (dw 5 0x80020FFF).d11 15 12 = 0 ∧ regsLive live = true ∧ reaches live .host = true ∧ reaches live .management = true ∧ reaches s .management = true ∧
    reaches live .debug = false ∧ fenceOk live 0 0 = false ∧ mayWrite live .fabric .host = false ∧ mayWrite live .fabric .management = true ∧
    mayWrite s .fabric .management = true := by
  decide +kernel

theorem test_met_SchedulePieces :
    let h := hdr .management 0
    let o : State := { live with fab := { live.fab with hive := 1, st := .joining, node := 5, set := true } }
    let b := table 2
    accepts o h .fabric = true ∧ fabHeadBad (dw 3 0) 3 = false ∧ b.length = 96 ∧ o.fab.stg = [] ∧
    adoptable o b = true ∧ adoptable o (table 2 ++ [0]) = false ∧
    (let p := List.replicate 4096 0
     p.length = 4096 ∧ (dw 3 0).d11.toNat + p.length < ({ dw 3 0 with d12 := 5000 } : Dw).d12.toNat ∧ (dw 3 4096).d11.toNat ≠ o.fab.stg.length) := by
  decide +kernel

/-! ### Host data -/

/-- A drive of two namespaces whose hold-up bank is charged. -/
def charged : State := { indexed 2 live with media := { live.media with charged := true } }

/-- The same drive with blocks of namespace 1 at LBA 3 (data) and 4 (uncorrectable). -/
def stored : State :=
  let s := charged
  let b (n : Nat) (v : BlkVal) : CEnt := { dseq := 1, nsid := 1, lba := n, group := 1, vals := [v], wait := none }
  { s with nvm := { s.nvm with dseq := 1, cache := [b 3 (.data (List.replicate 4096 7)), b 4 .uncorrectable] } }

/-- Plain options of a command. -/
def plain : NvmOpt := { fua := false, ord := false }

theorem test_met_NvmWritesAndReads_writes :
    let h := hdr .host 1
    let s := charged
    accepts s h .data = true ∧ locksUsed s < 1024 ∧ nsBad s 1 3 2 = none ∧ protected' s = false ∧
    (takeLock s.tickSeq (lockOf h) (newLock h 1 3 2 true false)).2 = true ∧ plain.ord = false ∧ queueQuiet s.tickSeq h = true ∧
    entersReadOnly s 2 = false ∧ writeWaits s 2 = false ∧ forceMedium s = false ∧ plain.fua = false ∧ forceMedium live = true ∧
    s.nvm.dseq.toNat + 1 < 2 ^ 64 ∧ (BitVec.toNat (1 : BitVec 16)) + 1 = 2 := by
  decide +kernel

theorem test_met_NvmWritesAndReads_copies : ∀ k, ∀ c ∈ copiesOf charged k, c.dseq ≤ charged.nvm.dseq.toNat := fun _ _ hc => nomatch hc

theorem test_met_NvmWritesAndReads_reads :
    let h := hdr .host 1
    let s := stored
    accepts s h .data = true ∧ locksUsed s < 1024 ∧ placesBusy s ((readCopies s 1 3 1 ++ readCopies s 1 4 1).filterMap fun q => q.place) = false ∧
    nsBad s 1 3 1 = none ∧ (takeLock s.tickSeq (lockOf h) (newLock h 1 3 1 false false)).2 = true ∧
    ((readCopies s 1 3 1).all fun q => q.val != .uncorrectable) = true ∧ ((readCopies s 1 4 1).any fun q => q.val == .uncorrectable) = true ∧
    nsBad s 1 999 2 = some .lbaRange ∧ nsBad s 2 0 1 = some .indexNamespace ∧ nsBad s 0 0 1 = some .invalidNs := by
  decide +kernel

theorem test_met_DeallocateFlushAndCache :
    let h := hdr .host 1
    let s := stored
    let d : Dw := dw 0 4
    let r : List (BitVec 64 × BitVec 32) := [(3, 2)]
    let z : Dw := dw 0 0
    accepts s h .data = true ∧ locksUsed s < 1024 ∧ nsBad s 1 0 0 = none ∧ dsmFieldsBad d r = false ∧ dsmFieldsBad z r = false ∧ dwB d.d11 2 2 = 1 ∧
    namesIndex s h 1 = false ∧ nsBad s 1 0 (hull r).2 = none ∧ protected' s = false ∧
    (takeLock s.tickSeq (lockOf h) (newLock h 1 (hull r).1 ((hull r).2 - (hull r).1) true false)).2 = true ∧ flashDown s = false ∧
    ((live.nvm.cache.filter fun e => flushNames 1 e.nsid && e.wait.isNone).map fun e => e.dseq) = [] ∧ nsBad s 1 0 0 = none ∧
    ((s.nvm.cache.filter fun e => flushNames 1 e.nsid && e.wait.isNone).map fun e => e.dseq) ≠ [] ∧
    ((s.nvm.cache.find? fun x => x.dseq == 1).any fun e => (programEnt s e).isSome) = true ∧ asleep s = false ∧
    ((rig (waits .lock)).ctx 1).wait = .lock := by
  decide +kernel

/-! ### Administration -/

theorem test_met_InformationCommands :
    let h := hdr .host 0
    let s := indexed 2 live
    accepts s h .info = true ∧ (findNs s 1).isSome = true ∧ (findNs s 2).isSome = true ∧ namesIndex s h 1 = false ∧ namesIndex s h 2 = true ∧
    ((findNs s 1).all fun n => n.attached) = true ∧ (0x20 : BitVec 8).toNat = 0x20 ∧ pageAt s.tickSeq 0xC4 0 0 16 = none ∧
    (16 : BitVec 32).toNat ≤ 1048576 ∧ 1048576 < (0x200000 : BitVec 32).toNat ∧ getBad (dw 6 0) = false ∧ getBad (dw 0x2D0 0) = false ∧
    (pageAt s.tickSeq 0xC2 0 32832 16).isSome = true ∧ (pageAt s.tickSeq 0xC2 0 32833 16).isNone = true ∧ (pageAt s.tickSeq 0xC1 63 0 16).isSome = true ∧
    (featValue s.tickSeq (dw 6 0) false).isSome = true ∧ featBad (dw 6 0) 11 = false ∧ dwB (dw 0x2D0 0).d10 10 8 < 3 ∧
    (featValue s.tickSeq (dw 0x2D0 0) true).isSome = true ∧ (dw 0 0).d14 = 0 ∧ (dw 0 0).d15 = 0 ∧
    ({ s with host := { s.host with miResp := [1] } } : State).host.miResp ≠ [] := by
  decide +kernel

theorem test_met_FeatureCommands :
    let h := hdr .host 0
    let m := hdr .management 0
    dwB (dw 2 4).d10 7 0 = 2 ∧ setBad (dw 0x0B 5) = false ∧ dwB (dw 0x0B 5).d10 7 0 = 0x0B ∧ setBad (dw 0x1D 0) = false ∧ 0x0C < dwB (dw 0x1D 0).d10 7 0 ∧
    setBad (dw 2 4) = false ∧ accepts live h .queues = true ∧ dwB (dw 2 4).d11 31 8 = 0 ∧ 4 < dwB (dw 2 5).d11 4 0 ∧ dwB (dw 2 2).d11 4 0 < 3 ∧
    plainRsv (dwB (dw 1 0x23).d10 7 0) = some 0xF8 ∧ vectorBad live.tickSeq (dw 1 0x23) = false ∧ setBad (dw 1 7) = false ∧ (dw 1 7).d11 &&& 0xF8 = 0 ∧ (dw 1 8).d11 &&& 0xF8 ≠ 0 ∧ apstBad (List.replicate 256 0) = false ∧
    quiet live.tickSeq = true ∧ quiet (rig (ctxOf [] [])).tickSeq = false ∧ accepts (rig (ctxOf [] [])) h .queues = true ∧
    dwB (dw 6 1).d11 31 1 = 0 ∧ dwB (dw 4 0xF0155).d11 31 22 = 0 ∧ dwB (dw 4 0xF0155).d11 21 20 = 0 ∧ dwB (dw 4 0xF0155).d11 19 16 = 15 ∧
    dwB (dw 4 0x180000).d11 21 20 = 1 ∧ dwB (dw 4 0x180000).d11 19 16 = 8 ∧ accepts live m .power = true ∧ dwB (dw 0xD0 1921).d11 31 16 = 0 := by
  decide +kernel

theorem test_met_NamespaceCommands :
    let h := hdr .host 0
    let s := indexed 2 live
    let b (n : Nat) : Bytes := toLe 8 n ++ toLe 8 n ++ List.replicate 4080 0
    let z : Dw := dw 0 0
    accepts s h .queues = true ∧ dwB z.d10 3 0 = 0 ∧ dwB z.d10 31 4 = 0 ∧ fieldAt (b 5) 0 8 = 5 ∧ fieldAt (b 5) 8 8 = 5 ∧ ((b 5).drop 16).any (· != 0) = false ∧
    s.rst.safe = false ∧ 5 ≤ freeBlocks s ∧ freeNsid s = some 3 ∧ freeBlocks s < Config.userBlocks ∧
    fieldAt (b Config.userBlocks) 0 8 = Config.userBlocks ∧ namesIndex s h 2 = true ∧ namesIndex s h 1 = false ∧
    (s.nvm.nss.any fun n => n.nsid == 1) = true ∧ ((findNs s 1).map fun n => n.attached) = some true ∧
    (let t : State := { s with nvm := { s.nvm with nss := [⟨1, 1000, false, none, none⟩] } }
     accepts t h .queues = true ∧ ((findNs t 1).map fun n => n.attached) = some false ∧ namesIndex t h 1 = false) ∧
    dwB z.d10 8 0 = 0 ∧ dwB z.d10 11 9 ≤ 1 ∧ dwB z.d10 31 12 = 0 := by
  decide +kernel

/-- A firmware image of 64 bytes. -/
def fwImage (compat : Nat) : Bytes :=
  let b := [0x4B, 0x46, 0x57, 0x49] ++ List.replicate 8 0 ++ toLe 4 64 ++ toLe 2 1 ++ toLe 2 compat ++ List.replicate 40 0
  b ++ toLe 4 (crc32 (b ++ [0, 0, 0, 0]))

/-- A drive that runs slot 0 with both supervisors, its slot 1 holding an image. -/
def firm (compat : Nat) : State :=
  { live with bst := { live.bst with mem := cellsOf 0x1800000 (fwImage compat) }
              sup := { live.sup with one := live.sup.one.map fun o => { o with running := true } } }

theorem test_met_FirmwareCommands :
    let h := hdr .management 0
    let s : State := { live with fw := { live.fw with staged := fwImage 0 } }
    accepts s h .firmware = true ∧ (({ dw 0 0 with d10 := 15 } : Dw).d10.toNat + 1) * 4 = (fwImage 0).length ∧ commitFieldsBad (dw 2 0) = false ∧
    commitSlot s.tickSeq (dw 2 0) = some 1 ∧ commitSlot s.tickSeq (dw 1 0) = some 0 ∧ s.fw.slot = 0 ∧ s.rst.phase = .run ∧ imageOk s.fw.staged = true ∧
    sectorProt s 0x3000 = false ∧ sectorProt s 0x3001 = false ∧ slotProt s 1 = false ∧ imageOk live.fw.staged = false ∧
    slotProt { s with bst := { s.bst with prot := [0x1800] } } 1 = true ∧ dwB (dw 0x12 0).d10 5 3 = 2 := by
  decide +kernel

theorem test_met_FirmwareCommands_activate :
    let h := hdr .management 0
    let s := firm 0
    let z := firm 3
    accepts s h .firmware = true ∧ commitSlot s.tickSeq (dw 0x1A 0) = some 1 ∧ commitFieldsBad (dw 0x1A 0) = false ∧ dwB (dw 0x1A 0).d10 5 3 = 3 ∧ slotOk s 1 = true ∧
    s.fw.act = none ∧ (activationImage s.tickSeq 1).2 = none ∧
    fwCompat (slotImage (activationImage s.tickSeq 1).1 1) = fwCompat (slotImage (activationImage s.tickSeq 1).1 (activationImage s.tickSeq 1).1.fw.slot) ∧
    (supOne s (s.sup.holder + 1)).running = true ∧ (activationImage z.tickSeq 1).2 = none ∧
    fwCompat (slotImage (activationImage z.tickSeq 1).1 1) ≠ fwCompat (slotImage (activationImage z.tickSeq 1).1 (activationImage z.tickSeq 1).1.fw.slot) := by
  decide +kernel

theorem test_met_QueueCommands :
    let h := hdr .host 0
    let s := live
    accepts s h .queues = true ∧ tailBad (dw 5 0) = false ∧ accepts s h .info = true ∧ dwB (dw 0 0x10001).d11 0 0 = 1 ∧ dwB (dw 0 0x10001).d11 15 3 = 0 ∧ cqExists s 1 = true ∧
    qidBad 129 = true ∧ sqExists s 1 = true ∧ qidBad 2 = false ∧ sqExists s 2 = false ∧ qsizeBad 63 = false ∧ cqExists s 2 = false ∧
    dwB (dw 0 0x800003).d11 15 2 = 0 ∧ dwB (dw 0 0x800003).d11 31 16 = 128 ∧ (s.host.sqs.any fun x => x.cq.toNat == 1) = true ∧
    (let t : State := { s with host := { s.host with sqs := [] } }
     accepts t h .queues = true ∧ (t.host.sqs.any fun x => x.cq.toNat == 1) = false ∧ cqExists t 1 = true) ∧
    s.host.notes = [] ∧ s.host.aers.length < 16 ∧ s.host.aers = [] ∧
    (let t : State := { s with host := { s.host with notes := [0x020100] } }
     accepts t h .queues = true ∧ t.host.notes = [0x020100] ∧ noteLid 0x020100 ∉ t.host.masked) ∧
    (let t : State := { s with host := { s.host with aers := List.replicate 16 3 } }
     accepts t h .queues = true ∧ 16 ≤ t.host.aers.length) ∧ ctxOfSq (rig (ctxOf [] [])) 1 = some 1 := by
  decide +kernel

theorem test_met_MemoryCommands :
    let h := hdr .host 1
    let s := (rig { Ctx.free with st := .ready, sq := 1, seqr := some 0, wnBase := 0x10000000, wnSize := 0x200000 })
    let m (n : Nat) : MemRange := { nsid := 65, start := 0x10000000, len := BitVec.ofNat 64 n }
    accepts s h .data = true ∧ memRange s 65 0x101FFFF0 16 = some (0x101FFFF0, 0x10200000) ∧ memRange s 65 0x101FFFF0 17 = none ∧ s.rst.safe = false ∧
    workBusy s (0x101FFFF0, 0x10200000) = false ∧
    ((touchRanges s.tickSeq [(0x101FFFF0, 0x10200000)]).any fun s1 => !rangePoison s1 (0x101FFFF0, 0x10200000)) = true ∧
    (let t : State := { s with tiers := { s.tiers with poison := [0x101FFFF0 / 2048] } }
     ((touchRanges t.tickSeq [(0x101FFFF0, 0x10200000)]).any fun s1 => rangePoison s1 (0x101FFFF0, 0x10200000)) = true) ∧
    ([m 16].all fun r => match memSpan r.nsid.toNat r.start.toNat r.len.toNat with
       | some r => inWork s r
       | none => false) = true ∧ s.host.ranges.length < 64 ∧ dwB (dw 1 0).d10 3 0 = 1 ∧ dwB (dw 0 0).d10 15 4 = 0 ∧ tailBad (dw 0 0) = false := by
  decide +kernel

theorem test_met_MemoryCommands_sets :
    let s : State := { live with rst := { live.rst with safe := true }, host := { live.host with ranges := List.replicate 64 (5, []) } }
    accepts s (hdr .host 1) .data = true ∧ s.rst.safe = true ∧ 64 ≤ s.host.ranges.length ∧ dwB (dw 0x50001 0).d10 15 4 = 0 ∧ tailBad (dw 0x50001 0) = false ∧ dwB (dw 0x50001 0).d10 3 0 = 1 ∧
    (s.host.ranges.any fun q => q.1 == BitVec.ofNat 16 (dwB (dw 0x50001 0).d10 31 16)) = true := by
  decide +kernel

/-! ### Ports, registers, supervisors and the boot store -/

theorem test_met_ManagementPort :
    let off : State := { live with pins := { live.pins with main := false } }
    miUp live = true ∧ live.pins.main = true ∧ live.rst.phase = .run ∧ served live = true ∧ cfgOk 3 = true ∧ cfgOk 4 = false ∧
    tunnelAsks 2 (dw 0x3FF0000 0) = 4096 ∧ tunnelAsks 2 (dw 0x4000000 0) = 4100 ∧ (live.host.mcfg.find? fun q => q.1 == 3) = none ∧
    (let t : State := { live with host := { live.host with mcfg := [(3, 9)] } }
     miUp t = true ∧ (t.host.mcfg.find? fun q => q.1 == 3) = some (3, 9)) ∧
    (0x4140 : BitVec 32).toNat % 8 = 0 ∧ (regName 0x4140).isSome = true ∧ miUp off = true ∧ off.pins.main = false ∧ live.rst.phase ≠ .held := by
  decide +kernel

theorem test_met_RegisterWindow :
    mayRead live .host = true ∧ mayRead live .debug = false ∧ mayRead State.reset .host = false ∧ regName 0x3FFFF0 = none ∧
    regName (0x1400008) = some .hstDeny ∧ regsLive live = true ∧ reaches live .host = true ∧ reaches live .management = true ∧
    reaches live .debug = false ∧ regName (0x2400000) = some .rstCause ∧ supOnly .rstCause = true ∧
    supOnly .hstDeny = false ∧ regCls .hstDeny = none ∧ regName (0x800018) = some .pool ∧ supOnly .pool = false ∧ regCls .pool = some .queues ∧
    mayWrite live .queues .host = true ∧ mayWrite live .queues .management = false ∧ mayWrite live .power .management = true ∧
    wholly 0x0F 0 3 = true ∧ wholly 0x03 0 1 = true ∧ (0xFF : BitVec 8) ≠ 0 ∧
    (0xFF : BitVec 8) = BitVec.allOnes 8 ∧ bitsOf (0x1C01000 : BitVec 64) 12 0 = 4096 ∧ bitsOf (0x1C01000 : BitVec 64) 24 16 = 448 ∧ wholly 0x0D 0 1 = false ∧
    wholly 0x07 2 3 = false := by
  decide +kernel

theorem test_met_ResetRegistersAreTheSupervisors :
    regName 0x2400000 = some .rstCause ∧ regName 0x2400008 = some .rstBlk ∧ regName 0x2400010 = some .rstBlkTmo ∧ regName 0x2400018 = some .rstWdog ∧
    0x2400018 % 8 = 0 ∧ regsLive live = true ∧ reaches live .host = true ∧ reaches live .management = true ∧ (1 : BitVec 8) ≠ 0 ∧ supOf 0x3E = none := by
  decide +kernel

/-- A running drive whose supervisor 0 holds primacy, both supervisors running. -/
def supers (f : SupOne → SupOne) : State :=
  { live with sup := { live.sup with valid := true, epoch := 1, one := live.sup.one.map fun o => f { o with running := true } } }

theorem test_met_SupervisorsAndBlocks :
    let s := supers id
    s.pins.main = true ∧ regsLive s = true ∧ reaches s .host = true ∧
    bitsOf (7 : BitVec 8) 2 0 = 7 ∧ s.sup.epoch = (0x20001 : BitVec 64).truncate 16 ∧ s.sup.holder.val = bitsOf (0x20001 : BitVec 64) 16 16 ∧
    s.sup.valid = (0x20001 : BitVec 64).getLsbD 17 ∧ s.sup.epoch ≠ (0x20002 : BitVec 64).truncate 16 ∧
    (supOne s 1).running = true ∧ (supOne (supers fun o => { o with waiting := true }) 1).waiting = true ∧ s.rst.phase = .run ∧
    fenceOk s 0 1 = true ∧ fenceOk s 0 2 = false ∧ fenceOk s 1 1 = false ∧ blockCode 11 = true ∧ supOf 11 ≠ some 0 ∧ blockCode 0x60 = false ∧
    supOf 0x50 = some 0 ∧ s.rst.act = .none ∧ (s.sup.takeover = none ∧ s.sup.valid = true ∧ s.sup.holder = 0) ∧
    (let t := supers fun o => { o with failed := true, blkRst := true }
     t.rst.phase = .run ∧ (supOne t 1).blkRst = true ∧ (supOne t 1).heldOff = false) ∧ (supOne s 1).blkRst = false := by
  decide +kernel

theorem test_met_SupervisorsAndBlocks_block :
    let s := rig (ctxOf [] [])
    let a (w : BlkRst) (l : List (BitVec 8)) : State := { s with rst := { s.rst with act := w, waiting := l } }
    (a (.idling 0) []).rst.act = .idling 0 ∧ inFlight (a (.idling 0) []) 0 1 = true ∧ holdsWork (a (.idling 0) []) 0 = false ∧
    holdsWork (rig { waits .fence with prefs := [pref1 9000 0] }) 0x30 = true ∧ (a (.resetting 3) []).rst.waiting = [] ∧ supOf 3 = none ∧
    (a (.resetting 3) [4]).rst.waiting = 4 :: [] ∧ (a (.resetting 3) [4]).rst.act = .resetting 3 ∧
    (let t : State := { s with sup := { s.sup with takeover := some 1 } }
     t.sup.takeover = some 1 ∧ recentFails t 1 < 3) ∧
    (let t : State := { s with sup := { s.sup with takeover := some 1, one := s.sup.one.map fun o => { o with fails := [0, 0, 0] } } }
     t.sup.takeover = some 1 ∧ 3 ≤ recentFails t 1) := by
  decide +kernel

/-- The boot store of a running drive, changed. -/
def booted (f : Bst → Bst) : State := { live with bst := f live.bst }

theorem test_met_EraseIncompleteAndSuspended :
    let e := booted fun b => { b with addr := 0x3000, einc := [3], wait := 7 }
    let u := booted fun b => { b with addr := 0x3000, einc := [3], esusp := true, esect := 3, wait := 7 }
    let o := booted fun b => { b with addr := 0x4FFC, einc := [3], esusp := true, esect := 3, wait := 7 }
    regsLive e = true ∧ bstPort e .management = true ∧ e.bst.op = .none ∧ e.bst.op2 = .none ∧ suspSector e (bstSector e) = false ∧
    bstSector e ∈ e.bst.einc ∧ sectorProt e (bstSector e) = false ∧ e.bst.esusp = false ∧
    u.bst.esusp = true ∧ u.bst.esect.toNat = bstSector u ∧ sectorProt u (bstSector u) = false ∧ bstPort u .management = true ∧
    o.bst.esect.toNat ≠ bstSector o ∧ bstSector o ∉ o.bst.einc ∧ waitNeed o ≤ o.bst.wait.toNat ∧ sectorProt o (bstSector o) = false ∧ o.bst.addr.toNat % 4 = 0 := by
  decide +kernel

theorem test_met_BootStoreOperations :
    let s := booted fun b => { b with addr := 0x3000, wait := 7 }
    let busy := booted fun b => { b with op := .erase 3 }
    let locked := booted fun b => { b with locked := true, pwdset := true, pwd := 5, key := 6 }
    regsLive s = true ∧ bstPort s .host = false ∧ bstPort s .management = true ∧ bstBusy s = false ∧ bstBusy busy = true ∧ busy.bst.esusp = false ∧
    busy.bst.op = .erase 3 ∧ (booted fun b => { b with op := .suspend 3 }).bst.op = .suspend 3 ∧ sectorProt s (bstSector s) = false ∧
    bstSector s ∉ s.bst.einc ∧ waitNeed s ≤ s.bst.wait.toNat ∧ bstReaches s .host = true ∧ s.bst.addr.toNat % 4 = 0 ∧ s.bst.esusp = false ∧
    (booted fun b => { b with addr := 0x3002 }).bst.addr.toNat % 4 ≠ 0 ∧
    (let p := booted fun b => { b with addr := 0x3000, prot := [3] }
     bstPort p .management = true ∧ bstBusy p = false ∧ sectorProt p (bstSector p) = true) ∧
    (let u := booted fun b => { b with esusp := true, esect := 3 }
     bstBusy u = false ∧ u.bst.esusp = true) ∧
    s.bst.locked = false ∧ s.bst.pwdset = false ∧ locked.bst.locked = true ∧ bstBusy locked = false ∧ bstPort locked .management = true ∧
    locked.bst.pwdset = true ∧ locked.bst.badpwd ≠ 3 ∧ locked.bst.pwd ≠ locked.bst.key ∧
    (booted fun b => { b with badpwd := 3 }).bst.badpwd = 3 ∧ ((0 : BitVec 4) = 0 ∨ 11 ≤ (0 : BitVec 4).toNat) := by
  decide +kernel

/-! ### Resets, power and telemetry -/

/-- The drive in a phase of the exit from reset, with `n` failed trim passes. -/
def phased (f : Phase) (n : Nat) : State := { live with rst := { live.rst with phase := f, crcf := BitVec.ofNat 2 n } }

theorem test_met_ResetsAndStart :
    let boot : State := { phased .boot 0 with bst := (firm 0).bst }
    let cold : State := { State.reset with rst := { Rst.powerOn with phase := .held }, pins := { Pins.inactive with main := true } }
    served live = true ∧ warmable live = true ∧ live.rst.phase = .run ∧ live.rst.wdog ≠ 0 ∧ cold.rst.phase = .held ∧ cold.pins.main = true ∧
    (phased .trim 0).rst.phase = .trim ∧ (phased .trim 1).rst.crcf.toNat < 2 ∧ (phased .trim 2).rst.crcf = 2 ∧
    bootSlot (phased .boot 0) = none ∧ bootSlot boot = some 1 ∧ boot.rst.phase = .boot ∧ chosenSlot boot ≠ 1 ∧
    ({ live with media := { live.media with replayed := false } } : State).media.replayed = false ∧
    live.host.ccEn = true ∧ live.host.shst = 0 ∧ (∃ q ∈ live.host.sqs, ctxOfSq (rig (ctxOf [] [])) q.id = some 1) := by
  decide +kernel

theorem test_met_PowerAndSleep :
    let e (v : BitVec 3) : State := { live with host := { live.host with entry := some v } }
    let x : State := { live with host := { live.host with exiting := true, ps := 3 } }
    ({ live with rst := { live.rst with phase := .noPower } } : State).rst.phase = .noPower ∧ charged.media.charged = true ∧ live.media.charged = false ∧
    warmable live = true ∧ (e 4).host.entry = some 4 ∧ (e 4).nvm.cache = [] ∧
    (({ e 3 with nvm := stored.nvm } : State).host.entry = some 3 ∧ ({ e 3 with nvm := stored.nvm } : State).nvm.cache ≠ []) ∧
    x.host.exiting = true ∧ x.host.entry = none ∧ idleTarget live = some 3 ∧ live.rst.phase = .run ∧ live.host.exiting = false ∧
    live.host.entry = none ∧ quiet live = true ∧ quiet (rig (ctxOf [] [])) = false ∧ idleTarget (rig (ctxOf [] [])) = some 3 := by
  decide +kernel

/-- Raw readings: every sensor at `t`, the input sensors at `v` and `c`. -/
def raws (t v c : Int) : List Int := List.replicate 92 t ++ [v, c]

theorem test_met_TelemetryLoops_sample :
    let s := live
    warmable s = true ∧ periodAt s = true ∧ s.rst.trimv = true ∧ periodAt { s with time := { s.time with now := 5 } } = false ∧
    tripped (addMinutes (sampleAll s (raws 2000 12000 1))) = true ∧
    (let s1 := addMinutes (sampleAll s (raws 500 12000 21000))
     tripped s1 = false ∧ limitNow s1 * unitUw < inputPow s1 ∧ s.tel.exc < 79) ∧
    600 ≤ s.tel.clkC.toNat ∧ s.tel.clkC.toNat ≤ 1100 ∧ s.tel.clkC.toNat % 25 = 0 ∧ 500 ≤ s.tel.clkF.toNat ∧ s.tel.clkF.toNat ≤ 1000 ∧
    s.tel.clkF.toNat % 25 = 0 ∧ 800 ≤ s.tel.clkS.toNat ∧ s.tel.clkS.toNat ≤ 1200 ∧ s.tel.clkS.toNat % 25 = 0 := by
  decide +kernel

theorem test_met_TelemetryLoops_limits :
    let hot := sampleAll live (raws 1601 12000 1)
    let mild := sampleAll live (raws 1568 12000 1)
    let t : State := { live with tel := { live.tel with exc := 80 } }
    let bad : State := { live with tel := { live.tel with sens := live.tel.sens.set 7 { sensor live 7 with bad := 10 } } }
    t.rst.trimv = true ∧ 80 ≤ t.tel.exc ∧ throttleRead hot 2 11 = some 1601 ∧ canLowC hot 11 = true ∧ hot.rst.trimv = true ∧
    throttleRead mild 2 11 = some 1568 ∧ ((groupReads mild 2).all fun r => decide (r ≤ 1568)) = true ∧ mild.tel.gapT[(2 : Fin 6)] = 0 ∧
    (sensor bad 7).failed = false ∧ 10 ≤ (sensor bad 7).bad ∧ (sensor mild 89).failed = false ∧ mild.tel.inCnt ≠ 0 ∧
    highest (groupReads mild 2) = some 1568 ∧ live.rst.trimv = true ∧ -127 ≤ (trackedOf live 5).getD 3 0 ∧ (trackedOf live 5).getD 3 0 ≤ 127 := by
  decide +kernel

/-! ### Flash and repair -/

/-- A closed superblock with one page in hand. -/
def sb1 (n : Nat) (slc : Bool) : Sb :=
  { num := n, slc := slc, closed := true, opened := 1, closedAt := 2, taken := [(0, 0)], hp := (0, 0), filled := 1 }

/-- A drive with one closed superblock, number 5 of the SLC region or number 200 of the data pool, which holds one block of
namespace 1. -/
def medium (slc : Bool) : State :=
  let n := if slc then 5 else 200
  let b : MBlk := { key := ⟨1, 7⟩, dseq := 1, group := 1, val := zeroBlock, place := { sb := n, slc := slc, die := 0, block := Fin.ofNat 9375 n, stripe := 0, slot := 0 } }
  { live with nvm := { live.nvm with dseq := 1, blocks := [b] }
              media := { live.media with sbs := [sb1 n slc], order := 2, poolFree := 100, idle := true } }

/-- The drive with an erase of block 9 of die 0. -/
def erasing (susp : Nat) (halted : Bool) : State :=
  let s := medium true
  { s with media := { s.media with erases := [⟨0, 9, true, susp, halted⟩] } }

theorem test_met_FlashUpkeep_fail :
    let s := medium true
    let e := erasing 0 false
    let r : State := { s with media := { s.media with rebuild := [(0, 2)], dieRet := [0] } }
    let b : FlashBlk := ⟨0, 9⟩
    e.pins.main = true ∧ firmwareOn s = true ∧ firmwareOn r = true ∧ flashDown r = false ∧ firmwareOn State.reset = false ∧
    foragerDown e (chanOf 0) = false ∧ foragerDown { e with rst := { e.rst with act := .resetting 0x10 } } (chanOf 0) = true ∧ b.die = 0 ∧ b ∉ e.media.retBlk ∧ (0 : Fin 1536) ∉ e.media.dieRet ∧ (e.media.erases.any fun e => e.die == b.die && e.block == b.block) = true ∧
    (r.media.rebuild.any fun r => r.1 == 0) = true ∧ (rehome r readPlaces (onDie r 0) (fun q => q.num / 9375 == 0 % 48)).isSome = true ∧
    (dieErase e 0).any (fun x => x.halted == false && decide (x.susp < 16)) = true ∧
    (dieErase (erasing 16 false) 0).any (fun x => decide (16 ≤ x.susp)) = true ∧ (dieErase (erasing 15 true) 0).any (fun x => x.halted) = true := by
  decide +kernel

theorem test_met_FlashUpkeep_moves :
    let old (slc : Bool) : State := { medium slc with media := { (medium slc).media with dieRet := [0] } }
    let s := old true
    let q := old false
    let b : FlashBlk := ⟨0, 5⟩
    let r : State := { s with media := { s.media with reloc := [b] } }
    (let m : State := { s with media := { s.media with sbs := [{ sb1 5 true with taken := [(0, 0), (0, 1)] }] } }
     0 ∈ stripesIn m b ∧ (sbChans m (sbOf 0 5)).contains 1 = true ∧ dieAt 1 (sbOf 0 5 / 9375) ≠ 0 ∧ 0 ∈ stripesIn m ⟨dieAt 1 (sbOf 0 5 / 9375), b.block⟩) ∧
    working s = true ∧ (s.media.erases.any fun e => e.die == b.die && e.block == b.block) = false ∧ stripesIn s b ≠ [] ∧
    foragerDown s (chanOf 0) = false ∧ flashDown s = false ∧ flashDown q = false ∧ b ∈ r.media.reloc ∧ (rehome r readPlaces (inBlk b) (fun q => q.num == sbOf b.die b.block)).isSome = true ∧
    working State.reset = false ∧ rackVictim s = some (sb1 5 true) ∧ s.media.idle = true ∧ (emptySb s (sb1 5 true)).isSome = true ∧
    working q = true ∧ q.media.poolFree < 128 ∧ gcVictim q = some (sb1 200 false) ∧ (emptySb q (sb1 200 false)).isSome = true ∧
    s.rst.phase = .run ∧ ckptDue s = false ∧ ckptDue { s with media := { s.media with opened := 64 } } = true := by
  decide +kernel

theorem test_met_RepairsAndFailures_scrub :
    let s := live
    let g : State := { s with tiers := { s.tiers with source := [131072] } }
    working s = true ∧ foragerDown s 3 = false ∧ placeDown s (.tier 131072) = false ∧ placeDown g (.tier 131072) = false ∧ s.tiers.scrubS.lap ≠ 0 ∧ s.tiers.scrubN.lap ≠ 0 ∧ EccPlace.forager 3 (9 / 8 * 8) ∉ s.tiers.sramPoison ∧
    131072 < Config.tierFBase / 2048 - 1 ∧ dramOf s 131072 = some true ∧ hasSource s 131072 = false ∧ 131072 ∉ s.tiers.poison ∧
    hasSource g 131072 = true ∧ sourceLost g = false ∧ dramOf g 131072 = some true := by
  decide +kernel

/-- A drive whose physical array 48, a spare, has a marked row and `n` of its bank's spare rows in use. -/
def marked (n : Nat) : State :=
  { live with tiers := { live.tiers with rowMark := [(48, Config.rowOf (0 / 8 * 8))], rowUsed := List.replicate n (48, Config.rowOf (0 / 8 * 8) / 512) } }

theorem test_met_RepairsAndFailures_rows : ∀ n : Fin 3,
    ((48 : Fin 200), Config.rowOf (0 / 8 * 8)) ∈ (marked n).tiers.rowMark ∧ 48 ∉ (marked n).badPhys ∧
    (activeOf (marked n) 48).elim false (holdsState (marked n)) = false ∧
    ((marked n).tiers.rowUsed.filter (· == ((48 : Fin 200), Config.rowOf (0 / 8 * 8) / 512))).length = n ∧ (marked n).pins.main = true :=
  fun n =>
  have h1 : (48 : Fin 200) ∉ live.badPhys := by decide
  have h2 : (activeOf live 48).elim false (holdsState live) = false := by decide +kernel
  ⟨List.mem_singleton.mpr rfl, h1, h2, by simp [marked], rfl⟩

theorem test_met_RepairsAndFailures_units :
    let s := live
    let h := rig (ctxOf [] [])
    (takeMany (some (Fin.ofNat 4 (2 : BitVec 8).toNat)) [4, 4, 9].eraseDups.length s).isSome = true ∧ (2 : BitVec 8).toNat < 4 ∧ (0 : Fin 200) ∉ h.badPhys ∧
    h.pins.main = true ∧ s.pins.main = true ∧ ({ s with pins := { s.pins with main := false } } : State).pins.main = false ∧
    blockDown s (0x30 + (2 : BitVec 8).toNat) = false ∧ activeOf h 0 = some 0 ∧ arrayCtx h 0 = some 1 ∧
    (freeSpare { s with badPhys := s.badPhys ++ [0] } 0).isSome = true ∧
    freeSpare { s with badPhys := [48, 49] ++ [0] } 0 = none ∧ (0 : Fin 14) ∉ s.tiers.pkgFail ∧ (h.ctx 1).cur ≠ none ∧ (s.fgr 5).retired = false ∧
    (let i := indexed 2 live
     (i.index 0).live = true ∧ (i.index 0).chanMask.getLsbD 5 = true) := by
  decide +kernel

/-! ### The hive -/

/-- A frame of node 9 of hive 1 to all, in epoch 3, at time `t`. -/
def frame (hive t : Nat) : FrameHdr :=
  { ver := 1, hive := BitVec.ofNat 16 hive, src := 9, dst := toAll, epoch := 3, seq := 1, stamp := BitVec.ofNat 48 t, rsvA := 0, round := 0, sgen := 1
    msg := 1, msglen := 0, segno := 0, segcnt := 1, plen := 0, rsvB := 0, srcMac := 0x23, dstMac := 0x034B52480001, etype := 0x88B5 }

/-- The drive in the hive, in a state of the election, at time `t` in nanoseconds. -/
def hived (st : HiveSt) (t : Nat) (x : Ctx) : State :=
  let s := inHive1 (rig x)
  { s with time := { s.time with now := BitVec.ofNat 64 t }, fab := { s.fab with st := st, hiveCtx := some 1 } }

/-- An announcement with an EUI-64, a priority and a state. -/
def announced (eui prio st : Nat) : Bytes := toLe 8 eui ++ [BitVec.ofNat 8 prio, BitVec.ofNat 8 st] ++ List.replicate 22 0

theorem test_met_HiveMessages_frames :
    let s := hived .member 0 (ctxOf [] [])
    let f := frame 1 0
    let l := hived .listening 0 (ctxOf [] [])
    let a := announced 0 1 6
    s.rst.phase = .run ∧ s.fab.ports[(0 : Fin 2)].link = true ∧ live.fab.ports[(0 : Fin 2)].link = false ∧
    f.etype ≠ 0x8808 ∧ f.etype ≠ 0x88F7 ∧ hearsMac s 0 f.dstMac = true ∧ hearsMac s 0 0x22 = false ∧ f.etype = 0x88B5 ∧ a.length ≤ 8192 ∧
    ((List.range 15).all fun k => frameOk s (BitVec.ofNat 8 (k + 1)) f) = true ∧ f.segcnt.toNat ≤ 1 ∧ frameOk s 3 { f with epoch := 2 } = false ∧
    ({ f with etype := 0x0800 } : FrameHdr).etype ≠ 0x88B5 ∧
    frameOk s 1 (frame 2 0) = true ∧ sameHive s (frame 2 0) = false ∧ sameHive s f = true ∧ annOk a = true ∧ annOk (a ++ [0]) = false ∧
    ((s.fab.routes.find? fun q => q.node == srcNode f).map fun q => q.static) = some false ∧
    (let t : State := { s with fab := { s.fab with routes := [⟨9, true, 0x22, true, 0x23, true⟩] } }
     ((t.fab.routes.find? fun q => q.node == srcNode f).map fun q => q.static) = some true) ∧
    (annOf { f with src := 5 } (announced 0 1 4)).node = s.fab.node ∧ (annOf f a).node ≠ s.fab.node ∧ excluded l = false ∧
    l.fab.st = .listening ∧ (annOf f a).st = 6 ∧ newerEq (annOf f a).epoch l.fab.epoch = true := by
  decide +kernel

theorem test_met_HiveMessages_conflict :
    let s : State := { hived .member 0 (ctxOf [] []) with otp := { live.otp with eui := 8 } }
    let a := annOf { frame 1 0 with src := 5 } (announced 7 1 4)
    a.node = s.fab.node ∧ a.eui.toNat < s.otp.eui.toNat ∧ (hived .keeper 0 Ctx.free).fab.st = .keeper ∧
    ¬ ((annOf (frame 1 0) (announced 0 1 4)).st = 6) ∧ (∀ l ∈ s.fab.leases, l.granted = true → l.lost = false → 48 ≤ l.window) := by
  decide +kernel

theorem test_met_HiveMessages_schedule :
    let s := hived .member 0 (ctxOf [] [])
    let b := toLe 8 64 ++ List.replicate 112 (0 : Byte)
    adoptable s (table 2) = true ∧ adoptable s (table 1) = false ∧ s.time.insync = true ∧ s.fab.sched = some sched ∧ excluded s = false ∧
    queryOk b = true ∧ queryOk (toLe 8 65 ++ b.drop 8) = false ∧ fieldAt b 0 8 = 64 ∧ s.fab.hiveCtx = some 1 ∧ (s.ctx 1).st ≠ .faulted ∧ (s.ctx 1).st ≠ .free ∧ (s.ctx 1).st ≠ .ready ∧
    ({ s with fab := { s.fab with hiveCtx := none } } : State).fab.hiveCtx = none ∧ ((hived .member 0 Ctx.free).ctx 1).st = .free ∧
    (let r := hived .member 0 { Ctx.free with st := .ready, sq := 1, seqr := some 0 }
     (r.ctx 1).st = .ready ∧ (r.ctx 1).queue = []) := by
  decide +kernel

/-- A command of a hive context, carried in round 0 or not. -/
def hcmd (sent : Bool) : HiveCmd := { sq := 1, cid := 7, round := 0, msg := [], sent := sent, outLen := 64, fetched := 0, skip := false }

theorem test_met_HiveMessages_rounds :
    let s := hived .member 192000 (ctxOf [] [])
    let f := frame 1 192000
    let late := hived .member 500000 (ctxOf [] [])
    let q : State := { s with fab := { s.fab with cmds := [hcmd true], round := 1 } }
    let root : Sched := { sched with slots := [⟨0, 1000, 1000, 2000, 4000, 100, 1, 0⟩, ⟨0, 0, 1000, 2000, 5000, 100, 0xFFFF, 0⟩] }
    ownIndex s sched = some 0 ∧ sched.indexOf (srcNode f) = some 1 ∧ (sched.slot 0 1).parent = 0 ∧ childTimely s sched 0 1 f = true ∧
    childTimely late sched 0 1 f = false ∧ excluded s = false ∧ (s.fab.sched.bind fun q => q.indexOf (srcNode f)) = some 1 ∧
    root.indexOf (srcNode f) = some 1 ∧ (root.slot 0 1).parent = 0xFFFF ∧
    (q.fab.cmds.find? fun m => m.sent && !m.skip && m.round + BitVec.ofNat 64 sched.depth == roundOf q 1) = some (hcmd true) ∧ s.fab.st ≠ .keeper ∧
    ({ s with time := { s.time with insync := false } } : State).time.insync = false ∧ 4 * 0 + 4 ≤ (toLe 4 300).length ∧
    ((List.replicate 64 (0 : Byte)).any (· != 0)) = false ∧ (([1] : Bytes).any (· != 0)) = true ∧ (let t : State := { s with fab := { s.fab with sched := some { sched with members := [⟨0, 8, true, 1⟩] } } }
     excluded t = true ∧ frameOk t 3 { f with segcnt := 1 } = true) := by
  decide +kernel

theorem test_met_LeaseMessages_request :
    let s := hived .keeper 0 (ctxOf [] [])
    let one : Sched := { sched with members := [⟨8, 10, false, 1000⟩] }
    let t : State := { s with fab := { s.fab with sched := some one } }
    let alone : Sched := { sched with members := [⟨0, 5, true, 1000⟩] }
    s.fab.st = .keeper ∧ excluded s = false ∧ srcNode (frame 1 0) ≠ s.fab.node ∧ pickLender t one (srcNode (frame 1 0)) 0 = some 10 ∧
    pickLender s alone (srcNode (frame 1 0)) 0xFFFFFFFF = none := by
  refine ⟨by decide +kernel, by decide +kernel, by decide +kernel, ?_, by decide +kernel⟩
  simp [pickLender, minBy, Sched.node, srcNode, frame]

theorem test_met_LeaseMessages_grant :
    let own := toLe 4 1 ++ toLe 4 5 ++ toLe 4 1 ++ toLe 8 (2 ^ 40)
    let g := toLe 4 1 ++ toLe 4 9 ++ toLe 4 512 ++ toLe 8 (2 ^ 40)
    let s := hived .member 0 (ctxOf [] [])
    let l : State := { s with tiers := { s.tiers with lend := 1 } }
    let w := leased [lease1 0 false] (hived .member 0 (waits (.lease (insn 5 0 [(50, 5)]) 1)))
    newestSched s ≠ none ∧ newestSched live = none ∧ fieldAt own 8 4 ≠ 0 ∧ BitVec.ofNat 12 (fieldAt own 4 4) = s.fab.node ∧
    (lendPages (remember l 10 (frame 1 0)) 1 (reqNode 1) 1 (2 ^ 40)).isSome = true ∧ BitVec.ofNat 12 (fieldAt g 4 4) ≠ s.fab.node ∧
    (w.fab.leases.find? fun l => l.req == 1 && !l.granted) = some (lease1 0 false) ∧ (lease1 0 false).ctx = some 1 ∧ freeWindow w 0 48 = some 0 ∧
    (w.ctx 1).st = .blocked ∧ (w.ctx 1).wait = .lease (insn 5 0 [(50, 5)]) 1 ∧ calm (w.ctx 1) = true := by
  decide +kernel

theorem test_met_LeaseMessages_loss :
    let asked : Lease := { lease1 0 true with reads := [(64, 8, false)] }
    let s := leased [asked] (hived .member 0 (ctxOf [] []))
    let t : State := { s with fab := { s.fab with lent := [⟨1, 9, 5, 512, 0⟩] }
                              tiers := { s.tiers with pages := [⟨65536, .lent 1 9, true, .tierF, 0, 0, none⟩] } }
    srcNode (frame 1 0) = s.fab.knode ∧ excluded s = false ∧ srcNode { frame 1 0 with src := 7 } ≠ s.fab.knode ∧ hearsMac s 0 (frame 1 0).dstMac = true ∧
    (s.fab.leases.find? fun l => l.req == 1 && l.granted && !l.lost) = some asked ∧ asked.window < 48 ∧
    (s.fab.lent.find? fun l => l.req.toNat == 1 && l.node == 9) = none ∧ (t.fab.lent.find? fun l => l.req.toNat == 1 && l.node == 9) = some ⟨1, 9, 5, 512, 0⟩ ∧
    lentAddr t ⟨1, 9, 5, 512, 0⟩ 64 = some (65536 * Config.pageBytes + 64) ∧ 64 + 64 ≤ 512 * Config.pageBytes ∧
    rangePoison t (65536 * Config.pageBytes + 64, 65536 * Config.pageBytes + 128) = false ∧
    rangePoison { t with tiers := { t.tiers with poison := [65536 * 1024] } } (65536 * Config.pageBytes + 64, 65536 * Config.pageBytes + 128) = true ∧
    (s.fab.leases.find? fun l => l.req.toNat == 1 && l.granted && l.lender == 9 && !l.lost) = some asked ∧
    (64, 8, false) ∈ asked.reads ∧ (64, 9, false) ∉ asked.reads ∧ (xdataBytes true 1 64 8 (List.replicate 8 0)).length = 24 + 8 := by
  decide +kernel

theorem test_met_HiveTimers :
    let s := hived .member 64000 (ctxOf [] [])
    let m : HiveCmd := { hcmd false with fetched := 5 }
    let l : Sched := { sched with slots := [⟨500, 1000, 1000, 2000, 4000, 100, 0xFFFF, 0⟩, ⟨0, 0, 1000, 2000, 3000, 100, 0, 0⟩] }
    let c : State := { s with fab := { s.fab with cmds := [m], sched := some l } }
    let sent : State := { hived .member 4000000 (ctxOf [] []) with fab := { s.fab with cmds := [hcmd true] } }
    let out : Sched := { sched with members := [⟨0, 8, true, 1⟩] }
    mayTransmit s = true ∧ s.fab.sched ≠ none ∧ live.fab.sched = none ∧ mayTransmit { s with fab := { s.fab with sched := none } } = true ∧
    blockBusy s 0x41 = false ∧ excluded s = false ∧ excluded { s with fab := { s.fab with sched := some out } } = true ∧
    (hived .keeper 0 Ctx.free).fab.st = .keeper ∧ (hived .listening 0 Ctx.free).fab.st = .listening ∧ (hived .candidate 0 Ctx.free).fab.st = .candidate ∧
    s.rst.phase = .run ∧ s.fab.pend = none ∧ sched.t0.toNat ≤ s.time.now.toNat ∧ sched.period ≠ 0 ∧ sched.begun s.time.now.toNat = true ∧
    ownPart c = some (l, 0) ∧ c.time.insync = true ∧ inWindow c l (l.slot 0 0).inOff (l.slot 0 0).inLen = true ∧
    m.fetched.toNat < l.at 0 + (l.slot 0 0).inOff * 64 ∧
    wireBits c.fab.vid m.msg.length ≤ roomIn c c.fab.inUsed (allLanes c) (l.at 0 + (l.slot 0 0).inOff * 64) ((l.slot 0 0).inLen * 64) ∧
    canSend c toAll = true ∧ sched.at (0 + sched.depth + 2) ≤ sent.time.now.toNat := by
  decide +kernel

/-- A grant for round 2 of a drive in round 1 whose counter has reached round 2, and a context in a barrier. -/
theorem test_met_HiveTimers_round :
    let h := hived .member 2000001 (waits (.bar 1))
    let s : State := { h with fab := { h.fab with round := 1, grantNext := some (2, 900) } }
    (s.time.now.toNat - sched.t0.toNat) / (sched.period * 1000) = 2 ∧ s.fab.grantNext = some (2, 900) ∧ (2 : BitVec 64).toNat ≤ 2 ∧
    s.fab.round ≠ 2 ∧ (s.ctx 1).wait = .bar 1 ∧ ({ s with fab := { s.fab with fresh := true } } : State).fab.fresh = true := by
  decide +kernel

/-- The schedule with the drive as child of the other member. -/
def childSched : Sched := { sched with slots := [⟨0, 1000, 1000, 2000, 4000, 100, 1, 0⟩, ⟨0, 0, 1000, 2000, 5000, 100, 0xFFFF, 0⟩] }

theorem test_met_HiveTimers_slots :
    let h := hived .member 256000 (ctxOf [] [])
    let s : State := { h with fab := { h.fab with sched := some childSched } }
    let m : SlotMsg := { round := 0, ctx := 1, body := [1, 2], ready := true, intake := none, ord := 0, own := true }
    let t : State := { s with fab := { s.fab with slots := [m] } }
    let u : State := { t with fab := { t.fab with ports := Vector.replicate 2 { PortSt.down with link := true } } }
    let q : SlotMsg := { m with round := 2, intake := some 9 }
    let r : State := { hived .member 2256000 (ctxOf [] []) with fab := { h.fab with round := 2, slots := [q], queries := [(1, 9, 0)] } }
    let e := childSched.slot 0 0
    ownPart s = some (childSched, 0) ∧ e.slotLen ≠ 0 ∧ s.time.now.toNat ≤ childSched.slotAt 0 0 + 256 ∧
    childSched.slotAt 0 0 ≤ s.time.now.toNat + 256 ∧ s.fab.rejoin = none ∧ mayTransmit s = true ∧ e.parent ≠ 0xFFFF ∧
    s.fab.slotSent ≠ some s.fab.round ∧ ({ s with fab := { s.fab with slotSent := some 0 } } : State).fab.slotSent = some s.fab.round ∧
    slotPort s (childSched.node 1) 0 = some 0 ∧ readyMsg s 0 (fun _ => true) = none ∧
    readyMsg t 0 (fun _ => true) = some m ∧ wireBits 0 (64 + 2) ≤ slotBits t e (childSched.node 1) ∧
    readyMsg u 0 (fun _ => true) = some m ∧ slotPort u (childSched.node 1) 0 = some 0 ∧ slotBits u e (childSched.node 1) < wireBits 0 (64 + 2) ∧
    (sched.slot 2 0).parent = 0xFFFF ∧ (9 : BitVec 12) ≠ r.fab.node ∧ slotPort r 9 0 = some 0 ∧
    readyMsg r 2 (fun k => k.intake == some 9 && k.ord == 0) = some q ∧ wireBits 0 (64 + 2) ≤ slotBits r (sched.slot 2 0) 9 ∧
    sched.slotAt 2 0 = r.time.now.toNat ∧ childSched.at 0 + (1000 + 2000) * 64 ≤ s.time.now.toNat ∧ hiveRuns s = false := by
  decide +kernel

theorem test_met_HiveTimers_limits :
    let late := hived .member 900000 (ctxOf [] [])
    let known : State := { late with fab := { late.fab with oos := [(1, 3)] } }
    let out : Sched := { sched with members := [⟨0, 8, true, 1⟩] }
    let b : State := { hived .member 512000 (ctxOf [] []) with fab := { late.fab with sched := some out } }
    let d := hived .member 512000 (ctxOf [] [])
    let u : State := { d with fab := { d.fab with bulk := [(7, 9, [1, 2])], bulkUsed := some (0, 0) } }
    (1 : Fin 512).val < sched.members.length ∧ sched.limitAt (limitRound late sched 1) 1 ≤ late.time.now.toNat ∧
    (sched.slot (limitRound late sched 1) 1).parent = 0 ∧ (sched.slot (limitRound late sched 1) 1).slotLen ≠ 0 ∧
    childMsg late (limitRound late sched 1) 1 = none ∧ late.fab.oos = [] ∧ late.fab.acked = [] ∧ (known.fab.oos.any fun o => o.1 == 1) = true ∧
    ownIndex b out = none ∧ ownIndex u sched ≠ none ∧ inWindow b out out.bulkOff out.bulkLen = true ∧
    u.fab.bulkSent = 0 ∧ canSend u 9 = true ∧ inWindow u sched sched.bulkOff sched.bulkLen = true ∧
    (framesIn u.fab.vid (roomIn u u.fab.bulkUsed (allLanes u) (sched.at 0 + sched.bulkOff * 64) (sched.bulkLen * 64)) (segSizes 2)).1 = (segSizes 2).length := by
  decide +kernel

theorem test_met_TimeAndPorts :
    let s := hived .member 0 (ctxOf [] [])
    let u : State := { live with fab := { live.fab with set := true, ports := Vector.replicate 2 { PortSt.down with link := true, lanes := 4 } } }
    s.rst.phase = .run ∧ s.fab.ports[(1 : Fin 2)].link = true ∧ u.time.corrected = false ∧ u.fab.sched = none ∧ 1000000 < ((u.time.now.toNat : Int) - 1000001).natAbs ∧
    ((u.time.now.toNat : Int) - 1000001) < 0 ∧
    ({ u with time := { u.time with now := 3000000 } } : State).time.corrected = false ∧ (0 : Int) ≤ (3000000 : Int) - 5 ∧
    ({ s with time := { s.time with holdover := true } } : State).time.holdover = true ∧ (7 : Fin 8).val / 4 = 1 ∧
    s.fab.ports[(1 : Fin 2)].good.getLsbD (7 % 4) = true ∧ s.fab.ports[(1 : Fin 2)].good = 0xF ∧
    (goodLanes { PortSt.down with good := 0x7 } ≤ 3 ∧ ({ PortSt.down with training := true } : PortSt).training = true) ∧
    u.fab.set = true ∧ u.rst.trimv = true ∧ u.host.ps ≠ 4 ∧ live.fab.set = false := by
  decide +kernel

/-! ### The drive as a whole -/

theorem test_met_InstructionsLeaveTheDrive : ∃ t,
    colordParts (.add 1 alu) = some (1, 0x10, alu) ∧ exec (.add 1 alu) (rig (ctxOf [] [])) = .next t ∧
    (rig (ctxOf [] [])).media.lostBlk = [] ∧ (rig (ctxOf [] [])).media.lostPg = [] := ⟨_, by decide, rfl, rfl, rfl⟩

theorem test_met_StepsKeepTheDriveSound : ∃ t, step { live with pending := [.announceTimer] } = .next t ∧ memOk live ∧ logOk live :=
  ⟨_, rfl, ⟨by decide +kernel, by decide +kernel, by decide +kernel⟩, by decide, by decide⟩

/-! ## Ill-formed commands

One term for each check of well-formedness, which the check refuses. -/

theorem test_wf_refuses_forms :
    ([.pgrdVectors 0 (insn 4 0 []), .pgrdBrood 0 (insn 4 0 []), .pgrdLba 0 (insn 4 0x100 []), .lease 0 (insn 5 0x100 []), .leaseRelease 0 (insn 5 0 []),
      .setpRatioBand 0 (insn 6 0 []), .setpRatioBandRemoval 0 (insn 6 0 []), .setpDefaultDeadline 0 (insn 6 0 []), .setpTrapMask 0 (insn 6 3 []),
      .reservedOpcode 0 0x10 (insn 1 0 [])] : List Instr).all (fun i => !i.wf) = true := by
  decide

theorem test_wf_refuses_data :
    ([.write (hdr .host 1) 1 0 0 plain [], .compare (hdr .host 1) 1 0 0 plain [], .samplePeriod [], .rcRegisterRead .host 0 9,
      .reservedFrame 0 15 (frame 1 0) [], .bstReservedOp .host 3, .setFeaturesAutonomousPst (hdr .host 0) (dw 0x0C 0) [], .dramRowRepair [] 4 true,
      .scrubPage (.comb 0 0) (.pageCode 3), .scrubPage (.tier 0) (.pageCode 0)] : List Instr).all (fun i => !i.wf) = true := by
  decide +kernel

theorem test_wf_refuses_rows :
    ([.setFeaturesPowerManagement (hdr .host 0) (dw 0xD4 0), .setFeaturesPowerLimit (hdr .host 0) (dw 2 0), .setFeaturesIdleFallback (hdr .host 0) (dw 2 0),
      .setFeaturesAutonomousPst (hdr .host 0) (dw 2 0) (List.replicate 256 0), .setFeaturesVolatileWriteCache (hdr .host 0) (dw 2 0),
      .setFeaturesTemperatureThreshold (hdr .host 0) (dw 2 0), .firmwareCommit (hdr .host 0) (dw 0x18 0), .firmwareCommitActivate (hdr .host 0) (dw 0x10 0)] :
      List Instr).all (fun i => !i.wf) = true := by
  decide +kernel

/-! ## Words and values of the spec -/

/-- The table of operations and events gives no row any bits, so no word spells a command. -/
theorem test_table_words : decodeTableWord 128 (0x10 * 2 ^ 120) = none ∧ (State.reset.withFetchWord 128 5).pending = [] := ⟨rfl, rfl⟩

/-- The encoded DIST of the example in 03: t10, A t1, B t2, N in s6, K in s7, arrays 0 to 63. -/
theorem test_word_dist :
    decodeColord 5 0x2120_0000_0000_3F00_0000_0007_1800_082A = .dist 5 (insn 2 0 [(0, 10), (5, 1), (10, 2), (26, 6), (32, 7), (72, 63)]) := by decide

/-- Words of the other classes by R85 and R89 to R91: BR by 3, s1 = s2 + 5, STT, APND, SEND, EVT and a reserved opcode. -/
theorem test_words :
    decodeColord 0 0x0201_0000_0000_0000_0000_0003_0000_0000 = .br 0 { insn 0 0 [(32, 3)] with pinv := true } ∧
    decodeColord 0 0x1012_0000_0000_0000_0000_0005_0080_0081 = .add 0 { insn 1 0 [(0, 1), (6, 2), (23, 1), (32, 5)] with pred := 1 } ∧
    decodeColord 0 0x3130_0000_0000_0000_0000_0000_0000_0022 = .stt 0 (insn 3 0 [(0, 2), (5, 1)]) ∧
    decodeColord 0 0x4240_0000_0000_0000_0000_2000_0011_18A0 = .apnd 0 (insn 4 0 [(5, 5), (10, 6), (15, 2), (20, 1), (44, 2)]) ∧
    decodeColord 0 0x5050_0000_0000_0000_0000_1003_0000_0000 = .send 0 (insn 5 0 [(32, 3), (44, 1)]) ∧
    decodeColord 0 0x6160_0100_0000_0000_0000_0000_0000_0000 = .evt 0 (insn 6 0x100 []) ∧
    decodeColord 0 0x7070_0000_0000_0000_0000_0000_0000_0000 = .reservedOpcode 0 0x70 (insn 7 0 []) := by
  decide

/-- The exception word of the example in 16: SHAPE_OVER of the sequencer, DIM 2, DETAIL 4,352. -/
theorem test_exception_word :
    excWordBits 0 { cause := .shapeOver, unit := 0xE0, dim := 2, detail := 0x1100 } = 0x00011002E0060000 ∧ regName 0x4140 = some (.ctxExc 5) := by decide

/-- The register of the example in 16: entry 7 of the Tier F table. -/
theorem test_error_register : regName 0x03001170 = some (.ceA 1 7) ∧ regName 0x03001178 = some (.ceB 1 7) ∧ regName 0x03001008 = some (.ceOvf 1) := by decide

/-- Conversions of the example in 04. -/
theorem test_conversions :
    conv .e2m1 (.fin false 5 2) = conv .e2m1 (.fin false 2 1) ∧ (conv .e2m1 (.fin false 7 1)).2 = flOvf ∧
    (conv .e2m1 (.fin false 1 4)) = (0, flUnf) ∧ conv .e4m3 (.fin false 300 1) = (0x79, flNone) ∧ conv .e4m3 (.fin false 464 1) = (0x7E, flNone) ∧
    conv .e4m3 (.fin false 470 1) = (0x7E, flOvf) := by
  decide

/-- Distance codes of the example in 04. -/
theorem test_distance_codes : distCode 0x3FC00000 = 0xBFC00000 ∧ distCode 0xC0000000 = 0x3FFFFFFF := by decide

/-- Scales of the examples in 05. -/
theorem test_scales :
    iScale .int8 [.fin false 5 1] = 0x0014A143 ∧ (learnScale 1 0x3D4C).1 = 123 ∧ (learnScale 2 0x3D4C).1 = 0x0014CC00 ∧
    rnda false (5 * 1048576) 41283 = 127 ∧ rnda true (5 * 1048576) (4 * 41283) = -32 := by
  decide

/-- Tile shapes of the examples in 06. -/
theorem test_tiles : tileShape 64 65536 64 1 = (32, 1024) ∧ tileShape 768 768 64 1 = (96, 96) := by decide

/-- The entry size of the example in 07, the entries of an extent, and its filter of six words. -/
theorem test_extents :
    entBytes { ix0 0 with dim := 768 } = 396 ∧ extEnts { ix0 0 with dim := 768 } = 661 ∧
    filterOk 8 0 [0x0000000700000001, 0x000007DF00010406, 0x000007E400010404, 0x10, 0x10, 0] = true := by
  decide

/-- The derated limits of the example in 17. -/
theorem test_derating : derated 664 1 = 1608 ∧ derated 672 1 = 1584 := by decide

end Sys2Proof.Tests
end

/-! SUPPORT. What the scheduler, the teardown of a step and a fault leave of a context (R73, R84, R319), how a failed check
at issue ends an instruction (R97), and how a failed stage of R403 ends a host command; with them the trap mask's reserved
bits and `SHORT` (R72), and `EXACT_ONLY` (R52). -/

namespace Sys2Proof.Machine

/-! ## The element of least number -/

theorem minBy_eq_none {α : Type} {f : α → Nat} {l : List α} (h : minBy f l = none) : l = [] := by
  cases l with
  | nil => rfl
  | cons x t =>
    simp only [minBy] at h
    split at h
    · cases h
    · split at h <;> cases h

theorem minBy_mem {α : Type} {f : α → Nat} {l : List α} {a : α} (h : minBy f l = some a) : a ∈ l := by
  induction l generalizing a with
  | nil => cases h
  | cons x t ih =>
    simp only [minBy] at h
    split at h
    · cases h; exact List.mem_cons_self
    · next y hy =>
      split at h
      · cases h; exact List.mem_cons_of_mem _ (ih hy)
      · cases h; exact List.mem_cons_self

/-! ## Context registers under the shared operations -/

/-- Steps none of which changes a context do not change it together. -/
theorem foldl_ctx {α : Type} {f : State → α → State} {d : CtxId} (hf : ∀ s a, (f s a).ctx d = s.ctx d) (l : List α) :
    ∀ s, (l.foldl f s).ctx d = s.ctx d := by
  induction l with
  | nil => exact fun _ => rfl
  | cons a t ih => exact fun s => (ih (f s a)).trans (hf s a)

@[simp] theorem complete_ctx (s : State) (h : Hdr) (st : Status) (a b : BitVec 32) (l : Bytes) (d : CtxId) :
    (complete s h st a b l).ctx d = s.ctx d := rfl

@[simp] theorem withdrawSend_ctx (s : State) (c d : CtxId) : (withdrawSend s c).ctx d = s.ctx d := rfl

@[simp] theorem dropLock_ctx (s : State) (c d : CtxId) : (dropLock s c).ctx d = s.ctx d := rfl

@[simp] theorem releasePart_ctx (s : State) (c d : CtxId) : (releasePart s c).ctx d = s.ctx d := rfl

@[simp] theorem wakeParked_ctx (s : State) (d : CtxId) : (wakeParked s).ctx d = s.ctx d := by
  unfold wakeParked
  split <;> rfl

@[simp] theorem completeStep_ctx (s : State) (r : StepReq) (st : Status) (a b : BitVec 32) (l : Bytes) (d : CtxId) :
    (completeStep s r st a b l).ctx d = s.ctx d := by
  unfold completeStep
  split <;> simp

theorem flushQueue_ctx_self (s : State) (c : CtxId) (st : Status) :
    (flushQueue s c st).ctx c = { s.ctx c with queue := [] } := by
  simp [flushQueue, foldl_ctx fun _ _ => completeStep_ctx ..]

theorem foldArrays_ctx_self (s : State) (c : CtxId) : ∃ r, (foldArrays s c).ctx c = { s.ctx c with frec := r } := by
  simp [foldArrays, foldl_ctx fun _ _ => State.setArr_ctx ..]

/-! ## The scheduler -/

/-- The scheduler's successor is Runnable (R304). -/
theorem chooseSucc_runnable {s : State} {p : PartId} {c : CtxId} (h : chooseSucc s p = some c) : (s.ctx c).st = .runnable := by
  have hm : c ∈ allCtx.filter (isCandidate s p) := by
    simp only [chooseSucc] at h
    split at h
    · split at h
      · next hc => cases h; exact hc
      · exact minBy_mem h
    · exact minBy_mem h
  have hc := (List.mem_filter.1 hm).2
  simp only [isCandidate, Bool.and_eq_true, beq_iff_eq] at hc
  exact hc.1.1

/-- What the scheduler can do: change its partition alone, or make a Runnable context Running (R304, R305). -/
theorem dispatch_cases (s : State) (p : PartId) :
    (∃ x, dispatch s p = s.setPart p x) ∨ ∃ c, (s.ctx c).st = .runnable ∧ dispatch s p = makeRunning s c := by
  have stays : ∃ x, s = s.setPart p x := ⟨s.part p, (State.setPart_self s p).symm⟩
  have staysOr (b : Bool) (x : Part) : ∃ y, (if b = true then s else s.setPart p x) = s.setPart p y := by
    split
    · exact stays
    · exact ⟨x, rfl⟩
  unfold dispatch
  simp only
  split
  · exact .inl stays
  · cases hc : chooseSucc s p with
    | none => exact .inl stays
    | some c =>
      cases (s.part p).holder with
      | none =>
        simp only
        split <;> exact .inl (staysOr _ _)
      | some k =>
        simp only
        split
        · exact .inr ⟨c, chooseSucc_runnable hc, rfl⟩
        · cases (s.part p).parked with
          | none => exact .inl (staysOr _ _)
          | some _ =>
            simp only
            split
            · next hk => exact .inr ⟨k, hk.1, rfl⟩
            · exact .inl stays

/-- The scheduler leaves a context alone that is not Runnable. -/
theorem dispatch_ctx {s : State} {d : CtxId} (p : PartId) (h : (s.ctx d).st ≠ .runnable) :
    (dispatch s p).ctx d = s.ctx d := by
  obtain ⟨x, hx⟩ | ⟨c, hc, hx⟩ := dispatch_cases s p
  · rw [hx, State.setPart_ctx]
  · have hd : d ≠ c := fun e => h (e ▸ hc)
    rw [hx, makeRunning, State.setPart_ctx, State.ctx_setCtx_other _ _ _ _ hd]

/-- Seating the Faulted contexts changes nothing of a context but its sequencer (R84). -/
theorem seatFaulted_ctx (s : State) (d : CtxId) : ∃ q, (seatFaulted s).ctx d = { s.ctx d with seqr := q } := by
  unfold seatFaulted
  generalize allCtx.filter _ = l
  induction l generalizing s with
  | nil => exact ⟨(s.ctx d).seqr, rfl⟩
  | cons c t ih =>
    rw [List.foldl_cons]
    split
    · next q _ =>
      obtain ⟨r, hr⟩ := ih (s.setCtx c { s.ctx c with seqr := some q })
      refine ⟨r, hr.trans ?_⟩
      by_cases hd : d = c
      · subst hd; rw [State.ctx_setCtx_same]
      · rw [State.ctx_setCtx_other _ _ _ _ hd]
    · exact ih s

/-! ## Faults -/

/-- A context whose step has ended, its arrays' records folded into `r` (R166, R319). -/
def stoppedCtx (x : Ctx) (r : FRec) : Ctx :=
  { x with frec := r, wait := .none, prefs := [], views := [], durs := [], pinned := false, cur := none, hout := [], sums := []
           degTrap := false, degNow := false, numTrap := false, swBlocked := false, inStep := false, rang := false
           sending := none, starveAt := none }

theorem stopStep_ctx_self (s : State) (c : CtxId) : ∃ r, (stopStep s c).ctx c = stoppedCtx (s.ctx c) r := by
  obtain ⟨r, hr⟩ := foldArrays_ctx_self s c
  exact ⟨r, by simp [stopStep, hr, stoppedCtx]⟩

/-- What a fault leaves of its context: the step has ended, the state is Faulted with the exception word, the fault PC
and an empty queue, and only a sequencer and the time it left Running may differ besides (R69, R73, R81, R84, R319). -/
theorem faultCtx_ctx_self (s : State) (c : CtxId) (cause : Cause) (unit : BitVec 8) (dim : BitVec 4) (detail : BitVec 28) :
    ∃ r n q, (faultCtx s c cause unit dim detail).ctx c = { stoppedCtx (s.ctx c) r with
      st := .faulted, exc := { cause := cause, unit := unit, dim := dim, detail := detail }, fpc := (s.ctx c).pc
      lastRun := n, seqr := q, queue := [] } := by
  obtain ⟨r, hr⟩ := stopStep_ctx_self s c
  unfold faultCtx
  simp only
  generalize hs4 : flushQueue _ c _ = s4
  have h4 : ∃ n, s4.ctx c = { stoppedCtx (s.ctx c) r with
      st := .faulted, exc := { cause := cause, unit := unit, dim := dim, detail := detail }, fpc := (s.ctx c).pc
      lastRun := n, queue := [] } := by
    rw [← hs4, flushQueue_ctx_self]
    split <;> simp [hr]
  obtain ⟨n, hn⟩ := h4
  refine ⟨r, n, ?_⟩
  split
  · obtain ⟨q, hq⟩ := seatFaulted_ctx s4 c
    exact ⟨q, by rw [dispatch_ctx _ (by simp [hq, hn]), hq, hn]⟩
  · exact ⟨_, by rw [dispatch_ctx _ (by simp [hn]), hn]⟩

theorem faultSeq_faulted (s : State) (c : CtxId) (cause : Cause) (dim detail : Nat) :
    ((faultSeq s c cause dim detail).ctx c).st = .faulted ∧ ((faultSeq s c cause dim detail).ctx c).exc.cause = cause ∧
      ((faultSeq s c cause dim detail).ctx c).trapMask = (s.ctx c).trapMask := by
  obtain ⟨r, n, q, h⟩ := faultCtx_ctx_self s c cause 0xE0 (BitVec.ofNat 4 dim) (BitVec.ofNat 28 detail)
  rw [faultSeq, h]
  exact ⟨rfl, rfl, rfl⟩

/-! ## Failed checks at issue -/

/-- Among failed checks that are all the same, that one is reported. -/
theorem firstIss_const {f : Iss} {l : List Iss} (hf : f ∈ l) (hl : ∀ g ∈ l, g = f) : firstIss l = some f := by
  cases h : firstIss l with
  | none => simp [minBy_eq_none h] at hf
  | some g => rw [hl g (minBy_mem h)]

theorem mem_failIf {b : Bool} {f g : Iss} : g ∈ failIf b f ↔ b = true ∧ g = f := by
  cases b <;> simp [failIf]

/-- A failed check faults the Running context (R97). -/
theorem issue_faults {s : State} {c : CtxId} {w : Insn} {lanes : Bool} {chk : List Iss} {f : Iss} (body : State → State)
    (hr : (s.ctx c).st = .running) (hp : pcInCode s (s.ctx c) = true) (hf : firstIss chk = some f) :
    issue s c w lanes chk body = faultSeq s c f.cause f.dim f.detail := by
  simp [issue, hr, hp, hf]

theorem exec_setpTrapMask (c : CtxId) (w : Insn) (s : State) : exec (.setpTrapMask c w) s = execSetpTrapMask c w s := rfl

/-- A SETP of the trap mask whose parameter number or value is reserved faults (R72, R136). -/
theorem exec_setpTrapMask_reserved {s : State} {c : CtxId} {w : Insn} (hr : (s.ctx c).st = .running)
    (hp : pcInCode s (s.ctx c) = true) (hb : w.mod ≠ 0 ∨ bitsOf (sget (s.ctx c) (fSP1 w)) 15 5 ≠ 0) :
    exec (.setpTrapMask c w) s = .next (faultSeq s c .rsvdField 0 0) := by
  have hf : firstIss (layoutIss w 6 mSP1 0xFFFF ++
      failIf (w.mod != 0 || bitsOf (sget (s.ctx c) (fSP1 w)) 15 5 != 0) (iss .rsvdField)) = some (iss .rsvdField) := by
    apply firstIss_const
    · exact List.mem_append_right _ (mem_failIf.2 ⟨by simpa using hb, rfl⟩)
    · intro g hg
      rcases List.mem_append.1 hg with hg | hg
      · exact (mem_failIf.1 hg).2
      · exact (mem_failIf.1 hg).2
  rw [exec_setpTrapMask, execSetpTrapMask, runSetp, issue_faults _ hr hp hf, iss]

/-! ## `SHORT` at the end of an instruction -/

theorem newEvents_short (x : Ctx) : newEvents x ctxShort = [] := by
  rw [newEvents, List.filter_eq_nil_iff]
  intro i hi
  have hb : ctxShort.getLsbD i = false := by
    have h4 := List.mem_range.1 hi
    interval_cases i <;> rfl
  simp [hb]

/-- No trap mask enables `SHORT`, whose flag lies above the mask's bits (R72). -/
theorem trapping_short (x : Ctx) : trapping x ctxShort = 0 := by
  have key : ∀ m : BitVec 5, ctxShort &&& m.zeroExtend 6 = 0 := by decide
  exact key _

/-- An instruction that raises `SHORT` alone records it and goes on, unless it stands degraded (R71, R72, R102). -/
theorem finishInsn_short {s : State} {c : CtxId} (h : calm (s.ctx c) = true) :
    finishInsn s c ctxShort = s.setCtx c (advance { s.ctx c with flags := (s.ctx c).flags ||| ctxShort }) := by
  simp only [calm, Bool.and_eq_true, Bool.not_eq_true'] at h
  obtain ⟨⟨hdt, hdn⟩, hnt⟩ := h
  have hr : recordFlags s c ctxShort = s.setCtx c { s.ctx c with flags := (s.ctx c).flags ||| ctxShort } := by
    simp only [recordFlags, newEvents_short, List.foldl_nil]
  simp [finishInsn, hr, trapping_short, hdt, hdn, hnt]

/-- Settles O29: a reserved bit fails a check at issue, and the flag of `SHORT` is none that the mask can enable. -/
theorem reservedTrapBits : Obligations.ReservedTrapBits := by
  intro s c w hr hp
  refine ⟨fun _ hb => ?_, finishInsn_short⟩
  exact ⟨_, exec_setpTrapMask_reserved hr hp (.inr hb), faultSeq_faulted ..⟩

/-! ## Creating a context -/

/-- A fetch changes nothing but the sequence number and the list of commands that stand unfetched (R329, R420). -/
theorem fetchSeq_cases (s : State) (h : Hdr) :
    ∃ t q, s.fetchSeq h = { s with time := t, host := { s.host with waitQ := q } } := by
  unfold State.fetchSeq
  split
  · exact ⟨_, s.host.waitQ, rfl⟩
  · split
    · exact ⟨_, _, rfl⟩
    · exact ⟨s.time, s.host.waitQ, rfl⟩

@[simp] theorem fetchSeq_ctxs (s : State) (h : Hdr) : (s.fetchSeq h).ctxs = s.ctxs := by
  obtain ⟨t, q, e⟩ := fetchSeq_cases s h
  rw [e]

@[simp] theorem fetchSeq_tiers (s : State) (h : Hdr) : (s.fetchSeq h).tiers = s.tiers := by
  obtain ⟨t, q, e⟩ := fetchSeq_cases s h
  rw [e]

@[simp] theorem fetchSeq_parts (s : State) (h : Hdr) : (s.fetchSeq h).parts = s.parts := by
  obtain ⟨t, q, e⟩ := fetchSeq_cases s h
  rw [e]

@[simp] theorem fetchSeq_part (s : State) (h : Hdr) (p : PartId) : (s.fetchSeq h).part p = s.part p := by
  simp only [State.part, fetchSeq_parts]

@[simp] theorem fetchSeq_slot (s : State) (h : Hdr) (k : SlotId) : (s.fetchSeq h).slot k = s.slot k := by
  obtain ⟨t, q, e⟩ := fetchSeq_cases s h
  rw [e]
  rfl

@[simp] theorem ctxOfSq_fetchSeq (s : State) (h : Hdr) (q : BitVec 16) : ctxOfSq (s.fetchSeq h) q = ctxOfSq s q := by
  simp only [ctxOfSq, State.ctx, fetchSeq_ctxs]

@[simp] theorem freeCtx_fetchSeq (s : State) (h : Hdr) : freeCtx (s.fetchSeq h) = freeCtx s := by
  simp only [freeCtx, State.ctx, fetchSeq_ctxs]

/-- The stages of R403 are tried one after the other. -/
theorem stages_cons (s : State) (h : Hdr) (b : Bool) (st : Status) (l : List (Bool × Status)) (f : State → State) :
    stages s h ((b, st) :: l) f = if b = true then completeSt s h st else stages s h l f := by
  cases b <;> rfl

/-- The second stage of R403 for a context creation: the slot is not active, the partition not defined, the queue has a
context, or no context or sequencer is to be had (R403, R404). -/
def createOutOfState (s : State) (d : Dw) : Bool :=
  !(s.slot (Fin.ofNat 32 (dwB d.d10 16 12))).active || !(s.part (Fin.ofNat 8 (dwB d.d10 19 17))).defined ||
    (ctxOfSq s (BitVec.ofNat 16 (dwB d.d11 15 0))).isSome || (freeCtx s).isNone || (takeSeq s).isNone

theorem createOutOfState_fetchSeq {s : State} {h : Hdr} {d : Dw} (hk : (s.slot (Fin.ofNat 32 (dwB d.d10 16 12))).active = true)
    (hp : (s.part (Fin.ofNat 8 (dwB d.d10 19 17))).defined = true) (hq : ctxOfSq s (BitVec.ofNat 16 (dwB d.d11 15 0)) = none)
    (hc : (freeCtx s).isSome = true) (hs : (takeSeq (s.fetchSeq h)).isSome = true) :
    createOutOfState (s.fetchSeq h) d = false := by
  rw [createOutOfState, fetchSeq_slot, fetchSeq_part, ctxOfSq_fetchSeq, freeCtx_fetchSeq, hk, hp, hq,
    Option.isNone_eq_false_iff.2 hc, Option.isNone_eq_false_iff.2 hs]
  rfl

theorem exec_contextCreate (h : Hdr) (d : Dw) (s : State) : exec (.contextCreate h d) s = execContextCreate h d s := rfl

/-- A creation in STATISTICAL mode on an `EXACT_ONLY` image is refused by the third stage of R403, if by no earlier one
(R52). -/
theorem exec_contextCreate_exactOnly {s : State} {h : Hdr} {d : Dw} (ha : accepts s h .prog = true)
    (hm : dwB d.d10 20 20 = 1) (hx : (fieldAt (s.slot (Fin.ofNat 32 (dwB d.d10 16 12))).img 0x0A 2).testBit 0 = true) :
    exec (.contextCreate h d) s = .next (completeSt (s.fetchSeq h) h
      (if createFieldsBad (s.fetchSeq h) d = true then .invalidField
       else if createOutOfState (s.fetchSeq h) d = true then .sequence else .invalidField)) := by
  have h3 : (dwB d.d10 20 20 == 1 &&
      (fieldAt ((s.fetchSeq h).slot (Fin.ofNat 32 (dwB d.d10 16 12))).img 0x0A 2).testBit 0) = true := by
    rw [hm, fetchSeq_slot, hx]
    rfl
  rw [exec_contextCreate, execContextCreate, hostCmd_accepts (.contextCreate h d) _ ha rfl]
  simp only [stages_cons, if_pos h3]
  change Host.Outcome.next (if _ then _ else if createOutOfState (s.fetchSeq h) d = true then _ else _) = _
  cases createFieldsBad (s.fetchSeq h) d <;> cases createOutOfState (s.fetchSeq h) d <;> rfl

/-- Settles O28: every status with which an early stage of R403 ends the creation is a refusal, posted on the fetched
state. -/
theorem statisticalNeedsPermission : Obligations.StatisticalNeedsPermission := by
  intro s h d ha hm hx
  rw [exec_contextCreate_exactOnly ha hm hx]
  refine ⟨⟨_, rfl, fetchSeq_ctxs s h, fetchSeq_tiers s h, fetchSeq_parts s h, ?_⟩, fun hk hp hq hc hs => ?_⟩
  · rw [lastStatus_completeSt]
    split
    · simp
    · split <;> simp
  · simp [createOutOfState_fetchSeq hk hp hq hc hs]

end Sys2Proof.Machine

/-! SUPPORT. What an Abort leaves behind it (R423), and the one case in which it changes more than its completion and the
sequence number: a second try of an Abort that stood unfetched in its queue (R329, R420). -/

namespace Sys2Proof.Machine

/-- A fetch leaves the host interface alone unless it is the late fetch of a command that stood unfetched, which it strikes
off the list of these (R329, R420). -/
theorem fetchSeq_host_eq_iff (s : State) (h : Hdr) :
    (s.fetchSeq h).host = s.host ↔ ¬(s.replay = true ∧ (h.sq, h.cid) ∈ s.host.waitQ) := by
  by_cases hr : s.replay = true
  · by_cases hw : (h.sq, h.cid) ∈ s.host.waitQ
    · have struck : (s.fetchSeq h).host.waitQ = s.host.waitQ.filter (· != (h.sq, h.cid)) := by
        simp [State.fetchSeq, hr, hw]
      have gone : (h.sq, h.cid) ∉ (s.fetchSeq h).host.waitQ := by simp [struck]
      exact iff_of_false (fun e => gone (e ▸ hw)) (not_not_intro ⟨hr, hw⟩)
    · simp [State.fetchSeq, hr, hw]
  · simp [State.fetchSeq, hr, State.tickSeq]

theorem exec_abort (h : Hdr) (d : Dw) (s : State) : exec (.abort h d) s = execAbort h d s := rfl

/-- An Abort that is taken up posts its completion on the fetched state (R423). -/
theorem exec_abort_accepts {s : State} {h : Hdr} {d : Dw} (ha : accepts s h .queues = true) (hd : tailBad d = false) :
    exec (.abort h d) s = .next (complete (s.fetchSeq h) h .success 1 0 []) := by
  have tail : ¬(d.d11 ≠ 0 ∨ d.d12 ≠ 0 ∨ d.d13 ≠ 0 ∨ d.d14 ≠ 0 ∨ d.d15 ≠ 0) := by
    simpa [tailBad, and_assoc] using hd
  rw [exec_abort, execAbort, hostCmd_accepts (.abort h d) _ ha rfl, if_neg tail]

/-- An Abort that is taken up changes the host interface just where it is the second try of one that stood unfetched. -/
theorem abort_host_eq_iff {s t : State} {h : Hdr} {d : Dw} (ha : accepts s h .queues = true) (hd : tailBad d = false)
    (ht : exec (.abort h d) s = .next t) : t.host = s.host ↔ ¬(s.replay = true ∧ (h.sq, h.cid) ∈ s.host.waitQ) := by
  rw [exec_abort_accepts ha hd] at ht
  obtain rfl := Host.Outcome.next.inj ht
  exact fetchSeq_host_eq_iff s h

/-- An Abort with identifier 9 on submission queue 1; the model takes an Abort from every submission queue. -/
def lateAbort : Instr := .abort (hostHdr 1 9) ⟨0, 0, 0, 0, 0, 0⟩

/-- A running drive whose host has made submission queue 1. -/
def oneQueue : State :=
  { State.reset with
    rst := { Rst.powerOn with phase := .run }
    host := { HostSt.cold false with ccEn := true, rdy := true, sqs := [⟨1, 64, 1⟩] } }

/-- The drive tries that Abort again, which `leaveCmd` had left in its queue behind a command without an entry of the
range-lock table (R420). -/
def lateAbortRetried : State := { leaveCmd oneQueue (hostHdr 1 9) lateAbort with replay := true }

/-- Refutes O40: the fetch of an Abort that stood unfetched takes it off the host interface's list of unfetched commands,
which is no part of the completion or the time. -/
theorem not_abortHasNoEffect : ¬ Obligations.AbortHasNoEffect := by
  intro claim
  have taken : accepts lateAbortRetried (hostHdr 1 9) .queues = true := by decide +kernel
  have waited : ((1, 9) : BitVec 16 × BitVec 16) ∈ lateAbortRetried.host.waitQ := by decide +kernel
  obtain ⟨t, ht, -, same, -⟩ := claim lateAbortRetried (hostHdr 1 9) ⟨0, 0, 0, 0, 0, 0⟩ taken rfl
  have kept : t.host = lateAbortRetried.host := (congrArg State.host same :)
  exact (abort_host_eq_iff taken rfl ht).1 kept ⟨rfl, waited⟩

end Sys2Proof.Machine

/-! SUPPORT. The register writes that R462 leaves to the supervisors, as the other ports make them (R430, R498), and the
boot store at rest or with an erase suspended: which commands it takes and how each of them ends (R465 to R470). -/

namespace Sys2Proof.Machine

/-! ## Registers that are the supervisors' alone -/

theorem exec_bar2RegisterWrite (p : Port) (off : BitVec 32) (v : BitVec 64) (be : BitVec 8) (s : State) :
    exec (.bar2RegisterWrite p off v be) s = execBar2RegisterWrite p off v be s := rfl

theorem exec_rstBlkGo (p : Port) (blk : BitVec 8) (s : State) : exec (.rstBlkGo p blk) s = execRstBlkGo p blk s := rfl

/-- No supervisor writes through the ports that `reaches` speaks of. -/
theorem reaches_supervisor (s : State) (n : Fin 2) (e : BitVec 16) : reaches s (.supervisor n e) = false := rfl

/-- A write of a supervisors' register that reaches the registers is counted and has no other effect, whatever it writes
(R430, R462). -/
theorem writeReg_supOnly {s : State} {p : Port} {off : Nat} {be : BitVec 8} {r : RegName} (v : BitVec 64) (hr : regName off = some r)
    (ho : supOnly r = true) (hb : be ≠ 0) (hp : reaches s p = true) : writeReg s p off v be = countDeny s := by
  rw [writeReg, if_neg hb]
  cases p with
  | supervisor n e => simp [reaches_supervisor] at hp
  | _ => simp [hr, hp, ho]

/-- An access at a register's own offset is one access to that register (R497). -/
theorem writeAt_aligned {off : Nat} (h : off % 8 = 0) (s : State) (p : Port) (v : BitVec 64) (be : BitVec 8) :
    writeAt s p off v be = writeReg s p off v be := by
  simp [writeAt, h]

/-- A `GO` that reaches the registers from a port is counted and has no other effect, whatever block it names (R462). -/
theorem exec_rstBlkGo_denied {s : State} {p : Port} (blk : BitVec 8) (hl : regsLive s = true) (hp : reaches s p = true) :
    exec (.rstBlkGo p blk) s = .next (countDeny s) := by
  rw [exec_rstBlkGo]
  cases p with
  | supervisor n e => simp [reaches_supervisor] at hp
  | _ => simp [execRstBlkGo, hl, hp]

/-- The reset registers are the supervisors' alone (R462). -/
theorem supOnly_of_rst {r : RegName} (h : r = .rstCause ∨ r = .rstBlk ∨ r = .rstBlkTmo ∨ r = .rstWdog) : supOnly r = true := by
  rcases h with rfl | rfl | rfl | rfl <;> rfl

/-- Settles O45: `writeReg` asks whether a register is the supervisors' before it looks at the value, and a `GO` is decided
by its port alone. -/
theorem resetRegistersAreTheSupervisors : Obligations.ResetRegistersAreTheSupervisors := by
  intro s p off v be blk r _ hr denied
  refine ⟨fun ha hn hb hl hp => ?_, fun _ hl hp => exec_rstBlkGo_denied blk hl hp⟩
  rw [exec_bar2RegisterWrite, execBar2RegisterWrite, if_pos hl, writeAt_aligned ha, writeReg_supOnly v hn (supOnly_of_rst hr) hb hp]
  rfl

/-! ## Commands that the boot store takes -/

/-- A port that may write the boot store's class reaches its registers (R430, R456, R470). -/
theorem bstReaches_of_bstPort {s : State} {p : Port} (h : bstPort s p = true) : bstReaches s p = true := by
  cases p with
  | host => rfl
  | fabric => simp [show bstPort s .fabric = false from rfl] at h
  | supervisor n e => rfl
  | management | debug => simp_all [bstPort, bstReaches, mayWrite, admitted, reaches]

/-- A command of the class goes to the boot store while nothing runs there (R465). -/
theorem bstCmd_taken {s : State} {p : Port} (during : Bool) (f : State → State) (hl : regsLive s = true) (hp : bstPort s p = true)
    (hb : bstBusy s = false) : bstCmd p during f s = f s := by
  simp [bstCmd, hl, bstReaches_of_bstPort hp, hp, hb]

section Taken

variable {s : State} {p : Port} (hl : regsLive s = true) (hp : bstPort s p = true) (hb : bstBusy s = false)
include hl hp hb

theorem exec_bstRead_taken : exec (.bstRead p) s = .next (bstDoRead s) :=
  congrArg Host.Outcome.next (bstCmd_taken s.bst.esusp bstDoRead hl hp hb)

theorem exec_bstProgram_taken : exec (.bstProgram p) s = .next (bstDoProgram s) :=
  congrArg Host.Outcome.next (bstCmd_taken s.bst.esusp bstDoProgram hl hp hb)

theorem exec_bstErase_taken : exec (.bstErase p) s = .next (bstDoErase s) :=
  congrArg Host.Outcome.next (bstCmd_taken false bstDoErase hl hp hb)

end Taken

theorem bstBusy_eq_false {s : State} (h1 : s.bst.op = .none) (h2 : s.bst.op2 = .none) : bstBusy s = false := by
  simp [bstBusy, h1, h2]

theorem suspSector_eq_true_iff {s : State} {n : Nat} :
    suspSector s n = true ↔ s.bst.esusp = true ∧ s.bst.esect.toNat = n := by
  simp [suspSector]

/-! ## A read -/

/-- A read of the sector whose erase is suspended gives the status word as it then stands (R468). -/
theorem bstDoRead_suspended {s : State} (hs : suspSector s (bstSector s) = true) :
    bstDoRead s = { s with bst := { s.bst with data := (bstStat (bstRes s 3)).truncate 32, res := 3 } } := by
  rw [bstDoRead, if_pos hs]
  rfl

/-- A read of an erase-incomplete sector gives a free word (R467). -/
theorem bstDoRead_incomplete {s : State} (hs : suspSector s (bstSector s) = false) (he : bstSector s ∈ s.bst.einc) :
    bstDoRead s = { s.draw 4 with bst := { s.bst with data := freeWord32 s, res := 2 } } := by
  simp [bstDoRead, hs, he]

/-- Any other read with enough wait states gives the word that holds `ADDR` (R464, R465). -/
theorem bstDoRead_word {s : State} (hs : suspSector s (bstSector s) = false) (he : bstSector s ∉ s.bst.einc)
    (hw : waitNeed s ≤ s.bst.wait.toNat) :
    bstDoRead s = { s.draw 4 with bst := { s.bst with
      data := BitVec.ofNat 32 (leNat (memGets s.bst.mem (s.bst.addr.toNat / 4 * 4) 4)), res := 0 } } := by
  simp [bstDoRead, hs, he, waitOk, hw]

/-! ## A program -/

theorem bstDoProgram_suspended {s : State} (hn : sectorProt s (bstSector s) = false) (hs : suspSector s (bstSector s) = true) :
    bstDoProgram s = bstRes s 3 := by
  simp [bstDoProgram, hn, hs]

theorem bstDoProgram_incomplete {s : State} (hn : sectorProt s (bstSector s) = false) (hs : suspSector s (bstSector s) = false)
    (he : bstSector s ∈ s.bst.einc) : bstDoProgram s = bstRes s 2 := by
  simp [bstDoProgram, hn, hs, he]

/-- A program that no rule refuses starts (R465). -/
theorem bstDoProgram_starts {s : State} (hn : sectorProt s (bstSector s) = false) (hs : suspSector s (bstSector s) = false)
    (he : bstSector s ∉ s.bst.einc) (ha : s.bst.addr.toNat % 4 = 0) (ho : s.bst.op = .none) :
    bstDoProgram s = { s with bst := { s.bst with op := .program s.bst.addr.toNat s.bst.data } } := by
  simp [bstDoProgram, hn, hs, he, ha, bstStart, ho]

/-- A program that completes lays its word over the store (R465). -/
theorem exec_bstOperationComplete_program {s : State} {a : Nat} {v : BitVec 32} (h : s.bst.op = .program a v) :
    exec (.bstOperationComplete true) s = .next { s with bst := { s.bst with
      mem := memOver s.bst.mem a (toLe 4 v.toNat), res := 0, op := s.bst.op2, op2 := .none } } := by
  change Host.Outcome.next _ = _
  rw [h]
  rfl

/-! ## An erase -/

theorem bstDoErase_suspended {s : State} (hn : sectorProt s (bstSector s) = false) (hs : s.bst.esusp = true) :
    bstDoErase s = bstRes s 4 := by
  simp [bstDoErase, hn, hs]

/-- An erase that no rule refuses starts and sets its sector's erase-incomplete bit (R466). -/
theorem bstDoErase_starts {s : State} (hn : sectorProt s (bstSector s) = false) (hs : s.bst.esusp = false) :
    bstDoErase s = { s with bst := { s.bst with
      op := .erase (bstSector s), einc := s.bst.einc.filter (· != bstSector s) ++ [bstSector s] } } := by
  simp [bstDoErase, hn, hs]

/-- An erase that completes erases its sector (R465). -/
theorem exec_bstOperationComplete_erase {s : State} {n : Nat} (h : s.bst.op = .erase n) :
    exec (.bstOperationComplete true) s = .next { eraseSector s n with bst := { (eraseSector s n).bst with
      res := 0, op := s.bst.op2, op2 := .none } } := by
  change Host.Outcome.next _ = _
  rw [h]
  rfl

/-- An erased sector is no longer erase-incomplete (R466, R467). -/
theorem not_mem_einc_eraseSector (s : State) (n : Nat) : n ∉ (eraseSector s n).bst.einc := by
  simp [eraseSector]

/-! ## The boot store's statement -/

/-- Settles O47: with nothing running every command is taken, and each clause is then the branch of its operation that the
sector's suspended erase or erase-incomplete bit selects. -/
theorem eraseIncompleteAndSuspended : Obligations.EraseIncompleteAndSuspended := by
  intro s p hl hp ho ho2 n a
  have hb := bstBusy_eq_false ho ho2
  rw [exec_bstRead_taken hl hp hb, exec_bstProgram_taken hl hp hb, exec_bstErase_taken hl hp hb]
  refine ⟨fun hs he => ⟨?_, fun hn => ?_, fun hn hsu => ?_⟩,
    fun hsu => ⟨fun heq => ?_, fun hn heq => ?_, fun hn => ?_, fun hne he => ?_⟩⟩
  · rw [bstDoRead_incomplete hs he]
  · rw [bstDoProgram_incomplete hn hs he, bstRes]
  · have hop : (bstDoErase s).bst.op = .erase n := by rw [bstDoErase_starts hn hsu]
    exact ⟨_, _, rfl, hop, exec_bstOperationComplete_erase hop, not_mem_einc_eraseSector _ n, rfl⟩
  · rw [bstDoRead_suspended (suspSector_eq_true_iff.2 ⟨hsu, heq⟩), bstRes]
  · rw [bstDoProgram_suspended hn (suspSector_eq_true_iff.2 ⟨hsu, heq⟩), bstRes]
  · rw [bstDoErase_suspended hn hsu, bstRes]
  · have hs : suspSector s n = false := Bool.eq_false_iff.2 fun h => hne (suspSector_eq_true_iff.1 h).2
    refine ⟨fun hw => ⟨_, rfl, ?_⟩, fun hn ha => ?_⟩
    · rw [bstDoRead_word hs he hw]
      exact ⟨rfl, rfl, rfl⟩
    · rw [bstDoProgram_starts hn hs he ha ho]
      refine ⟨_, _, rfl, exec_bstOperationComplete_program rfl, rfl, memGets_memOver _ a _, fun i hi => ?_, hsu⟩
      exact (memGet_memOver ..).trans (if_neg (by change ¬(a ≤ i ∧ i < a + 4); omega))

end Sys2Proof.Machine
